-- ==== Sys2Proof/Word.lean ====
section
/-! DEFINITION. The machine's word types: 32-bit registers, bytes and 64-bit addresses (R3, R71). -/

namespace Sys2Proof

/-- A register word (R71). -/
abbrev Word := BitVec 32

/-- A byte of memory. -/
abbrev Byte := BitVec 8

/-- A 64-bit quantity: an address pair, a counter, an identifier. -/
abbrev Dword := BitVec 64

/-- A lane mask of a jet: bit `l` stands for lane `l` (R148). -/
abbrev Lanes := BitVec 32

end Sys2Proof
end

