-- ==== Sys2Proof/Syntax.lean ====
section
/-! DEFINITION. The syntax of the Plastad machine: the codes the instruction fields hold and the one inductive of
instructions and events, one constructor per row of the opcode table (chapter 05, Tables 5.4 to 5.11, and the events of
"What each step holds"). -/

namespace Sys2Proof

/-- A seven-bit register field: a register number of the class that the opcode gives (R71). -/
abbrev Reg := BitVec 7

/-- Integer forms (Table 5.4, IT). -/
inductive AddForm where
  | wrap | ssat | nsat | b64
  deriving DecidableEq, Repr

/-- Forms of `IMAD` (Table 5.6). -/
inductive MadForm where
  | b32 | n64 | s64
  deriving DecidableEq, Repr

/-- Integer conditions (Table 5.4, CC). -/
inductive Cc where
  | eq | ne | lt | le | gt | ge | ltu | leu | gtu | geu
  deriving DecidableEq, Repr

/-- FP32 conditions of `FCMP` (Table 5.7). -/
inductive Fcc where
  | eq | ne | lt | le | gt | ge | un | ord
  deriving DecidableEq, Repr

/-- Float types (Table 5.4, FT). -/
inductive FTy where
  | f32 | f16x2 | bf16x2
  deriving DecidableEq, Repr

/-- The four rounding modes (R118). -/
inductive Rm where
  | rn | rz | ru | rd
  deriving DecidableEq, Repr

/-- Conversion codes (R94), destination type first. -/
inductive CvtCode where
  | f32s32 | f32n32 | s32f32 | n32f32 | f16f32 | f32f16 | bf16f32 | f32bf16 | e4m3f32 | f32e4m3 | e5m2f32 | f32e5m2 | e3m2f32 | f32e3m2 | e2m3f32 | f32e2m3 | e2m1f32 | f32e2m1 | e8m0f32 | f32e8m0 | s8f32 | f32s8
  deriving DecidableEq, Repr

/-- Forms of `PACK` (Table 5.7). -/
inductive PackForm where
  | f16x2 | bf16x2 | e4m3lo | e4m3hi | e5m2lo | e5m2hi
  deriving DecidableEq, Repr

/-- Forms of `UNPK` (Table 5.7). -/
inductive UnpkForm where
  | f16lo | f16hi | bf16lo | bf16hi | e4m3b0 | e4m3b1 | e4m3b2 | e4m3b3 | e5m2b0 | e5m2b1 | e5m2b2 | e5m2b3
  deriving DecidableEq, Repr

/-- Forms of `SMUL` (Table 5.8). -/
inductive SmulForm where
  | low | hin | his
  deriving DecidableEq, Repr

/-- Operations of `SLOG` (Table 5.8). -/
inductive SlogForm where
  | and | or | xor | andn
  deriving DecidableEq, Repr

/-- Operations of `SSHF` (Table 5.8). -/
inductive SshfForm where
  | shl | shr | sar
  deriving DecidableEq, Repr

/-- Operations of `JRED` (Table 5.8). -/
inductive RedOp where
  | add | mins | maxs | minn | maxn | and | or | xor | fadd | fmin | fmax | first
  deriving DecidableEq, Repr

/-- Operations of `PLOG` (Table 5.8). -/
inductive PlogForm where
  | and | or | xor | andn | orn
  deriving DecidableEq, Repr

/-- What `IDR` reads (Table 5.8). -/
inductive IdForm where
  | lane | jet | basin | wid | wid0 | core
  deriving DecidableEq, Repr

/-- Access sizes (Table 5.4, MS). -/
inductive Size where
  | b8 | b16 | b32 | b64
  deriving DecidableEq, Repr

/-- Scopes (Table 5.4, OS). -/
inductive Scope where
  | bsn | pkg | sys
  deriving DecidableEq, Repr

/-- Memory orders (Table 5.4, OS). -/
inductive MemOrder where
  | relaxed | acq | rel | ar
  deriving DecidableEq, Repr

/-- Atomic operations (R96). -/
inductive AtomOp where
  | add | fadd | umin | umax | and | or | xor | exch
  deriving DecidableEq, Repr

/-- The space of a reservoir access (Table 5.10). -/
inductive Space where
  | g | s
  deriving DecidableEq, Repr

/-- The word of a reservoir that `RSVX` reaches (Table 5.10). -/
inductive RsvField where
  | pay | phat | wsum | mf
  deriving DecidableEq, Repr

/-- Signedness of an operation: natural or signed. -/
inductive Sign where
  | n32 | s32
  deriving DecidableEq, Repr

/-- Every instruction word of chapter 05 and every event of the machine that has no word: one constructor per row of the
opcode table. A register field is a raw seven-bit number; its kind is checked by `Instr.wf`. The numeric arguments of an
event say which basin `b`, jet `j`, lane `l`, pending operation `k`, context `c`, queue `q`, launch or table entry `n`
it is about. -/
inductive Instr where
  /-- NOP: Does nothing. (R91) -/
  | nop
  /-- GRD: Samples predicate k, or its negation, once in each executing thread and guards that thread's next n instruction words. (R85) -/
  | grd (k : Reg) (neg : Bool) (n : BitVec 3)
  /-- BRA: Branches every executing thread to the address of the branch plus 4 × off25. (R143) -/
  | bra (off : BitVec 25)
  /-- BRC: Branches each executing thread whose predicate, optionally negated, is true; the other threads go on to the next word. (R143) -/
  | brc (neg : Bool) (p : BitVec 4) (imm : BitVec 18)
  /-- BRX: Branches each executing thread to the address in a vector register pair, with bits 1:0 cleared. (R143) -/
  | brx (a : Reg)
  /-- CALL: Writes the return address into v28:v29 and branches by off25. (R143) -/
  | call (off : BitVec 25)
  /-- CALLX: Reads its target from a register pair, writes the return address into v28:v29 and branches to the target. (R143) -/
  | callx (a : Reg)
  /-- RET: Branches each executing thread to the address in its v28:v29. (R143) -/
  | ret
  /-- EXIT: Ends each executing thread, clears its lane from every mask, tests the masks for completion and retires the jet when its last thread exits. (R146) -/
  | exit
  /-- MARK: Sets mask register d to the executing set. (R149) -/
  | mark (m : Reg)
  /-- JOIN: Adds the executing set to mask register d. (R149) -/
  | join (m : Reg)
  /-- LEAVE: Removes the executing set from mask register d. (R149) -/
  | leave (m : Reg)
  /-- WAITM: Blocks each executing thread on mask d until the mask is complete. (R150) -/
  | waitm (m : Reg)
  /-- BAR: Each executing thread arrives at named barrier d with the participant count in s<a>, and blocks until the phase completes. (R155) -/
  | bar (k : Reg) (a : Reg)
  /-- BAR_ARRIVE: Each executing thread arrives at named barrier d without waiting. (R155) -/
  | barArrive (k : Reg) (a : Reg)
  /-- WINB: Sets the jet's window base for the jet's later issues. (R161) -/
  | winb (imm : BitVec 18)
  /-- REORD: Each executing thread waits until every non-exited thread of its basin has executed a REORD. (R162) -/
  | reord (a : Reg)
  /-- IADD: Adds two vector registers in wrapping, saturating or 64-bit form. (R126) -/
  | iadd (d : Reg) (a : Reg) (b : Reg) (it : AddForm)
  /-- ISUB: Subtracts two vector registers in wrapping, saturating or 64-bit form. (R126) -/
  | isub (d : Reg) (a : Reg) (b : Reg) (it : AddForm)
  /-- IMUL: Writes the low 32 bits of the product. (R126) -/
  | imul (d : Reg) (a : Reg) (b : Reg)
  /-- IMAD: Multiplies and adds into d, in 32-bit or 64-bit unsigned or signed form. (R126) -/
  | imad (d : Reg) (a : Reg) (b : Reg) (f : MadForm)
  /-- IMULH: Writes the high 32 bits of an unsigned or signed product. (R126) -/
  | imulh (d : Reg) (a : Reg) (b : Reg) (s : Sign)
  /-- IADDI: Adds a sign-extended 11-bit immediate. (R126) -/
  | iaddi (d : Reg) (a : Reg) (imm : BitVec 11)
  /-- AND: Forms the bitwise AND, with b optionally inverted. (R126) -/
  | and (d : Reg) (a : Reg) (b : Reg) (inv : Bool)
  /-- OR: Forms the bitwise OR, with b optionally inverted. (R126) -/
  | or (d : Reg) (a : Reg) (b : Reg) (inv : Bool)
  /-- XOR: Forms the bitwise XOR, with b optionally inverted. (R126) -/
  | xor (d : Reg) (a : Reg) (b : Reg) (inv : Bool)
  /-- ANDI: ANDs with a sign-extended immediate. (R126) -/
  | andi (d : Reg) (a : Reg) (imm : BitVec 11)
  /-- ORI: ORs with a sign-extended immediate. (R126) -/
  | ori (d : Reg) (a : Reg) (imm : BitVec 11)
  /-- SHL: Shifts left by the amount in a register. (R126) -/
  | shl (d : Reg) (a : Reg) (b : Reg)
  /-- SHL_I: Shifts left by an immediate amount from 0 to 31. (R126) -/
  | shlI (d : Reg) (a : Reg) (n : BitVec 5)
  /-- SHR: Shifts right logically by the amount in a register. (R126) -/
  | shr (d : Reg) (a : Reg) (b : Reg)
  /-- SHR_I: Shifts right logically by an immediate amount. (R126) -/
  | shrI (d : Reg) (a : Reg) (n : BitVec 5)
  /-- SAR: Shifts right arithmetically by the amount in a register. (R126) -/
  | sar (d : Reg) (a : Reg) (b : Reg)
  /-- SAR_I: Shifts right arithmetically by an immediate amount. (R126) -/
  | sarI (d : Reg) (a : Reg) (n : BitVec 5)
  /-- BFE: Extracts a bit field, unsigned or sign-extended. (R127) -/
  | bfe (d : Reg) (a : Reg) (b : Reg) (s : Sign)
  /-- BFI: Inserts the low w bits of A into D at a given position. (R127) -/
  | bfi (d : Reg) (a : Reg) (b : Reg)
  /-- POPC: Counts the one bits. (R126) -/
  | popc (d : Reg) (a : Reg)
  /-- CLZ: Counts the leading zero bits. (R126) -/
  | clz (d : Reg) (a : Reg)
  /-- IMIN: Takes the lesser operand, compared as signed or unsigned. (R126) -/
  | imin (d : Reg) (a : Reg) (b : Reg) (s : Sign)
  /-- IMAX: Takes the greater operand, compared as signed or unsigned. (R126) -/
  | imax (d : Reg) (a : Reg) (b : Reg) (s : Sign)
  /-- ICMP: Compares two integers and writes a predicate. (R126) -/
  | icmp (p : Reg) (a : Reg) (b : Reg) (cc : Cc)
  /-- SEL: Selects A or B by a predicate. (R126) -/
  | sel (d : Reg) (a : Reg) (b : Reg) (p : BitVec 4)
  /-- MOVI: Writes a sign-extended 18-bit immediate. (R126) -/
  | movi (d : Reg) (imm : BitVec 18)
  /-- MOVHI: Replaces the high 16 bits of d with an immediate. (R92) -/
  | movhi (d : Reg) (imm : BitVec 18)
  /-- FADD: Adds floats of the given type, with one rounding in the given mode. (R128) -/
  | fadd (d : Reg) (a : Reg) (b : Reg) (ty : FTy) (rm : Rm)
  /-- FSUB: Subtracts floats, with one rounding. (R128) -/
  | fsub (d : Reg) (a : Reg) (b : Reg) (ty : FTy) (rm : Rm)
  /-- FMUL: Multiplies floats, with one rounding. (R128) -/
  | fmul (d : Reg) (a : Reg) (b : Reg) (ty : FTy) (rm : Rm)
  /-- FFMA: Forms a × b + d with one rounding. (R128) -/
  | ffma (d : Reg) (a : Reg) (b : Reg) (ty : FTy) (rm : Rm)
  /-- FMIN: Takes the IEEE minimumNumber of two floats. (R129) -/
  | fmin (d : Reg) (a : Reg) (b : Reg) (ty : FTy)
  /-- FMAX: Takes the IEEE maximumNumber of two floats. (R129) -/
  | fmax (d : Reg) (a : Reg) (b : Reg) (ty : FTy)
  /-- FCMP: Compares two FP32 values and writes a predicate. (R130) -/
  | fcmp (p : Reg) (a : Reg) (b : Reg) (cc : Fcc)
  /-- FCLASS: Writes a one-hot mask that classifies an FP32 value. (R131) -/
  | fclass (d : Reg) (a : Reg)
  /-- CVT: Converts between formats by conversion code, with rounding and optional saturation. (R135) -/
  | cvt (d : Reg) (a : Reg) (code : CvtCode) (sat : Bool) (rm : Rm)
  /-- FRND: Rounds each element to an integral value in its own format. (R132) -/
  | frnd (d : Reg) (a : Reg) (ty : FTy) (rm : Rm)
  /-- RCP: Writes the correctly rounded reciprocal. (R133) -/
  | rcp (d : Reg) (a : Reg)
  /-- RSQ: Writes the correctly rounded reciprocal square root. (R133) -/
  | rsq (d : Reg) (a : Reg)
  /-- SQRT: Writes the correctly rounded square root. (R133) -/
  | sqrt (d : Reg) (a : Reg)
  /-- EXP2: Writes the correctly rounded 2^x. (R133) -/
  | exp2 (d : Reg) (a : Reg)
  /-- LOG2: Writes the correctly rounded log2 x. (R133) -/
  | log2 (d : Reg) (a : Reg)
  /-- SIN: Writes the correctly rounded sin(2πx). (R133) -/
  | sin (d : Reg) (a : Reg)
  /-- COS: Writes the correctly rounded cos(2πx). (R133) -/
  | cos (d : Reg) (a : Reg)
  /-- TANH: Writes the correctly rounded tanh x. (R133) -/
  | tanh (d : Reg) (a : Reg)
  /-- FDOT2: Adds a packed two-element dot product to an FP32 value with one rounding. (R134) -/
  | fdot2 (d : Reg) (a : Reg) (b : Reg) (ty : FTy) (rm : Rm)
  /-- FDIV: Writes the correctly rounded FP32 quotient. (R133) -/
  | fdiv (d : Reg) (a : Reg) (b : Reg)
  /-- PACK: Converts two FP32 values to 16-bit or FP8 and packs them. (R136) -/
  | pack (d : Reg) (a : Reg) (b : Reg) (f : PackForm)
  /-- UNPK: Selects one packed field and writes it as an exact FP32 value. (R137) -/
  | unpk (d : Reg) (a : Reg) (f : UnpkForm)
  /-- SADD: Adds uniform registers as IADD does. (R138) -/
  | sadd (d : Reg) (a : Reg) (b : Reg) (it : AddForm)
  /-- SMUL: Multiplies uniform registers, giving the low or high half. (R138) -/
  | smul (d : Reg) (a : Reg) (b : Reg) (f : SmulForm)
  /-- SLOG: Performs a logic operation on uniform registers. (R138) -/
  | slog (d : Reg) (a : Reg) (b : Reg) (f : SlogForm)
  /-- SSHF: Shifts a uniform register. (R138) -/
  | sshf (d : Reg) (a : Reg) (b : Reg) (f : SshfForm)
  /-- SCMP: Compares uniform registers and writes 1 or 0. (R138) -/
  | scmp (d : Reg) (a : Reg) (b : Reg) (cc : Cc)
  /-- SMOVI: Writes a sign-extended immediate to a uniform register. (R138) -/
  | smovi (d : Reg) (imm : BitVec 18)
  /-- SMOVHI: Replaces the high 16 bits of a uniform register. (R138) -/
  | smovhi (d : Reg) (imm : BitVec 18)
  /-- BCAST: Writes a uniform register to a vector register in every active thread. (R139) -/
  | bcast (d : Reg) (a : Reg)
  /-- JRED: Reduces a vector register over the executing set in ascending lane order into a uniform register. (R167) -/
  | jred (d : Reg) (a : Reg) (f : RedOp)
  /-- BALLOT: Writes the lane mask of executing lanes whose predicate is true, or false with .not. (R168) -/
  | ballot (d : Reg) (p : Reg) (inv : Bool)
  /-- GROW: Asks the wellhead controller to raise the launch's basin count by a requested increment, within the ceiling. (R64) -/
  | grow (d : Reg) (a : Reg) (la : BitVec 4)
  /-- SLD: Loads 32 or 64 bits from global memory into uniform registers, once for the jet. (R175) -/
  | sld (d : Reg) (a : Reg) (off : Reg) (sz : Size) (la : BitVec 2)
  /-- PLOG: Combines two predicates with a logic operation. (R170) -/
  | plog (d : Reg) (a : Reg) (b : Reg) (f : PlogForm)
  /-- PMOV_PV: Sets a predicate from bit 0 of a vector register. (R170) -/
  | pmovPv (d : Reg) (a : Reg)
  /-- PMOV_VP: Writes 1 or 0 from a predicate to a vector register. (R170) -/
  | pmovVp (d : Reg) (a : Reg)
  /-- PMOV_PP: Copies one predicate to another. (R170) -/
  | pmovPp (d : Reg) (a : Reg)
  /-- MMOV_SM: Copies a mask register to a uniform register. (R149) -/
  | mmovSm (d : Reg) (m : Reg)
  /-- MMOV_MS: Writes a uniform register, limited to the live lanes, to a mask register. (R149) -/
  | mmovMs (m : Reg) (a : Reg)
  /-- MMOV_MM: Copies one mask register to another, limited to the live lanes. (R149) -/
  | mmovMm (d : Reg) (m : Reg)
  /-- IDR: Writes the lane, jet, basin, current or launch identifier, or core number. (R169) -/
  | idr (d : Reg) (f : IdForm)
  /-- LD_G: Loads from global memory through the L1 into vector registers. (R175) -/
  | ldG (d : Reg) (a : Reg) (off : Reg) (sz : Size) (la : BitVec 2)
  /-- ST_G: Stores to global memory by way of the jet's store queue. (R175) -/
  | stG (d : Reg) (a : Reg) (off : Reg) (sz : Size)
  /-- LDS: Loads from the basin's scratchpad. (R175) -/
  | lds (d : Reg) (a : Reg) (off : Reg) (sz : Size) (la : BitVec 2)
  /-- STS: Stores to the basin's scratchpad. (R175) -/
  | sts (d : Reg) (a : Reg) (off : Reg) (sz : Size)
  /-- ATOM: Performs a 32-bit read-modify-write on a global word and returns the old word. (R180) -/
  | atom (d : Reg) (a : Reg) (op : AtomOp) (sc : Scope) (ord : MemOrder) (la : BitVec 4)
  /-- ATOMS: Performs a 32-bit read-modify-write on a scratchpad word. (R180) -/
  | atoms (d : Reg) (a : Reg) (op : AtomOp) (sc : Scope) (ord : MemOrder) (la : BitVec 4)
  /-- LDNR: Loads from global memory without faulting on a not-valid page, and writes a residency predicate. (R198) -/
  | ldnr (d : Reg) (a : Reg) (p : Reg) (sz : Size) (la : BitVec 2)
  /-- PGREQ: Asks the wellhead controller to make the page of each active lane resident, without waiting. (R199) -/
  | pgreq (a : Reg)
  /-- FENCE: Orders the jet's accesses with release or acquire semantics at a scope. (R200) -/
  | fence (sc : Scope) (ord : MemOrder)
  /-- COPY: Checks a copy descriptor and queues one copy on the copy engines. (R201) -/
  | copy (a : Reg) (sc : Scope) (ord : MemOrder)
  /-- WAITGE: Waits until a 64-bit counter is at least a target. (R210) -/
  | waitge (a : Reg) (b : Reg) (sc : Scope) (ord : MemOrder)
  /-- CTRADD: Adds a 64-bit value to a counter atomically, without waiting. (R211) -/
  | ctradd (a : Reg) (b : Reg) (sc : Scope) (ord : MemOrder)
  /-- PREF: Prefetches a line into its home slice and, for .l1, into the L1. (R179) -/
  | pref (a : Reg) (off : Reg) (lv : Bool)
  /-- CAS: Compares a global word with the expected value and swaps in the new value on a match. (R182) -/
  | cas (d : Reg) (a : Reg) (sc : Scope) (ord : MemOrder) (la : BitVec 4)
  /-- TXB: Begins or nests an ordinary transaction in each executing thread. (R251) -/
  | txb
  /-- TXB_IRR: Begins or nests an irrevocable transaction, requesting the irrevocable token at depth 0. (R251) -/
  | txbIrr
  /-- TXE: Ends one level of nesting, and at the outermost level commits or publishes and writes the commit predicate. (R259) -/
  | txe (p : Reg)
  /-- TXA: Aborts each executing thread's ordinary transaction with code EXPLICIT and a user code. (R262) -/
  | txa (imm : BitVec 18)
  /-- TXQ: Writes the thread's TXSTAT to a vector register. (R263) -/
  | txq (d : Reg)
  /-- RSVI: Clears a reservoir to zero. (R369) -/
  | rsvi (q : Reg)
  /-- RSVU: Streams one weighted candidate into a reservoir, using one draw. (R370) -/
  | rsvu (q : Reg) (a : Reg) (b : Reg)
  /-- RSVM: Merges one reservoir into another with an optional count cap, using one draw. (R371) -/
  | rsvm (q : Reg) (r : Reg) (b : Reg) (cap : BitVec 4)
  /-- RSVF: Writes the reservoir's contribution weight. (R372) -/
  | rsvf (d : Reg) (q : Reg)
  /-- RSVLD: Loads a whole reservoir from 16 bytes of global memory or scratchpad. (R373) -/
  | rsvld (q : Reg) (a : Reg) (off : Reg) (sp : Space) (la : BitVec 2)
  /-- RSVST: Stores a whole reservoir to 16 bytes of global memory or scratchpad. (R373) -/
  | rsvst (q : Reg) (a : Reg) (off : Reg) (sp : Space)
  /-- RSVX_GET: Copies one word of a reservoir to a vector register. (R372) -/
  | rsvxGet (d : Reg) (q : Reg) (f : RsvField)
  /-- RSVX_SET: Copies a vector register into one word of a reservoir. (R372) -/
  | rsvxSet (q : Reg) (a : Reg) (f : RsvField)
  /-- DRAW_SEED: Sets the thread's draw key and counter. (R368) -/
  | drawSeed (a : Reg) (b : Reg)
  /-- DRAW_KEY: Reads the draw key. (R368) -/
  | drawKey (d : Reg)
  /-- DRAW_CTR: Reads the draw counter. (R368) -/
  | drawCtr (d : Reg)
  /-- DRAW_INT: Takes one 32-bit draw and advances the counter. (R368) -/
  | drawInt (d : Reg)
  /-- DRAW_F32: Takes one draw as an FP32 value in [0, 1) and advances the counter. (R368) -/
  | drawF32 (d : Reg)
  /-- DRAW_SETC: Sets the draw counter. (R368) -/
  | drawSetc (a : Reg)
  /-- SETFMT: Sets the jet's format mode for later matrix operations. (R293) -/
  | setfmt (imm : BitVec 18)
  /-- MMAV_VV: Queues one K-group of the product of the A and B fragments held in vector registers. (R305) -/
  | mmavVv (c : Reg) (a : Reg) (b : Reg)
  /-- MMAV_VT: Queues one K-group of the product of the A fragment in vector registers and a B tile. (R305) -/
  | mmavVt (c : Reg) (a : Reg) (t : Reg)
  /-- MLOOP: Checks a parameter block and queues one blocked product from the tile store. (R311) -/
  | mloop (c : Reg) (a : Reg) (b : Reg) (k : BitVec 4)
  /-- MWAIT: Waits until every earlier operation on the accumulator has completed. (R316) -/
  | mwait (c : Reg)
  /-- MRDY: Waits until the jet's earlier tile and accumulator writes have been performed. (R315) -/
  | mrdy
  /-- TMOV_DEF: Checks a tile handle and defines it, making the tile READY. (R297) -/
  | tmovDef (t : Reg) (a : Reg)
  /-- TMOV_RD: Reads one word per lane from a row of a tile. (R299) -/
  | tmovRd (d : Reg) (t : Reg) (b : Reg)
  /-- TMOV_WR: Writes one word per lane into a row of a tile. (R299) -/
  | tmovWr (t : Reg) (a : Reg) (b : Reg)
  /-- TMOV_REL: Releases a tile handle to EMPTY. (R301) -/
  | tmovRel (t : Reg)
  /-- AMOV_RD: Reads one accumulator element per lane. (R300) -/
  | amovRd (d : Reg) (c : Reg) (b : Reg)
  /-- AMOV_WR: Writes one accumulator element per lane. (R300) -/
  | amovWr (c : Reg) (a : Reg) (b : Reg)
  /-- AMOV_ZERO: Zeroes a whole accumulator and clears its poison. (R301) -/
  | amovZero (c : Reg)
  /-- AMOV_TILE: Converts an accumulator into a tile. (R302) -/
  | amovTile (t : Reg) (c : Reg)
  /-- TSTAT: Writes the state of a tile to a uniform register. (R303) -/
  | tstat (d : Reg) (t : Reg)
  /-- TRACE: Checks the traversal context, allocates a directory entry, writes a ticket and sends each lane's ray to its origin stack. (R331) -/
  | trace (d : Reg) (a : Reg) (b : Reg)
  /-- TRWAIT: Waits for each lane's ray to report, writes the eight report words and frees the rays reported DONE. (R332) -/
  | trwait (d : Reg) (a : Reg)
  /-- TRRES_ACC: Sends an accept answer, with t, to a suspended ray. (R333) -/
  | trresAcc (a : Reg) (b : Reg)
  /-- TRRES_IGN: Sends an ignore answer to a candidate. (R333) -/
  | trresIgn (a : Reg)
  /-- TRRES_TERM: Sends a terminate answer, which finishes the ray. (R333) -/
  | trresTerm (a : Reg)
  /-- TRRES_RETRY: Sends a retry answer to a ray parked in FAULT. (R333) -/
  | trresRetry (a : Reg)
  /-- TRCAN: Frees the ray named by each lane's ticket. (R334) -/
  | trcan (a : Reg)
  /-- TRREC: Copies one quarter of a parked ray's record into eight registers. (R335) -/
  | trrec (d : Reg) (a : Reg) (n : BitVec 2)
  /-- ASUPD: Checks a descriptor address and queues one structure update on the structure update engine. (R349) -/
  | asupd (a : Reg)
  /-- TEXF: Checks a texture descriptor and sends one filtered texture lookup per lane to an FLT. (R279) -/
  | texf (d : Reg) (a : Reg) (b : Reg) (la : BitVec 4)
  /-- HGRID: Checks a hash-grid descriptor and sends one lookup per lane and level to an FLT. (R283) -/
  | hgrid (d : Reg) (a : Reg) (b : Reg) (la : BitVec 4)
  /-- MFS: Reads a system register into a vector register. (R387) -/
  | mfs (d : Reg) (imm : BitVec 18)
  /-- MTS: Writes a vector register into a system register. (R387) -/
  | mts (d : Reg) (imm : BitVec 18)
  /-- TRAP: Raises cause TRAP with a 16-bit code for the executing set. (R389) -/
  | trap (code : BitVec 16)
  /-- TRAP_BRK: Raises cause BREAK with a 16-bit code for the executing set. (R389) -/
  | trapBrk (code : BitVec 16)
  /-- ERET: Returns every live thread of the jet from system mode to its saved pc, guard state and barrier wait. (R390) -/
  | eret
  /-- REORD_REPACK: After the last arrival, and once long writes, store queues and MMAV operand reads have drained, the eddy sorts the waiting threads by key and repacks them into jets. (R163) -/
  | reordRepack (b : Nat)
  /-- GROW_PERFORM: The controller performs one GROW request as one atomic step, grants basins and returns the old count and the grant. (R64) -/
  | growPerform (b : Nat) (j : Nat) (k : Nat)
  /-- TRAP_ENTRY: At an issue boundary the jet takes a trap cause and enters its handler in system mode. (R381) -/
  | trapEntry (b : Nat) (j : Nat)
  /-- LAUNCH_PACKET: The wellhead controller reads a launch packet at the head of a queue, checks it and either refuses it or accepts it with a launch number. (R38) -/
  | launchPacket (c : Nat) (q : Nat)
  /-- COPY_PACKET: The controller reads a copy packet, checks it, numbers it and queues its copy. (R212) -/
  | copyPacket (c : Nat) (q : Nat)
  /-- STRUCTURE_UPDATE_PACKET: The controller reads a structure update packet, checks it, numbers it and queues its update. (R356) -/
  | structureUpdatePacket (c : Nat) (q : Nat)
  /-- COUNTER_WAIT_SATISFIED: The counter that a packet waits on reaches WAITVAL, and the packet goes on to staging or dispatch. (R42) -/
  | counterWaitSatisfied (c : Nat) (q : Nat)
  /-- STAGING: The controller makes the pages of the staging list resident, in list order, before the first basin is placed. (R213) -/
  | staging (n : Nat)
  /-- TAIL_POLL: At least every 2 µs the controller reads the tail word of each enabled queue. (R409) -/
  | tailPoll (c : Nat) (q : Nat)
  /-- BASIN_PLACE: Once resources allow, the next basin of a launch is placed or restored on a core and its jets start. (R47) -/
  | basinPlace (n : Nat)
  /-- PLACEMENT_WAIT_TIMEOUT: A basin that has waited 100 µs reserves the die with the most free resources. (R49) -/
  | placementWaitTimeout (n : Nat)
  /-- LAUNCH_COMPLETE: When every basin has exited and every store is acknowledged, the controller signals the launch's counter and writes DONE. (R44) -/
  | launchComplete (n : Nat)
  /-- BASIN_EXIT: The basin's last EXIT completes, and its resources are freed, once copies naming its scratchpad or tiles have completed. (R209) -/
  | basinExit (b : Nat)
  /-- ROTATION_SWAP: A PENDING jet ready for 1,024 cycles with no admission for 128 cycles swaps in for the longest-active jet. (R57) -/
  | rotationSwap (core : Nat) (sp : Nat)
  /-- JET_WAKE: A long wait ends and a BLOCKED jet moves to PENDING. (R56) -/
  | jetWake (b : Nat) (j : Nat)
  /-- LONG_WRITE_LANDS: The result of a long-class instruction arrives and is written, or is discarded. (R80) -/
  | longWriteLands (b : Nat) (j : Nat) (k : Nat)
  /-- STORE_PERFORMED: A home slice performs a store or copy write, with a read-modify-write where the write is narrow. (R247) -/
  | storePerformed (k : Nat)
  /-- WRITE_DROP_REPORT: A report of a narrow write not performed reaches the core, which drops its L1 line and counts the store as acknowledged. (R221) -/
  | writeDropReport (k : Nat)
  /-- STORE_ACK: A write acknowledgement reaches the core and lowers the jet's count of unacknowledged stores. (R236) -/
  | storeAck (k : Nat)
  /-- ATOMIC_PERFORM: A home slice or Vinil port performs an atomic, CAS or counter addition indivisibly. (R184) -/
  | atomicPerform (b : Nat) (j : Nat) (k : Nat)
  /-- REQUEST_AGE_PROMOTION: An unmarked request that has waited 2,048 base-die cycles is served ahead of urgency-marked reads. (R25) -/
  | requestAgePromotion (b : Nat) (j : Nat) (k : Nat)
  /-- FAULT_RESOLVED: The controller resolves a replayable fault under the context's policy, and the waiting lanes are replayed. (R195) -/
  | faultResolved (k : Nat)
  /-- FAULT_UNRESOLVABLE: A replayable fault is declared unresolvable, and the waiting lanes trap PAGEFAULT. (R195) -/
  | faultUnresolvable (k : Nat)
  /-- PAGE_REQUEST_SERVICED: The controller makes a page requested by PGREQ resident, or drops the request. (R199) -/
  | pageRequestServiced (k : Nat)
  /-- MIGRATION: The controller moves a page to another frame by copy rounds, a freeze of at most 4 µs and an invalidation. (R214) -/
  | migration (c : Nat) (va : Nat) (fr : Nat)
  /-- COPY_SERVICE: A copy engine takes the queued copy with the earliest deadline and moves its rows. (R205) -/
  | copyService (k : Nat) (w : Nat)
  /-- COPY_COMPLETE: Once every destination word of a copy has been performed, its tile returns to READY and INC is added to its counter as a release. (R206) -/
  | copyComplete (k : Nat)
  /-- COPY_FAULT_END: A copy with an unresolvable fault ends, logs an error record and poisons its counter's granule. (R208) -/
  | copyFaultEnd (k : Nat)
  /-- WAITGE_SATISFIED: An addition that brings the counter to the target becomes visible, and WAITGE ends. (R210) -/
  | waitgeSatisfied (b : Nat) (j : Nat) (l : Nat)
  /-- TX_SLOT_GRANT: A freed transaction slot is granted to the oldest waiting jet. (R250) -/
  | txSlotGrant (core : Nat)
  /-- TOKEN_GRANT: The irrevocable token is granted to the next queued request. (R269) -/
  | tokenGrant
  /-- TX_COMMIT: Once stores are acknowledged and line holds are granted, a lane validates its read log and applies or aborts its write log. (R260) -/
  | txCommit (b : Nat) (j : Nat) (l : Nat)
  /-- TIMEOUT: A transaction timer reaches 2^20 cycles and the lane aborts with TIMEOUT. (R267) -/
  | timeout (b : Nat) (j : Nat) (l : Nat)
  /-- MATRIX_OP_COMPLETE: A matrix operation writes its accumulator and completes, releasing any MWAIT on it. (R313) -/
  | matrixOpComplete (b : Nat) (k : Nat)
  /-- FILTER_LOOKUP: An FLT receives a TEXF or HGRID lookup, forwards it or reads and weights its data, and returns the results. (R285) -/
  | filterLookup (b : Nat) (j : Nat) (k : Nat)
  /-- RAY_ARRIVE: A ray message arrives at a TRV and takes a parked-ray slot or a cistern record. (R345) -/
  | rayArrive (st : Nat)
  /-- ENGINE_PICK: A free traversal engine picks a treelet queue and takes up to 64 rays. (R344) -/
  | enginePick (st : Nat)
  /-- RAY_TRAVERSE: An engine traverses a ray until it leaves the treelet, suspends, faults or finishes. (R337) -/
  | rayTraverse (r : Nat)
  /-- NODE_VERSION_TIMEOUT: A node found with an odd version for 1 ms ends the ray with BADNODE. (R352) -/
  | nodeVersionTimeout (r : Nat)
  /-- ANSWER_ARRIVES: A TRRES answer reaches a parked ray and queues it again with the answer or retry pending. (R333) -/
  | answerArrives (k : Nat)
  /-- SUE_UPDATE: The structure update engine performs one rewrite or refit under version words, then adds INC to its counter. (R350) -/
  | sueUpdate
  /-- CONFIG: Once no ray uses the older buffer, a CONFIG update loads a traversal context record into it and makes it current. (R354) -/
  | config
  /-- LINK_DOWN: A Vinil link goes down, ending its in-flight requests and making pages routed through it bad entries. (R403) -/
  | linkDown (p : Nat)
  /-- FLIT_CRC_FAILURE: A flit fails its CRC and is replayed, the link going down after the sixteenth failure. (R400) -/
  | flitCrcFailure (p : Nat)
  /-- MODULE_START: The module runs start steps 1 to 11 under the boot journal and ends ready or in recovery. (R412) -/
  | moduleStart
  /-- START_STEP_TIMEOUT: A start step that runs for more than 10 s fails, and the module resets. (R412) -/
  | startStepTimeout (n : Nat)
  /-- POWER_CLOCK_STEP: The wellhead controller lowers or raises the core clock in 50 MHz steps to hold power within the limit. (R26) -/
  | powerClockStep (up : Bool)
  /-- QUEUE_FIRMWARE_SWAP: At the first moment no packet of a queue is being read, that queue changes to the new firmware image. (R416) -/
  | queueFirmwareSwap (c : Nat) (q : Nat)
  /-- GETCONFIG: Copies the device block, its measured image or the start parameter record to the mailbox results. (R410) -/
  | getconfig (mb : Nat)
  /-- SETPOWER: Sets the module power limit. (R26) -/
  | setpower (mb : Nat)
  /-- INVALIDATE: Drops matching TLB entries in every TLB and completes when accesses through them are performed. (R191) -/
  | invalidate (mb : Nat)
  /-- ENDLAUNCH: Ends a launch at once and writes status FAULTED. (R411) -/
  | endlaunch (mb : Nat)
  /-- RESOLVE: Retries the accesses waiting on a host-resolved fault. (R407) -/
  | resolve (mb : Nat)
  /-- REFUSE: Makes a waiting host-policy fault unresolvable. (R407) -/
  | refuse (mb : Nat)
  /-- REPORT: Returns a signed report of the measurements, journal digest and identity key over a nonce. (R415) -/
  | report (mb : Nat)
  /-- UPDATE: Verifies a firmware image, writes it to the inactive slot and starts the queue-by-queue swap. (R416) -/
  | update (mb : Nat)
  /-- SETPARAM: Writes the start parameter record to flash for the next start. (R405) -/
  | setparam (mb : Nat)
  /-- CLEARJOURNAL: Clears every lasting alternate-path or skip choice of the boot journal. (R413) -/
  | clearjournal (mb : Nat)
  /-- READLOG: Copies up to 56 error records to the mailbox results. (R410) -/
  | readlog (mb : Nat)
  /-- CONTEXT_DESCRIPTOR_WRITE: A write to a context descriptor, which can make the context resident or not resident. (R406) -/
  | contextDescriptorWrite (c : Nat) (off : Nat) (sz : Nat) (v : Dword)
  /-- QUEUE_DESCRIPTOR_WRITE: A write to a queue descriptor, which can enable or disable the queue. (R408) -/
  | queueDescriptorWrite (c : Nat) (q : Nat) (off : Nat) (sz : Nat) (v : Dword)
  /-- CONTROL_SPACE_WRITE: A write to any other control-space register that has no row of its own, such as the mailbox arguments. (R404) -/
  | controlSpaceWrite (off : Nat) (sz : Nat) (v : Dword)
  /-- STORE_POINT_PASSED: A store leaves the head of its jet's store queue, passes the core's store point, updates any L1 copy of its line and is sent on to the home slice. (R227) -/
  | storePointPassed (b : Nat) (j : Nat)
  /-- PEER_FORWARDING: A device forwards peer traffic that is not addressed to it from one peer port to another along the route table. (R402) -/
  | peerForwarding
  /-- ECC_SCRUBBING: The memory controller's own ECC scrubbing finds an uncorrectable error in a granule, poisons it and logs an error record. (R11) -/
  | eccScrubbing (g : Nat)
  deriving DecidableEq, Repr

end Sys2Proof
end

