-- ==== Sys2Proof/Machine/Numerics.lean ====
section
/-! DEFINITION. Exact reals as quotients, the floating-point formats, and the rounding helpers every chapter shares
(R113 to R123), with the exact square root and the function approximations of R133. -/

namespace Sys2Proof.Machine

/-- An exact rational: numerator over a positive denominator, not reduced. -/
structure Q where
  num : Int
  den : Nat
  deriving DecidableEq, Repr

def Q.ofInt (z : Int) : Q := ⟨z, 1⟩
def Q.ofNat (n : Nat) : Q := ⟨n, 1⟩

/-- Sum. When one denominator divides the other (as powers of two do) the greater is kept. -/
def Q.add (x y : Q) : Q :=
  if x.den = y.den then ⟨x.num + y.num, x.den⟩
  else if x.den % y.den = 0 then ⟨x.num + y.num * ((x.den / y.den : Nat) : Int), x.den⟩
  else if y.den % x.den = 0 then ⟨x.num * ((y.den / x.den : Nat) : Int) + y.num, y.den⟩
  else ⟨x.num * (y.den : Int) + y.num * (x.den : Int), x.den * y.den⟩

def Q.neg (x : Q) : Q := ⟨-x.num, x.den⟩
def Q.sub (x y : Q) : Q := Q.add x (Q.neg y)
def Q.mul (x y : Q) : Q := ⟨x.num * y.num, x.den * y.den⟩

/-- Quotient by a non-zero value (division by zero is never asked for; it gives zero). -/
def Q.div (x y : Q) : Q :=
  if y.num = 0 then ⟨0, 1⟩
  else if 0 < y.num then ⟨x.num * (y.den : Int), x.den * y.num.natAbs⟩
  else ⟨-(x.num * (y.den : Int)), x.den * y.num.natAbs⟩

def Q.abs (x : Q) : Q := ⟨(x.num.natAbs : Int), x.den⟩
def Q.lt (x y : Q) : Bool := decide (x.num * (y.den : Int) < y.num * (x.den : Int))
def Q.le (x y : Q) : Bool := decide (x.num * (y.den : Int) ≤ y.num * (x.den : Int))
def Q.eqv (x y : Q) : Bool := decide (x.num * (y.den : Int) = y.num * (x.den : Int))
def Q.max (x y : Q) : Q := if Q.le x y then y else x
def Q.min (x y : Q) : Q := if Q.le x y then x else y
def Q.isZero (x : Q) : Bool := decide (x.num = 0)

/-- The greatest integer not above the value (R118, R123). -/
def Q.floor (x : Q) : Int := x.num / (x.den : Int)

/-- The least integer not below the value. -/
def Q.ceil (x : Q) : Int := -((-x.num) / (x.den : Int))

/-- A power of two with an integer exponent. -/
def pow2 (e : Int) : Q :=
  if 0 ≤ e then ⟨((2 ^ e.toNat : Nat) : Int), 1⟩ else ⟨1, 2 ^ (-e).toNat⟩

/-- `x` times two to the `e`. -/
def Q.scale (x : Q) (e : Int) : Q :=
  if 0 ≤ e then ⟨x.num * ((2 ^ e.toNat : Nat) : Int), x.den⟩ else ⟨x.num, x.den * 2 ^ (-e).toNat⟩

/-- Floor of the base-two logarithm of the magnitude of a non-zero value. -/
def Q.log2 (x : Q) : Int :=
  let a := x.num.natAbs
  let k : Int := (Nat.log2 a : Int) - (Nat.log2 x.den : Int)
  if Q.le (pow2 k) ⟨(a : Int), x.den⟩ then k else k - 1

/-- RoundInt of R118. -/
def roundInt (z : Q) (rm : Rm) : Int :=
  let f := Q.floor z
  match rm with
  | .rd => f
  | .ru => Q.ceil z
  | .rz => if 0 ≤ z.num then f else Q.ceil z
  | .rn =>
    let r2 : Int := 2 * (z.num - f * (z.den : Int))
    if r2 < (z.den : Int) then f
    else if (z.den : Int) < r2 then f + 1
    else if f % 2 = 0 then f else f + 1

/-- A value a pattern encodes or an operation gives: NaN, a signed infinity, a signed zero or a non-zero real (R114). -/
inductive FV where
  | nan
  | inf (neg : Bool)
  | zero (neg : Bool)
  | fin (q : Q)
  deriving DecidableEq, Repr

/-- The floating-point formats but E8M0 (Table 7.1). -/
inductive Fmt where
  | f32 | f16 | bf16 | e5m2 | e4m3 | e3m2 | e2m3 | e2m1
  deriving DecidableEq, Repr

def Fmt.eb : Fmt → Nat
  | .f32 => 8 | .f16 => 5 | .bf16 => 8 | .e5m2 => 5 | .e4m3 => 4 | .e3m2 => 3 | .e2m3 => 2 | .e2m1 => 2

def Fmt.mb : Fmt → Nat
  | .f32 => 23 | .f16 => 10 | .bf16 => 7 | .e5m2 => 2 | .e4m3 => 3 | .e3m2 => 2 | .e2m3 => 3 | .e2m1 => 1

def Fmt.bias : Fmt → Nat
  | .f32 => 127 | .f16 => 15 | .bf16 => 127 | .e5m2 => 15 | .e4m3 => 7 | .e3m2 => 3 | .e2m3 => 1 | .e2m1 => 1

/-- Formats with infinities and NaNs as FP32 has them. -/
def Fmt.ieee : Fmt → Bool
  | .f32 | .f16 | .bf16 | .e5m2 => true
  | _ => false

/-- The greatest finite pattern, without its sign (Table 7.1). -/
def Fmt.largestBits : Fmt → Nat
  | .f32 => 0x7F7FFFFF | .f16 => 0x7BFF | .bf16 => 0x7F7F | .e5m2 => 0x7B | .e4m3 => 0x7E
  | .e3m2 => 0x1F | .e2m3 => 0x1F | .e2m1 => 0x7

/-- NaNOf(F) (R115, R119). -/
def Fmt.nanBits : Fmt → Nat
  | .f32 => 0x7FC00000 | .f16 => 0x7E00 | .bf16 => 0x7FC0 | .e5m2 => 0x7E | .e4m3 => 0x7F
  | .e3m2 => 0 | .e2m3 => 0 | .e2m1 => 0

/-- The pattern of +Infinity in a format that has one. -/
def Fmt.infBits (F : Fmt) : Nat := (2 ^ F.eb - 1) * 2 ^ F.mb

def Fmt.signUnit (F : Fmt) : Nat := 2 ^ (F.eb + F.mb)

/-- The magnitude a pattern without sign, of an ordinary number, encodes: an integer and an exponent of two. -/
def Fmt.mag (F : Fmt) (e m : Nat) : Q :=
  if e = 0 then Q.scale (Q.ofNat m) (1 - (F.bias : Int) - (F.mb : Int))
  else Q.scale (Q.ofNat (2 ^ F.mb + m)) ((e : Int) - (F.bias : Int) - (F.mb : Int))

/-- Value(F, bits) of R114; bits above the format's width are ignored. -/
def value (F : Fmt) (bits : Nat) : FV :=
  let s := decide (bits / F.signUnit % 2 = 1)
  let e := bits / 2 ^ F.mb % 2 ^ F.eb
  let m := bits % 2 ^ F.mb
  if F.ieee && decide (e = 2 ^ F.eb - 1) then (if m = 0 then .inf s else .nan)
  else if F = .e4m3 ∧ e = 15 ∧ m = 7 then .nan
  else if e = 0 ∧ m = 0 then .zero s
  else
    let q := F.mag e m
    .fin (if s then Q.neg q else q)

/-- Value(E8M0, bits) of R114. -/
def valueE8M0 (bits : Nat) : FV :=
  if bits % 256 = 255 then .nan else .fin (pow2 ((bits % 256 : Nat) - (127 : Int)))

def FV.isNeg : FV → Bool
  | .nan => false
  | .inf s => s
  | .zero s => s
  | .fin q => decide (q.num < 0)

/-- Sign flip; a NaN stays NaN (R128). -/
def FV.negate : FV → FV
  | .nan => .nan
  | .inf s => .inf (!s)
  | .zero s => .zero (!s)
  | .fin q => .fin (Q.neg q)

def FV.isNan : FV → Bool
  | .nan => true
  | _ => false

def FV.isInf : FV → Bool
  | .inf _ => true
  | _ => false

def FV.isFinite : FV → Bool
  | .zero _ => true
  | .fin _ => true
  | _ => false

/-- The exact real of a finite value (zero for the others). -/
def FV.toQ : FV → Q
  | .fin q => q
  | _ => ⟨0, 1⟩

/-- A real as a value: zero is +0. -/
def FV.ofQ (q : Q) : FV := if q.num = 0 then .zero false else .fin q

def signBits (F : Fmt) (s : Bool) (mag : Nat) : Nat := if s then F.signUnit + mag else mag

/-- Overflow of Table 7.2. -/
def overflow (F : Fmt) (s : Bool) (rm : Rm) (sat : Bool) (infinite : Bool) : Nat :=
  let big := signBits F s F.largestBits
  if sat then big
  else
    let beyond := if F.ieee then signBits F s F.infBits else if F = .e4m3 then F.nanBits else big
    if infinite then beyond
    else match rm with
      | .rn => beyond
      | .rz => big
      | .ru => if s then big else beyond
      | .rd => if s then beyond else big

/-- Quantise(x, F, rm, sat) of R119. -/
def quantise (x : FV) (F : Fmt) (rm : Rm) (sat : Bool) : Nat :=
  match x with
  | .nan => F.nanBits
  | .inf s => overflow F s rm sat true
  | .zero s => signBits F s 0
  | .fin q =>
    let s := decide (q.num < 0)
    let qe : Int := Max.max (Q.log2 q) (1 - (F.bias : Int)) - (F.mb : Int)
    let n := (roundInt (Q.scale q (-qe)) rm).natAbs
    let largest := F.mag (F.largestBits / 2 ^ F.mb) (F.largestBits % 2 ^ F.mb)
    if Q.lt largest (Q.scale (Q.ofNat n) qe) then overflow F s rm sat false
    else if n < 2 ^ F.mb then signBits F s n
    else signBits F s ((qe + (F.mb : Int) + (F.bias : Int)).toNat * 2 ^ F.mb + (n - 2 ^ F.mb))

/-- QuantiseE8M0 of R120. -/
def quantiseE8M0 (x : FV) (rm : Rm) (sat : Bool) : Nat :=
  match x with
  | .nan => 0xFF
  | .inf _ => if sat then 0xFE else 0xFF
  | .zero _ => 0
  | .fin q =>
    let a := Q.abs q
    let k := Q.log2 a
    let f := Q.scale a (-k)
    let k := if rm = .rn ∧ Q.le ⟨3, 2⟩ f then k + 1 else if rm = .ru ∧ Q.lt ⟨1, 1⟩ f then k + 1 else k
    let k := Max.max k (-127)
    if 127 < k then (if sat then 0xFE else 0xFF) else (k + 127).toNat

def clampInt (x lo hi : Int) : Int := Max.max lo (Min.min x hi)

/-- QuantiseInt of R121. -/
def quantiseInt (x : FV) (lo hi : Int) (rm : Rm) : Int :=
  match x with
  | .nan => 0
  | .zero _ => 0
  | .inf s => if s then lo else hi
  | .fin q => clampInt (roundInt q rm) lo hi

/-- Product of R122. -/
def product (a b : FV) : FV :=
  let s := a.isNeg != b.isNeg
  match a, b with
  | .nan, _ => .nan
  | _, .nan => .nan
  | .zero _, .inf _ => .nan
  | .inf _, .zero _ => .nan
  | .inf _, _ => .inf s
  | _, .inf _ => .inf s
  | .zero _, _ => .zero s
  | _, .zero _ => .zero s
  | .fin x, .fin y => .fin (Q.mul x y)

/-- The exact sum of the finite terms of a list. -/
def sumQ : List FV → Q
  | [] => ⟨0, 1⟩
  | t :: rest => match t with
    | .fin q => Q.add q (sumQ rest)
    | _ => sumQ rest

/-- ExactSum of R122. -/
def exactSum (l : List FV) (rm : Rm) : FV :=
  let pinf := l.any (fun t => decide (t = .inf false))
  let ninf := l.any (fun t => decide (t = .inf true))
  if l.any FV.isNan || (pinf && ninf) then .nan
  else if pinf then .inf false
  else if ninf then .inf true
  else
    let z := sumQ l
    if z.num ≠ 0 then .fin z
    else if l.all (fun t => decide (t = .zero true)) then .zero true
    else if l.all (fun t => decide (t = .zero false)) then .zero false
    else .zero (decide (rm = .rd))

/-- RoundNE32 of R123. -/
def roundNE32 (x : FV) : Nat := quantise x .f32 .rn false

/-! ### Square roots -/

/-- Integer square root by bits: the greatest `r` with `r * r ≤ n`, for `n < 4 ^ k`. -/
def isqrtGo (n : Nat) : Nat → Nat → Nat
  | 0, r => r
  | k + 1, r =>
    let c := r + 2 ^ k
    isqrtGo n k (if c * c ≤ n then c else r)

def isqrt (n : Nat) : Nat := isqrtGo n (Nat.log2 n / 2 + 1) 0

/-- A rational that rounds as the square root of a positive rational does: exact where the root at 200 fraction
bits is exact, else a point strictly between two neighbours of that grid. -/
def sqrtQ (x : Q) : Q :=
  let n := x.num.natAbs * 2 ^ 400
  let y := n / x.den
  let r := isqrt y
  if r * r * x.den = n then ⟨(r : Int), 2 ^ 200⟩ else ⟨((2 * r + 1 : Nat) : Int), 2 ^ 201⟩

/-! ### The functions of R133 in fixed point with 320 fraction bits (log 10) -/

def fxBits : Nat := 320
def fxOne : Int := ((2 ^ fxBits : Nat) : Int)

def fxMul (a b : Int) : Int := a * b / fxOne

/-- Fixed point of a rational. -/
def fxOf (x : Q) : Int := x.num * fxOne / (x.den : Int)

def fxToQ (a : Int) : Q := ⟨a, 2 ^ fxBits⟩

/-- Sum of the exponential series from term `k`, the term's value given. -/
def fxExpGo (y : Int) : Nat → Nat → Int → Int
  | 0, _, _ => 0
  | fuel + 1, k, term => term + fxExpGo y fuel (k + 1) (fxMul term y / ((k + 1 : Nat) : Int))

/-- The exponential of a fixed-point value of magnitude below 2. -/
def fxExp (y : Int) : Int := fxExpGo y 100 0 fxOne

/-- The series of the inverse hyperbolic tangent, odd powers of `z`. -/
def fxAtanhGo (z2 : Int) : Nat → Nat → Int → Int
  | 0, _, _ => 0
  | fuel + 1, k, p => p / ((2 * k + 1 : Nat) : Int) + fxAtanhGo z2 fuel (k + 1) (fxMul p z2)

def fxAtanh (z : Int) : Int := fxAtanhGo (fxMul z z) 110 0 z

/-- The natural logarithm of two. -/
def fxLn2 : Int := 2 * fxAtanh (fxOne / 3)

/-- The series of the inverse tangent of one over `n`. -/
def fxAtanInvGo (n2 : Int) : Nat → Nat → Int → Int
  | 0, _, _ => 0
  | fuel + 1, k, p =>
    let t := p / ((2 * k + 1 : Nat) : Int)
    (if k % 2 = 0 then t else -t) + fxAtanInvGo n2 fuel (k + 1) (p / n2)

def fxPi : Int := 16 * fxAtanInvGo 25 75 0 (fxOne / 5) - 4 * fxAtanInvGo (239 * 239) 25 0 (fxOne / 239)

/-- The sine series from the term of index `k` (power `2k + 1` for the sine, `2k` for the cosine). -/
def fxTrigGo (y2 : Int) : Nat → Nat → Int → Int
  | 0, _, _ => 0
  | fuel + 1, n, term => term + fxTrigGo y2 fuel (n + 2) (-(fxMul term y2 / (((n + 1) * (n + 2) : Nat) : Int)))

def fxSin (y : Int) : Int := fxTrigGo (fxMul y y) 45 1 y
def fxCos (y : Int) : Int := fxTrigGo (fxMul y y) 45 0 fxOne

/-- 2^x for a rational of magnitude up to 256. -/
def exp2Q (x : Q) : Q :=
  let n := Q.floor x
  let f := Q.sub x (Q.ofInt n)
  if f.num = 0 then pow2 n else Q.scale (fxToQ (fxExp (fxMul (fxOf f) fxLn2))) n

/-- The base-two logarithm of a positive rational. -/
def log2Q (x : Q) : Q :=
  let k := Q.log2 x
  let m := Q.scale x (-k)
  if Q.eqv m ⟨1, 1⟩ then Q.ofInt k
  else
    let z := fxOf (Q.div (Q.sub m ⟨1, 1⟩) (Q.add m ⟨1, 1⟩))
    fxToQ (k * fxOne + 2 * fxAtanh z * fxOne / fxLn2)

/-- sin(2 pi x) for a rational `x` in 0 to 1/4. -/
def sinQuarter (x : Q) : Q := fxToQ (fxSin (2 * fxMul fxPi (fxOf x)))

/-- cos(2 pi x) for a rational `x` in 0 to 1/4. -/
def cosQuarter (x : Q) : Q := fxToQ (fxCos (2 * fxMul fxPi (fxOf x)))

/-- sin(2 pi x), by symmetry about the quarter turns. Not asked for where 2x is an integer. -/
def sinTurns (x : Q) : Q :=
  let f := Q.sub x (Q.ofInt (Q.floor x))
  let (neg, f) := if Q.le ⟨1, 2⟩ f then (true, Q.sub f ⟨1, 2⟩) else (false, f)
  let g := if Q.lt ⟨1, 4⟩ f then Q.sub ⟨1, 2⟩ f else f
  let v := if Q.eqv g ⟨1, 4⟩ then ⟨1, 1⟩ else sinQuarter g
  if neg then Q.neg v else v

/-- cos(2 pi x). Not asked for where it is zero. -/
def cosTurns (x : Q) : Q :=
  let f := Q.sub x (Q.ofInt (Q.floor x))
  let f := if Q.lt ⟨1, 2⟩ f then Q.sub ⟨1, 1⟩ f else f
  if Q.eqv f ⟨0, 1⟩ then ⟨1, 1⟩
  else if Q.eqv f ⟨1, 2⟩ then ⟨-1, 1⟩
  else if Q.lt ⟨1, 4⟩ f then Q.neg (cosQuarter (Q.sub ⟨1, 2⟩ f))
  else cosQuarter f

/-- tanh of a non-zero rational, on its magnitude. For a magnitude of 16 or more the value is within 2^-40 of one;
below 2^-100 it rounds as the argument does. -/
def tanhQ (x : Q) : Q :=
  let a := Q.abs x
  let v :=
    if Q.le ⟨16, 1⟩ a then Q.sub ⟨1, 1⟩ (pow2 (-40))
    else if Q.lt a (pow2 (-100)) then a
    else
      -- (1 - u) / (1 + u) with u = 2^(-2 a log2 e)
      let u := exp2Q (Q.neg (fxToQ (2 * fxOf a * fxOne / fxLn2)))
      Q.div (Q.sub ⟨1, 1⟩ u) (Q.add ⟨1, 1⟩ u)
  if x.num < 0 then Q.neg v else v

end Sys2Proof.Machine
end

