-- ==== Sys2Proof/Machine/Flags.lean ====
section
/-! DEFINITION. Comparisons and saturation: the machine has no flag register; conditions go to predicates (Table 5.4,
R126, R129 to R131) and saturation to the result. -/

namespace Sys2Proof.Machine

/-- Integer conditions (Table 5.4, CC). -/
def Cc.holds (c : Cc) (a b : Word) : Bool :=
  match c with
  | .eq => decide (a = b)
  | .ne => decide (a ≠ b)
  | .lt => decide (a.toInt < b.toInt)
  | .le => decide (a.toInt ≤ b.toInt)
  | .gt => decide (b.toInt < a.toInt)
  | .ge => decide (b.toInt ≤ a.toInt)
  | .ltu => decide (a.toNat < b.toNat)
  | .leu => decide (a.toNat ≤ b.toNat)
  | .gtu => decide (b.toNat < a.toNat)
  | .geu => decide (b.toNat ≤ a.toNat)

/-- Order of two numbers that are no NaN, infinities included. -/
def FV.ltv (a b : FV) : Bool :=
  match a, b with
  | .nan, _ => false
  | _, .nan => false
  | .inf s, .inf t => s && !t
  | .inf s, _ => s
  | _, .inf t => !t
  | x, y => Q.lt x.toQ y.toQ

def FV.eqv (a b : FV) : Bool :=
  match a, b with
  | .nan, _ => false
  | _, .nan => false
  | x, y => !FV.ltv x y && !FV.ltv y x

/-- FP32 conditions (R130). -/
def Fcc.holds (c : Fcc) (a b : Word) : Bool :=
  let x := value .f32 a.toNat
  let y := value .f32 b.toNat
  match c with
  | .eq => FV.eqv x y
  | .ne => !FV.eqv x y
  | .lt => FV.ltv x y
  | .le => FV.ltv x y || FV.eqv x y
  | .gt => FV.ltv y x
  | .ge => FV.ltv y x || FV.eqv x y
  | .un => x.isNan || y.isNan
  | .ord => !(x.isNan || y.isNan)

/-- The lesser of two encodings of a format, −0 below +0 (R129). -/
def fminBits (F : Fmt) (a b : Nat) : Nat :=
  let x := value F a
  let y := value F b
  if x.isNan && y.isNan then F.nanBits
  else if x.isNan then b
  else if y.isNan then a
  else if FV.ltv x y then a
  else if FV.ltv y x then b
  else if x.isNeg then a else b

/-- The greater of two encodings of a format (R129). -/
def fmaxBits (F : Fmt) (a b : Nat) : Nat :=
  let x := value F a
  let y := value F b
  if x.isNan && y.isNan then F.nanBits
  else if x.isNan then b
  else if y.isNan then a
  else if FV.ltv x y then b
  else if FV.ltv y x then a
  else if x.isNeg then b else a

/-- Signed saturation of 32 bits (Table 7.5). -/
def ssat32 (z : Int) : Word := BitVec.ofInt 32 (clampInt z (-2147483648) 2147483647)

/-- Unsigned saturation of 32 bits (Table 7.5). -/
def nsat32 (z : Int) : Word := BitVec.ofInt 32 (clampInt z 0 4294967295)

end Sys2Proof.Machine
end

