-- ==== Sys2Proof/Config.lean ====
section
/-! DEFINITION. What one implementation or one run fixes and the spec leaves open: free values without a body.
Nothing in Lean evaluates them, so a statement that holds does so for every value they may take. -/

namespace Sys2Proof.Config

/-- An undefined 32-bit value (R7), by the machine's tick and an index within the step (log 5). -/
opaque freeWord : Nat → Nat → Word

/-- The choice among several enabled events (R140), by the machine's tick (log 2). -/
opaque pick : Nat → Nat

/-- Core cycles that pass beyond those the spec counts (R14, R60), by the machine's tick (log 4). -/
opaque elapsed : Nat → Nat

/-- Whether a cached copy (an L1 line, a TLB entry) is still held when it is looked up (R191, R235, log 7). -/
opaque keeps : Nat → Nat → Bool

/-- The module's identity key, and the secret number of a signature by the digest's value and the attempt (R415, log 11). -/
opaque identityKey : Nat
opaque signingNonce : Nat → Nat → Nat

/-- The certificate bytes of the module (R415, log 11). -/
opaque certificate : Nat → Byte

/-- The length in bytes of the certificate (R415, log 11). -/
opaque certLength : Nat

/-- Whether a step of the module start passes: by start number, step and path (R412, log 15). -/
opaque stepPasses : Nat → Nat → Nat → Bool

/-- The 16 detail bytes of a failed start step, as a number (R412, R420, log 15). -/
opaque stepDetail : Nat → Nat → Nat

/-- The core cycles that a start step takes: by start number, step and path (R412, R420, log 15). -/
opaque stepCycles : Nat → Nat → Nat → Nat

/-- Whether the vendor key verifies an item of a given content digest (R412, R416, log 15). -/
opaque verifies : Nat → Bool

/-- The pool whose frames a page of a context takes, by context and page number: 16 is the interleaved pool (R195, log 14). -/
opaque poolOf : Nat → Nat → Nat

/-- The frames of a pool that are free when the module has started, by frame number (R195, log 14). -/
opaque freeFrames : Nat → List Nat

/-- The bytes of a fault-ring entry, by its context, address, kind and pool, and byte: R407 gives no layout (log 12). -/
opaque ringByte : Nat → Nat → Nat → Nat → Nat → Byte

/-- The bytes of an error record, by its sequence number, cycle, unit, kind, address and context, and byte: R404 gives no
layout (log 12). -/
opaque errorByte : Nat → Nat → Nat → Nat → Nat → Nat → Nat → Byte

/-- The items that the flash holds as manufactured: loader images A and B (0, 1), the two copies of the configuration record
(2, 3), the wellhead images of slots A and B (4, 5) (R412, R414, log 15). -/
opaque flashItem : Nat → List Byte

/-- The version of a firmware image, by the number of its digest (R416, log 15). -/
opaque imageVersion : Nat → Nat

/-- The memory controller and bank group that serve a line of HBM, by line number (R25, log 52). -/
opaque bankGroup : Nat → Nat

/-- Whether an access to a line goes on to its memory controller, as where its home slice holds no copy, by tick and line (R25,
log 52). -/
opaque reaches : Nat → Nat → Bool

/-- Whether the request channel of a core that has requests outstanding has no free buffer, by tick and core (R24, log 68). -/
opaque channelFull : Nat → Nat → Bool

/-- How many lanes the host port (15) or a peer port trains to, by start number and port (R400, log 15). -/
opaque trainedLanes : Nat → Nat → Nat

end Sys2Proof.Config
end

