-- ==== Sys2Proof/WellFormed.lean ====
section
/-! DEFINITION. Which terms of `Instr` are instructions: the operand kinds and code restrictions of Table 5.4 and the map
tables of chapter 05, which decide what traps ILLEGAL at decode (R99). System register numbers, which the mode in force
when the word issues decides (R100), are checked at issue and are free here. -/

namespace Sys2Proof

/-- A register number below a bound: the last of its class, or the last at which a block fits (R75). -/
def below (n : Nat) (r : Reg) : Bool := decide (r.toNat < n)

/-- An even register names a pair (R75). -/
def evenReg (r : Reg) : Bool := decide (r.toNat % 2 = 0)

/-- A pair where a form needs one. -/
def pairIf (c : Bool) (r : Reg) : Bool := !c || evenReg r

/-- A predicate destination: p1 to p15 (R76). -/
def predDest (r : Reg) : Bool := decide (0 < r.toNat ∧ r.toNat < 16)

/-- A uniform destination: s8 to s127 (R76). -/
def uniformDest (r : Reg) : Bool := decide (8 ≤ r.toNat)

/-- A uniform pair as a destination: even, s8 to s126 (Table 5.4, S2). -/
def uniformPairDest (r : Reg) : Bool := uniformDest r && evenReg r

/-- The first of eight uniform registers: a multiple of 8 from 8 to 120 (Table 5.4, S8). -/
def uniformBlock (r : Reg) : Bool := decide (8 ≤ r.toNat ∧ r.toNat % 8 = 0)

/-- With order 00 the scope bits are 00 (Table 5.4, OS). -/
def relaxedScope (sc : Scope) (ord : MemOrder) : Bool := decide (ord = .relaxed → sc = .bsn)

/-- A window base: a multiple of 32 from 32 to 480 (R91). -/
def windowBase (imm : BitVec 18) : Bool := decide (imm.toNat % 32 = 0 ∧ 32 ≤ imm.toNat ∧ imm.toNat ≤ 480)

/-- The class of a matrix format code: 0 FP32, 1 FP16/BF16, 2 INT8, 3 FP8, 4 MX (Table 19.1, Table 19.2); none above 8. -/
def formatClass (f : Nat) : Option Nat :=
  if f = 0 then some 0
  else if f ≤ 2 then some 1
  else if f ≤ 4 then some 3
  else if f = 5 then some 2
  else if f ≤ 8 then some 4
  else none

/-- A format mode that `SETFMT` accepts: bits 17:10 zero, both formats assigned, one class (R293). -/
def formatMode (imm : BitVec 18) : Bool :=
  decide (imm.toNat < 1024) && (formatClass (imm.toNat % 16)).isSome
    && decide (formatClass (imm.toNat % 16) = formatClass (imm.toNat / 16 % 16))

/-- The system registers of Table 25.2 that exist. -/
def systemNumber (imm : BitVec 18) : Bool := 
  decide (imm.toNat ≤ 0x018 ∨ (0x020 ≤ imm.toNat ∧ imm.toNat < 0x040) ∨ (0x100 ≤ imm.toNat ∧ imm.toNat < 0x180))

/-- Conversions that are exact, whose x field must be zero: the odd codes from 0x05 (R94). -/
def CvtCode.exact (c : CvtCode) : Bool :=
  match c with
  | .f32f16 | .f32bf16 | .f32e4m3 | .f32e5m2 | .f32e3m2 | .f32e2m3 | .f32e2m1 | .f32e8m0 | .f32s8 => true
  | .f32s32 | .f32n32 | .s32f32 | .n32f32 | .f16f32 | .bf16f32 | .e4m3f32 | .e5m2f32 | .e3m2f32 | .e2m3f32 | .e2m1f32
  | .e8m0f32 | .s8f32 => false

/-- The terms that are instructions of the machine: every field of its kind (R90 to R98). -/
def Instr.wf (i : Instr) : Bool :=
  match i with
  | .nop => true
  | .grd k _ _ => below 16 k
  | .bra _ => true
  | .brc _ _ _ => true
  | .brx a => evenReg a
  | .call _ => true
  | .callx a => evenReg a
  | .ret => true
  | .exit => true
  | .mark m => below 12 m
  | .join m => below 12 m
  | .leave m => below 12 m
  | .waitm m => below 12 m
  | .bar k _ => below 16 k
  | .barArrive k _ => below 16 k
  | .winb imm => windowBase imm
  | .reord _ => true
  | .iadd d a b it => pairIf (decide (it = .b64)) d && pairIf (decide (it = .b64)) a && pairIf (decide (it = .b64)) b
  | .isub d a b it => pairIf (decide (it = .b64)) d && pairIf (decide (it = .b64)) a && pairIf (decide (it = .b64)) b
  | .imul _ _ _ => true
  | .imad d _ _ f => pairIf (decide (f ≠ .b32)) d
  | .imulh _ _ _ _ => true
  | .iaddi _ _ _ => true
  | .and _ _ _ _ => true
  | .or _ _ _ _ => true
  | .xor _ _ _ _ => true
  | .andi _ _ _ => true
  | .ori _ _ _ => true
  | .shl _ _ _ => true
  | .shlI _ _ _ => true
  | .shr _ _ _ => true
  | .shrI _ _ _ => true
  | .sar _ _ _ => true
  | .sarI _ _ _ => true
  | .bfe _ _ _ _ => true
  | .bfi _ _ _ => true
  | .popc _ _ => true
  | .clz _ _ => true
  | .imin _ _ _ _ => true
  | .imax _ _ _ _ => true
  | .icmp p _ _ _ => predDest p
  | .sel _ _ _ _ => true
  | .movi _ _ => true
  | .movhi _ imm => (decide (imm.toNat < 65536))
  | .fadd _ _ _ _ _ => true
  | .fsub _ _ _ _ _ => true
  | .fmul _ _ _ _ _ => true
  | .ffma _ _ _ _ _ => true
  | .fmin _ _ _ _ => true
  | .fmax _ _ _ _ => true
  | .fcmp p _ _ _ => predDest p
  | .fclass _ _ => true
  | .cvt _ _ code sat rm => (decide (code.exact = true → sat = false ∧ rm = .rn))
  | .frnd _ _ _ _ => true
  | .rcp _ _ => true
  | .rsq _ _ => true
  | .sqrt _ _ => true
  | .exp2 _ _ => true
  | .log2 _ _ => true
  | .sin _ _ => true
  | .cos _ _ => true
  | .tanh _ _ => true
  | .fdot2 _ _ _ ty _ => (decide (ty ≠ .f32))
  | .fdiv _ _ _ => true
  | .pack _ _ _ _ => true
  | .unpk _ _ _ => true
  | .sadd d a b it => uniformDest d && pairIf (decide (it = .b64)) d && pairIf (decide (it = .b64)) a && pairIf (decide (it = .b64)) b
  | .smul d _ _ _ => uniformDest d
  | .slog d _ _ _ => uniformDest d
  | .sshf d _ _ _ => uniformDest d
  | .scmp d _ _ _ => uniformDest d
  | .smovi d _ => uniformDest d
  | .smovhi d imm => uniformDest d && (decide (imm.toNat < 65536))
  | .bcast _ _ => true
  | .jred d _ _ => uniformDest d
  | .ballot d p _ => uniformDest d && below 16 p
  | .grow d _ _ => uniformPairDest d
  | .sld d a _ sz _ => uniformDest d && evenReg a && (decide (sz = .b32 ∨ sz = .b64)) && pairIf (decide (sz = .b64)) d
  | .plog d a b _ => predDest d && below 16 a && below 16 b
  | .pmovPv d _ => predDest d
  | .pmovVp _ a => below 16 a
  | .pmovPp d a => predDest d && below 16 a
  | .mmovSm d m => uniformDest d && below 12 m
  | .mmovMs m _ => below 12 m
  | .mmovMm d m => below 12 d && below 12 m
  | .idr d f => pairIf (decide (f = .wid ∨ f = .wid0)) d
  | .ldG d a _ sz _ => evenReg a && pairIf (decide (sz = .b64)) d
  | .stG d a _ sz => evenReg a && pairIf (decide (sz = .b64)) d
  | .lds d _ _ sz _ => pairIf (decide (sz = .b64)) d
  | .sts d _ _ sz => pairIf (decide (sz = .b64)) d
  | .atom _ a _ sc ord _ => evenReg a && relaxedScope sc ord
  | .atoms _ _ _ sc _ _ => (decide (sc = .bsn))
  | .ldnr d a p sz _ => evenReg a && predDest p && pairIf (decide (sz = .b64)) d
  | .pgreq a => evenReg a
  | .fence _ ord => (decide (ord ≠ .relaxed))
  | .copy a sc ord => uniformBlock a && relaxedScope sc ord && (decide (ord = .relaxed ∨ ord = .rel))
  | .waitge a b _ ord => evenReg a && evenReg b && (decide (ord = .relaxed ∨ ord = .acq))
  | .ctradd a b _ ord => evenReg a && evenReg b && (decide (ord = .relaxed ∨ ord = .rel))
  | .pref a _ _ => evenReg a
  | .cas d a sc ord _ => evenReg d && evenReg a && relaxedScope sc ord
  | .txb => true
  | .txbIrr => true
  | .txe p => predDest p
  | .txa imm => (decide (imm.toNat < 256))
  | .txq _ => true
  | .rsvi q => below 8 q
  | .rsvu q a _ => below 8 q && evenReg a
  | .rsvm q r _ _ => below 8 q && below 8 r
  | .rsvf _ q => below 8 q
  | .rsvld q a _ sp _ => below 8 q && pairIf (decide (sp = .g)) a
  | .rsvst q a _ sp => below 8 q && pairIf (decide (sp = .g)) a
  | .rsvxGet _ q _ => below 8 q
  | .rsvxSet q _ _ => below 8 q
  | .drawSeed _ _ => true
  | .drawKey _ => true
  | .drawCtr _ => true
  | .drawInt _ => true
  | .drawF32 _ => true
  | .drawSetc _ => true
  | .setfmt imm => formatMode imm
  | .mmavVv c a b => below 32 c && below 121 a && below 121 b
  | .mmavVt c a t => below 32 c && below 121 a && below 64 t
  | .mloop c a b k => below 32 c && below 64 a && below 64 b && (decide (k ≠ 0))
  | .mwait c => below 32 c
  | .mrdy => true
  | .tmovDef t a => below 64 t && evenReg a
  | .tmovRd _ t _ => below 64 t
  | .tmovWr t _ _ => below 64 t
  | .tmovRel t => below 64 t
  | .amovRd _ c _ => below 32 c
  | .amovWr c _ _ => below 32 c
  | .amovZero c => below 32 c
  | .amovTile t c => below 64 t && below 32 c
  | .tstat d t => uniformDest d && below 64 t
  | .trace _ a _ => below 119 a
  | .trwait d _ => below 121 d
  | .trresAcc _ _ => true
  | .trresIgn _ => true
  | .trresTerm _ => true
  | .trresRetry _ => true
  | .trcan _ => true
  | .trrec d _ _ => below 121 d
  | .asupd a => evenReg a
  | .texf d a b _ => below 125 d && below 126 a && uniformBlock b
  | .hgrid _ a b _ => below 126 a && uniformBlock b
  | .mfs _ imm => systemNumber imm
  | .mts _ imm => systemNumber imm
  | .trap _ => true
  | .trapBrk _ => true
  | .eret => true
  | .reordRepack _ => true
  | .growPerform _ _ _ => true
  | .trapEntry _ _ => true
  | .launchPacket _ _ => true
  | .copyPacket _ _ => true
  | .structureUpdatePacket _ _ => true
  | .counterWaitSatisfied _ _ => true
  | .staging _ => true
  | .tailPoll _ _ => true
  | .basinPlace _ => true
  | .placementWaitTimeout _ => true
  | .launchComplete _ => true
  | .basinExit _ => true
  | .rotationSwap _ _ => true
  | .jetWake _ _ => true
  | .longWriteLands _ _ _ => true
  | .storePerformed _ => true
  | .writeDropReport _ => true
  | .storeAck _ => true
  | .atomicPerform _ _ _ => true
  | .requestAgePromotion _ _ _ => true
  | .faultResolved _ => true
  | .faultUnresolvable _ => true
  | .pageRequestServiced _ => true
  | .migration _ _ _ => true
  | .copyService _ _ => true
  | .copyComplete _ => true
  | .copyFaultEnd _ => true
  | .waitgeSatisfied _ _ l => (decide (l < 32))
  | .txSlotGrant _ => true
  | .tokenGrant => true
  | .txCommit _ _ l => (decide (l < 32))
  | .timeout _ _ l => (decide (l < 32))
  | .matrixOpComplete _ _ => true
  | .filterLookup _ _ _ => true
  | .rayArrive _ => true
  | .enginePick _ => true
  | .rayTraverse _ => true
  | .nodeVersionTimeout _ => true
  | .answerArrives _ => true
  | .sueUpdate => true
  | .config => true
  | .linkDown _ => true
  | .flitCrcFailure _ => true
  | .moduleStart => true
  | .startStepTimeout _ => true
  | .powerClockStep _ => true
  | .queueFirmwareSwap _ _ => true
  | .getconfig _ => true
  | .setpower _ => true
  | .invalidate _ => true
  | .endlaunch _ => true
  | .resolve _ => true
  | .refuse _ => true
  | .report _ => true
  | .update _ => true
  | .setparam _ => true
  | .clearjournal _ => true
  | .readlog _ => true
  | .contextDescriptorWrite _ _ sz _ => (decide (sz = 1 ∨ sz = 2 ∨ sz = 4 ∨ sz = 8))
  | .queueDescriptorWrite _ _ _ sz _ => (decide (sz = 1 ∨ sz = 2 ∨ sz = 4 ∨ sz = 8))
  | .controlSpaceWrite _ sz _ => (decide (sz = 1 ∨ sz = 2 ∨ sz = 4 ∨ sz = 8))
  | .storePointPassed _ _ => true
  | .peerForwarding => true
  | .eccScrubbing _ => true

end Sys2Proof
end

