-- ==== Sys2Proof/Decode.lean ====
section
/-! DEFINITION. Reading an instruction from its 32-bit word, and writing the word of an instruction (chapter 05). The
decoder names why it refuses a word; at issue every refusal is the trap ILLEGAL (R99). -/

namespace Sys2Proof

/-- Why a word is no instruction (R99). -/
inductive DecodeError where
  /-- The opcode is unassigned, or a code is not listed for its opcode. -/
  | code
  /-- An operand lies outside its kind. -/
  | operand
  /-- A field that must be zero is not zero. -/
  | reserved
  deriving DecidableEq, Repr

/-- The code of AddForm (Table 5.4, R94 to R98). -/
def AddForm.code : AddForm → BitVec 4
  | .wrap => 0
  | .ssat => 1
  | .nsat => 2
  | .b64 => 3

/-- Reading a code of AddForm. -/
def AddForm.ofCode (c : BitVec 4) : Option AddForm :=
  match c.toNat with
  | 0 => some .wrap
  | 1 => some .ssat
  | 2 => some .nsat
  | 3 => some .b64
  | _ => none

/-- The code of MadForm (Table 5.4, R94 to R98). -/
def MadForm.code : MadForm → BitVec 4
  | .b32 => 0
  | .n64 => 1
  | .s64 => 2

/-- Reading a code of MadForm. -/
def MadForm.ofCode (c : BitVec 4) : Option MadForm :=
  match c.toNat with
  | 0 => some .b32
  | 1 => some .n64
  | 2 => some .s64
  | _ => none

/-- The code of Cc (Table 5.4, R94 to R98). -/
def Cc.code : Cc → BitVec 4
  | .eq => 0
  | .ne => 1
  | .lt => 2
  | .le => 3
  | .gt => 4
  | .ge => 5
  | .ltu => 6
  | .leu => 7
  | .gtu => 8
  | .geu => 9

/-- Reading a code of Cc. -/
def Cc.ofCode (c : BitVec 4) : Option Cc :=
  match c.toNat with
  | 0 => some .eq
  | 1 => some .ne
  | 2 => some .lt
  | 3 => some .le
  | 4 => some .gt
  | 5 => some .ge
  | 6 => some .ltu
  | 7 => some .leu
  | 8 => some .gtu
  | 9 => some .geu
  | _ => none

/-- The code of Fcc (Table 5.4, R94 to R98). -/
def Fcc.code : Fcc → BitVec 4
  | .eq => 0
  | .ne => 1
  | .lt => 2
  | .le => 3
  | .gt => 4
  | .ge => 5
  | .un => 6
  | .ord => 7

/-- Reading a code of Fcc. -/
def Fcc.ofCode (c : BitVec 4) : Option Fcc :=
  match c.toNat with
  | 0 => some .eq
  | 1 => some .ne
  | 2 => some .lt
  | 3 => some .le
  | 4 => some .gt
  | 5 => some .ge
  | 6 => some .un
  | 7 => some .ord
  | _ => none

/-- The code of FTy (Table 5.4, R94 to R98). -/
def FTy.code : FTy → BitVec 2
  | .f32 => 0
  | .f16x2 => 1
  | .bf16x2 => 2

/-- Reading a code of FTy. -/
def FTy.ofCode (c : BitVec 2) : Option FTy :=
  match c.toNat with
  | 0 => some .f32
  | 1 => some .f16x2
  | 2 => some .bf16x2
  | _ => none

/-- The code of Rm (Table 5.4, R94 to R98). -/
def Rm.code : Rm → BitVec 2
  | .rn => 0
  | .rz => 1
  | .ru => 2
  | .rd => 3

/-- Reading a code of Rm. -/
def Rm.ofCode (c : BitVec 2) : Option Rm :=
  match c.toNat with
  | 0 => some .rn
  | 1 => some .rz
  | 2 => some .ru
  | _ => some .rd

/-- The code of CvtCode (Table 5.4, R94 to R98). -/
def CvtCode.code : CvtCode → BitVec 7
  | .f32s32 => 0
  | .f32n32 => 1
  | .s32f32 => 2
  | .n32f32 => 3
  | .f16f32 => 4
  | .f32f16 => 5
  | .bf16f32 => 6
  | .f32bf16 => 7
  | .e4m3f32 => 8
  | .f32e4m3 => 9
  | .e5m2f32 => 10
  | .f32e5m2 => 11
  | .e3m2f32 => 12
  | .f32e3m2 => 13
  | .e2m3f32 => 14
  | .f32e2m3 => 15
  | .e2m1f32 => 16
  | .f32e2m1 => 17
  | .e8m0f32 => 18
  | .f32e8m0 => 19
  | .s8f32 => 20
  | .f32s8 => 21

/-- Reading a code of CvtCode. -/
def CvtCode.ofCode (c : BitVec 7) : Option CvtCode :=
  match c.toNat with
  | 0 => some .f32s32
  | 1 => some .f32n32
  | 2 => some .s32f32
  | 3 => some .n32f32
  | 4 => some .f16f32
  | 5 => some .f32f16
  | 6 => some .bf16f32
  | 7 => some .f32bf16
  | 8 => some .e4m3f32
  | 9 => some .f32e4m3
  | 10 => some .e5m2f32
  | 11 => some .f32e5m2
  | 12 => some .e3m2f32
  | 13 => some .f32e3m2
  | 14 => some .e2m3f32
  | 15 => some .f32e2m3
  | 16 => some .e2m1f32
  | 17 => some .f32e2m1
  | 18 => some .e8m0f32
  | 19 => some .f32e8m0
  | 20 => some .s8f32
  | 21 => some .f32s8
  | _ => none

/-- The code of PackForm (Table 5.4, R94 to R98). -/
def PackForm.code : PackForm → BitVec 4
  | .f16x2 => 0
  | .bf16x2 => 1
  | .e4m3lo => 2
  | .e4m3hi => 3
  | .e5m2lo => 4
  | .e5m2hi => 5

/-- Reading a code of PackForm. -/
def PackForm.ofCode (c : BitVec 4) : Option PackForm :=
  match c.toNat with
  | 0 => some .f16x2
  | 1 => some .bf16x2
  | 2 => some .e4m3lo
  | 3 => some .e4m3hi
  | 4 => some .e5m2lo
  | 5 => some .e5m2hi
  | _ => none

/-- The code of UnpkForm (Table 5.4, R94 to R98). -/
def UnpkForm.code : UnpkForm → BitVec 4
  | .f16lo => 0
  | .f16hi => 1
  | .bf16lo => 2
  | .bf16hi => 3
  | .e4m3b0 => 4
  | .e4m3b1 => 5
  | .e4m3b2 => 6
  | .e4m3b3 => 7
  | .e5m2b0 => 8
  | .e5m2b1 => 9
  | .e5m2b2 => 10
  | .e5m2b3 => 11

/-- Reading a code of UnpkForm. -/
def UnpkForm.ofCode (c : BitVec 4) : Option UnpkForm :=
  match c.toNat with
  | 0 => some .f16lo
  | 1 => some .f16hi
  | 2 => some .bf16lo
  | 3 => some .bf16hi
  | 4 => some .e4m3b0
  | 5 => some .e4m3b1
  | 6 => some .e4m3b2
  | 7 => some .e4m3b3
  | 8 => some .e5m2b0
  | 9 => some .e5m2b1
  | 10 => some .e5m2b2
  | 11 => some .e5m2b3
  | _ => none

/-- The code of SmulForm (Table 5.4, R94 to R98). -/
def SmulForm.code : SmulForm → BitVec 4
  | .low => 0
  | .hin => 1
  | .his => 2

/-- Reading a code of SmulForm. -/
def SmulForm.ofCode (c : BitVec 4) : Option SmulForm :=
  match c.toNat with
  | 0 => some .low
  | 1 => some .hin
  | 2 => some .his
  | _ => none

/-- The code of SlogForm (Table 5.4, R94 to R98). -/
def SlogForm.code : SlogForm → BitVec 4
  | .and => 0
  | .or => 1
  | .xor => 2
  | .andn => 3

/-- Reading a code of SlogForm. -/
def SlogForm.ofCode (c : BitVec 4) : Option SlogForm :=
  match c.toNat with
  | 0 => some .and
  | 1 => some .or
  | 2 => some .xor
  | 3 => some .andn
  | _ => none

/-- The code of SshfForm (Table 5.4, R94 to R98). -/
def SshfForm.code : SshfForm → BitVec 4
  | .shl => 0
  | .shr => 1
  | .sar => 2

/-- Reading a code of SshfForm. -/
def SshfForm.ofCode (c : BitVec 4) : Option SshfForm :=
  match c.toNat with
  | 0 => some .shl
  | 1 => some .shr
  | 2 => some .sar
  | _ => none

/-- The code of RedOp (Table 5.4, R94 to R98). -/
def RedOp.code : RedOp → BitVec 4
  | .add => 0
  | .mins => 1
  | .maxs => 2
  | .minn => 3
  | .maxn => 4
  | .and => 5
  | .or => 6
  | .xor => 7
  | .fadd => 8
  | .fmin => 9
  | .fmax => 10
  | .first => 11

/-- Reading a code of RedOp. -/
def RedOp.ofCode (c : BitVec 4) : Option RedOp :=
  match c.toNat with
  | 0 => some .add
  | 1 => some .mins
  | 2 => some .maxs
  | 3 => some .minn
  | 4 => some .maxn
  | 5 => some .and
  | 6 => some .or
  | 7 => some .xor
  | 8 => some .fadd
  | 9 => some .fmin
  | 10 => some .fmax
  | 11 => some .first
  | _ => none

/-- The code of PlogForm (Table 5.4, R94 to R98). -/
def PlogForm.code : PlogForm → BitVec 4
  | .and => 0
  | .or => 1
  | .xor => 2
  | .andn => 3
  | .orn => 4

/-- Reading a code of PlogForm. -/
def PlogForm.ofCode (c : BitVec 4) : Option PlogForm :=
  match c.toNat with
  | 0 => some .and
  | 1 => some .or
  | 2 => some .xor
  | 3 => some .andn
  | 4 => some .orn
  | _ => none

/-- The code of IdForm (Table 5.4, R94 to R98). -/
def IdForm.code : IdForm → BitVec 4
  | .lane => 0
  | .jet => 1
  | .basin => 2
  | .wid => 3
  | .wid0 => 4
  | .core => 5

/-- Reading a code of IdForm. -/
def IdForm.ofCode (c : BitVec 4) : Option IdForm :=
  match c.toNat with
  | 0 => some .lane
  | 1 => some .jet
  | 2 => some .basin
  | 3 => some .wid
  | 4 => some .wid0
  | 5 => some .core
  | _ => none

/-- The code of Size (Table 5.4, R94 to R98). -/
def Size.code : Size → BitVec 2
  | .b8 => 0
  | .b16 => 1
  | .b32 => 2
  | .b64 => 3

/-- Reading a code of Size. -/
def Size.ofCode (c : BitVec 2) : Option Size :=
  match c.toNat with
  | 0 => some .b8
  | 1 => some .b16
  | 2 => some .b32
  | _ => some .b64

/-- The code of Scope (Table 5.4, R94 to R98). -/
def Scope.code : Scope → BitVec 2
  | .bsn => 0
  | .pkg => 1
  | .sys => 2

/-- Reading a code of Scope. -/
def Scope.ofCode (c : BitVec 2) : Option Scope :=
  match c.toNat with
  | 0 => some .bsn
  | 1 => some .pkg
  | 2 => some .sys
  | _ => none

/-- The code of MemOrder (Table 5.4, R94 to R98). -/
def MemOrder.code : MemOrder → BitVec 2
  | .relaxed => 0
  | .acq => 1
  | .rel => 2
  | .ar => 3

/-- Reading a code of MemOrder. -/
def MemOrder.ofCode (c : BitVec 2) : Option MemOrder :=
  match c.toNat with
  | 0 => some .relaxed
  | 1 => some .acq
  | 2 => some .rel
  | _ => some .ar

/-- The code of AtomOp (Table 5.4, R94 to R98). -/
def AtomOp.code : AtomOp → BitVec 3
  | .add => 0
  | .fadd => 1
  | .umin => 2
  | .umax => 3
  | .and => 4
  | .or => 5
  | .xor => 6
  | .exch => 7

/-- Reading a code of AtomOp. -/
def AtomOp.ofCode (c : BitVec 3) : Option AtomOp :=
  match c.toNat with
  | 0 => some .add
  | 1 => some .fadd
  | 2 => some .umin
  | 3 => some .umax
  | 4 => some .and
  | 5 => some .or
  | 6 => some .xor
  | _ => some .exch

/-- The code of Space (Table 5.4, R94 to R98). -/
def Space.code : Space → BitVec 2
  | .g => 0
  | .s => 1

/-- Reading a code of Space. -/
def Space.ofCode (c : BitVec 2) : Option Space :=
  match c.toNat with
  | 0 => some .g
  | 1 => some .s
  | _ => none

/-- The code of RsvField (Table 5.4, R94 to R98). -/
def RsvField.code : RsvField → BitVec 2
  | .pay => 0
  | .phat => 1
  | .wsum => 2
  | .mf => 3

/-- Reading a code of RsvField. -/
def RsvField.ofCode (c : BitVec 2) : Option RsvField :=
  match c.toNat with
  | 0 => some .pay
  | 1 => some .phat
  | 2 => some .wsum
  | _ => some .mf

/-- The code of a signedness in `IMULH` and `BFE` (Table 5.6). -/
def Sign.code : Sign → BitVec 4
  | .n32 => 0
  | .s32 => 1

/-- Reading a signedness of `IMULH` and `BFE`. -/
def Sign.ofCode (c : BitVec 4) : Option Sign :=
  match c.toNat with
  | 0 => some .n32
  | 1 => some .s32
  | _ => none

/-- The code of a signedness in `IMIN` and `IMAX` (Table 5.6). -/
def Sign.minCode : Sign → BitVec 4
  | .s32 => 0
  | .n32 => 1

/-- Reading a signedness of `IMIN` and `IMAX`. -/
def Sign.ofMinCode (c : BitVec 4) : Option Sign :=
  match c.toNat with
  | 0 => some .s32
  | 1 => some .n32
  | _ => none

/-- A two-valued field of four bits. -/
def flag4 (b : Bool) : BitVec 4 := if b then 1 else 0

/-- Reading a two-valued field of four bits. -/
def ofFlag4 (c : BitVec 4) : Option Bool :=
  match c.toNat with
  | 0 => some false
  | 1 => some true
  | _ => none

/-- A two-valued field of seven bits. -/
def flag7 (b : Bool) : BitVec 7 := if b then 1 else 0

/-- Reading a two-valued field of seven bits. -/
def ofFlag7 (c : BitVec 7) : Option Bool :=
  match c.toNat with
  | 0 => some false
  | 1 => some true
  | _ => none

/-- A word of the RRR or M format (Table 5.1). -/
def wordRRR (op d a b : BitVec 7) (x : BitVec 4) : Word := op ++ d ++ a ++ b ++ x

/-- A word of the RI format (Table 5.1). -/
def wordRI (op d a : BitVec 7) (imm : BitVec 11) : Word := op ++ d ++ a ++ imm

/-- A word of the I18 format (Table 5.1). -/
def wordI18 (op d : BitVec 7) (imm : BitVec 18) : Word := op ++ d ++ imm

/-- A word of the J25 format (Table 5.1). -/
def wordJ25 (op : BitVec 7) (off : BitVec 25) : Word := op ++ off

/-- The major opcode, bits 31:25 (R68). -/
def fieldOp (w : Word) : BitVec 7 := w.extractLsb' 25 7
/-- The d field, bits 24:18. -/
def fieldD (w : Word) : BitVec 7 := w.extractLsb' 18 7
/-- The a field, bits 17:11. -/
def fieldA (w : Word) : BitVec 7 := w.extractLsb' 11 7
/-- The b field, bits 10:4. -/
def fieldB (w : Word) : BitVec 7 := w.extractLsb' 4 7
/-- The x field, bits 3:0. -/
def fieldX (w : Word) : BitVec 4 := w.extractLsb' 0 4
/-- imm11, bits 10:0. -/
def fieldImm11 (w : Word) : BitVec 11 := w.extractLsb' 0 11
/-- imm18, bits 17:0. -/
def fieldImm18 (w : Word) : BitVec 18 := w.extractLsb' 0 18
/-- off25, bits 24:0. -/
def fieldOff25 (w : Word) : BitVec 25 := w.extractLsb' 0 25

/-- The b field of an atomic: operation, scope, order (R96). -/
def atomField (op : BitVec 3) (sc ord : BitVec 2) : BitVec 7 := op ++ (sc ++ ord)
/-- The x field of `PREF` (Table 5.9). -/
def prefField (l1 : Bool) : BitVec 4 := 0#1 ++ (BitVec.ofBool l1 ++ 0#2)
/-- The d field of `BRC` (Table 5.5). -/
def branchField (neg : Bool) (p : BitVec 4) : BitVec 7 := 0#2 ++ (BitVec.ofBool neg ++ p)
/-- The x field of `CVT` (Table 5.7). -/
def cvtField (sat : Bool) (rm : BitVec 2) : BitVec 4 := BitVec.ofBool sat ++ (0#1 ++ rm)

/-- The word of an instruction, from the encoding tables (Tables 5.5 to 5.11); none for an event, which has no word. -/
def encode (i : Instr) : Option Word :=
  match i with
  | .nop => some (wordRRR 0x00 0 0 0 0)
  | .grd k neg n => some (wordRRR 0x01 k (flag7 neg) 0 (0#1 ++ n))
  | .bra off => some (wordJ25 0x02 off)
  | .brc neg p imm => some (wordI18 0x03 (branchField neg p) imm)
  | .brx a => some (wordRRR 0x04 0 a 0 0)
  | .call off => some (wordJ25 0x05 off)
  | .callx a => some (wordRRR 0x06 0 a 0 0)
  | .ret => some (wordRRR 0x07 0 0 0 0)
  | .exit => some (wordRRR 0x08 0 0 0 0)
  | .mark m => some (wordRRR 0x09 m 0 0 0)
  | .join m => some (wordRRR 0x0A m 0 0 0)
  | .leave m => some (wordRRR 0x0B m 0 0 0)
  | .waitm m => some (wordRRR 0x0C m 0 0 0)
  | .bar k a => some (wordRRR 0x0D k a 0 0)
  | .barArrive k a => some (wordRRR 0x0D k a 0 1)
  | .winb imm => some (wordI18 0x0E 0 imm)
  | .reord a => some (wordRRR 0x0F 0 a 0 0)
  | .iadd d a b it => some (wordRRR 0x10 d a b (AddForm.code it))
  | .isub d a b it => some (wordRRR 0x11 d a b (AddForm.code it))
  | .imul d a b => some (wordRRR 0x12 d a b 0)
  | .imad d a b f => some (wordRRR 0x13 d a b (MadForm.code f))
  | .imulh d a b s => some (wordRRR 0x14 d a b (Sign.code s))
  | .iaddi d a imm => some (wordRI 0x15 d a imm)
  | .and d a b inv => some (wordRRR 0x16 d a b (flag4 inv))
  | .or d a b inv => some (wordRRR 0x17 d a b (flag4 inv))
  | .xor d a b inv => some (wordRRR 0x18 d a b (flag4 inv))
  | .andi d a imm => some (wordRI 0x19 d a imm)
  | .ori d a imm => some (wordRI 0x1A d a imm)
  | .shl d a b => some (wordRRR 0x1B d a b 0)
  | .shlI d a n => some (wordRRR 0x1B d a (0#2 ++ n) 1)
  | .shr d a b => some (wordRRR 0x1C d a b 0)
  | .shrI d a n => some (wordRRR 0x1C d a (0#2 ++ n) 1)
  | .sar d a b => some (wordRRR 0x1D d a b 0)
  | .sarI d a n => some (wordRRR 0x1D d a (0#2 ++ n) 1)
  | .bfe d a b s => some (wordRRR 0x1E d a b (Sign.code s))
  | .bfi d a b => some (wordRRR 0x1F d a b 0)
  | .popc d a => some (wordRRR 0x20 d a 0 0)
  | .clz d a => some (wordRRR 0x21 d a 0 0)
  | .imin d a b s => some (wordRRR 0x22 d a b (Sign.minCode s))
  | .imax d a b s => some (wordRRR 0x23 d a b (Sign.minCode s))
  | .icmp p a b cc => some (wordRRR 0x24 p a b (Cc.code cc))
  | .sel d a b p => some (wordRRR 0x25 d a b p)
  | .movi d imm => some (wordI18 0x26 d imm)
  | .movhi d imm => some (wordI18 0x27 d imm)
  | .fadd d a b ty rm => some (wordRRR 0x28 d a b (FTy.code ty ++ Rm.code rm))
  | .fsub d a b ty rm => some (wordRRR 0x29 d a b (FTy.code ty ++ Rm.code rm))
  | .fmul d a b ty rm => some (wordRRR 0x2A d a b (FTy.code ty ++ Rm.code rm))
  | .ffma d a b ty rm => some (wordRRR 0x2B d a b (FTy.code ty ++ Rm.code rm))
  | .fmin d a b ty => some (wordRRR 0x2C d a b (FTy.code ty ++ 0#2))
  | .fmax d a b ty => some (wordRRR 0x2D d a b (FTy.code ty ++ 0#2))
  | .fcmp p a b cc => some (wordRRR 0x2E p a b (Fcc.code cc))
  | .fclass d a => some (wordRRR 0x2F d a 0 0)
  | .cvt d a code sat rm => some (wordRRR 0x30 d a (CvtCode.code code) (cvtField sat (Rm.code rm)))
  | .frnd d a ty rm => some (wordRRR 0x31 d a 0 (FTy.code ty ++ Rm.code rm))
  | .rcp d a => some (wordRRR 0x32 d a 0 0)
  | .rsq d a => some (wordRRR 0x33 d a 0 0)
  | .sqrt d a => some (wordRRR 0x34 d a 0 0)
  | .exp2 d a => some (wordRRR 0x35 d a 0 0)
  | .log2 d a => some (wordRRR 0x36 d a 0 0)
  | .sin d a => some (wordRRR 0x37 d a 0 0)
  | .cos d a => some (wordRRR 0x38 d a 0 0)
  | .tanh d a => some (wordRRR 0x39 d a 0 0)
  | .fdot2 d a b ty rm => some (wordRRR 0x3A d a b (FTy.code ty ++ Rm.code rm))
  | .fdiv d a b => some (wordRRR 0x3B d a b 0)
  | .pack d a b f => some (wordRRR 0x3C d a b (PackForm.code f))
  | .unpk d a f => some (wordRRR 0x3D d a 0 (UnpkForm.code f))
  | .sadd d a b it => some (wordRRR 0x40 d a b (AddForm.code it))
  | .smul d a b f => some (wordRRR 0x41 d a b (SmulForm.code f))
  | .slog d a b f => some (wordRRR 0x42 d a b (SlogForm.code f))
  | .sshf d a b f => some (wordRRR 0x43 d a b (SshfForm.code f))
  | .scmp d a b cc => some (wordRRR 0x44 d a b (Cc.code cc))
  | .smovi d imm => some (wordI18 0x45 d imm)
  | .smovhi d imm => some (wordI18 0x46 d imm)
  | .bcast d a => some (wordRRR 0x47 d a 0 0)
  | .jred d a f => some (wordRRR 0x48 d a 0 (RedOp.code f))
  | .ballot d p inv => some (wordRRR 0x49 d p 0 (flag4 inv))
  | .grow d a la => some (wordRRR 0x4A d a 0 la)
  | .sld d a off sz la => some (wordRRR 0x4B d a off (Size.code sz ++ la))
  | .plog d a b f => some (wordRRR 0x4C d a b (PlogForm.code f))
  | .pmovPv d a => some (wordRRR 0x4D d a 0 0)
  | .pmovVp d a => some (wordRRR 0x4D d a 0 1)
  | .pmovPp d a => some (wordRRR 0x4D d a 0 2)
  | .mmovSm d m => some (wordRRR 0x4E d m 0 0)
  | .mmovMs m a => some (wordRRR 0x4E m a 0 1)
  | .mmovMm d m => some (wordRRR 0x4E d m 0 2)
  | .idr d f => some (wordRRR 0x4F d 0 0 (IdForm.code f))
  | .ldG d a off sz la => some (wordRRR 0x50 d a off (Size.code sz ++ la))
  | .stG d a off sz => some (wordRRR 0x51 d a off (Size.code sz ++ 0#2))
  | .lds d a off sz la => some (wordRRR 0x52 d a off (Size.code sz ++ la))
  | .sts d a off sz => some (wordRRR 0x53 d a off (Size.code sz ++ 0#2))
  | .atom d a op sc ord la => some (wordRRR 0x54 d a (atomField (AtomOp.code op) (Scope.code sc) (MemOrder.code ord)) la)
  | .atoms d a op sc ord la => some (wordRRR 0x55 d a (atomField (AtomOp.code op) (Scope.code sc) (MemOrder.code ord)) la)
  | .ldnr d a p sz la => some (wordRRR 0x56 d a p (Size.code sz ++ la))
  | .pgreq a => some (wordRRR 0x57 0 a 0 0)
  | .fence sc ord => some (wordRRR 0x58 0 0 0 (Scope.code sc ++ MemOrder.code ord))
  | .copy a sc ord => some (wordRRR 0x59 0 a 0 (Scope.code sc ++ MemOrder.code ord))
  | .waitge a b sc ord => some (wordRRR 0x5A 0 a b (Scope.code sc ++ MemOrder.code ord))
  | .ctradd a b sc ord => some (wordRRR 0x5B 0 a b (Scope.code sc ++ MemOrder.code ord))
  | .pref a off lv => some (wordRRR 0x5C 0 a off (prefField lv))
  | .cas d a sc ord la => some (wordRRR 0x5D d a (atomField 0 (Scope.code sc) (MemOrder.code ord)) la)
  | .txb => some (wordRRR 0x60 0 0 0 0)
  | .txbIrr => some (wordRRR 0x60 0 0 0 1)
  | .txe p => some (wordRRR 0x61 p 0 0 0)
  | .txa imm => some (wordI18 0x62 0 imm)
  | .txq d => some (wordRRR 0x63 d 0 0 0)
  | .rsvi q => some (wordRRR 0x64 q 0 0 0)
  | .rsvu q a b => some (wordRRR 0x65 q a b 0)
  | .rsvm q r b cap => some (wordRRR 0x66 q r b cap)
  | .rsvf d q => some (wordRRR 0x67 d q 0 0)
  | .rsvld q a off sp la => some (wordRRR 0x68 q a off (Space.code sp ++ la))
  | .rsvst q a off sp => some (wordRRR 0x69 q a off (Space.code sp ++ 0#2))
  | .rsvxGet d q f => some (wordRRR 0x6A d q 0 (0#2 ++ RsvField.code f))
  | .rsvxSet q a f => some (wordRRR 0x6A q a 0 (1#2 ++ RsvField.code f))
  | .drawSeed a b => some (wordRRR 0x6B 0 a b 0)
  | .drawKey d => some (wordRRR 0x6B d 0 0 1)
  | .drawCtr d => some (wordRRR 0x6B d 0 0 2)
  | .drawInt d => some (wordRRR 0x6B d 0 0 3)
  | .drawF32 d => some (wordRRR 0x6B d 0 0 4)
  | .drawSetc a => some (wordRRR 0x6B 0 a 0 5)
  | .setfmt imm => some (wordI18 0x6C 0 imm)
  | .mmavVv c a b => some (wordRRR 0x6D c a b 0)
  | .mmavVt c a t => some (wordRRR 0x6D c a t 1)
  | .mloop c a b k => some (wordRRR 0x6E c a b k)
  | .mwait c => some (wordRRR 0x6F c 0 0 0)
  | .mrdy => some (wordRRR 0x70 0 0 0 0)
  | .tmovDef t a => some (wordRRR 0x71 t a 0 0)
  | .tmovRd d t b => some (wordRRR 0x71 d t b 1)
  | .tmovWr t a b => some (wordRRR 0x71 t a b 2)
  | .tmovRel t => some (wordRRR 0x71 t 0 0 3)
  | .amovRd d c b => some (wordRRR 0x72 d c b 0)
  | .amovWr c a b => some (wordRRR 0x72 c a b 1)
  | .amovZero c => some (wordRRR 0x72 c 0 0 2)
  | .amovTile t c => some (wordRRR 0x72 t c 0 3)
  | .tstat d t => some (wordRRR 0x73 d t 0 0)
  | .trace d a b => some (wordRRR 0x74 d a b 0)
  | .trwait d a => some (wordRRR 0x75 d a 0 0)
  | .trresAcc a b => some (wordRRR 0x76 0 a b 0)
  | .trresIgn a => some (wordRRR 0x76 0 a 0 1)
  | .trresTerm a => some (wordRRR 0x76 0 a 0 2)
  | .trresRetry a => some (wordRRR 0x76 0 a 0 3)
  | .trcan a => some (wordRRR 0x77 0 a 0 0)
  | .trrec d a n => some (wordRRR 0x78 d a 0 (0#2 ++ n))
  | .asupd a => some (wordRRR 0x79 0 a 0 0)
  | .texf d a b la => some (wordRRR 0x7A d a b la)
  | .hgrid d a b la => some (wordRRR 0x7B d a b la)
  | .mfs d imm => some (wordI18 0x7C d imm)
  | .mts d imm => some (wordI18 0x7D d imm)
  | .trap code => some (wordI18 0x7E 0 (0#2 ++ code))
  | .trapBrk code => some (wordI18 0x7E 0 (1#2 ++ code))
  | .eret => some (wordRRR 0x7F 0 0 0 0)
  | .reordRepack _ => none
  | .growPerform _ _ _ => none
  | .trapEntry _ _ => none
  | .launchPacket _ _ => none
  | .copyPacket _ _ => none
  | .structureUpdatePacket _ _ => none
  | .counterWaitSatisfied _ _ => none
  | .staging _ => none
  | .tailPoll _ _ => none
  | .basinPlace _ => none
  | .placementWaitTimeout _ => none
  | .launchComplete _ => none
  | .basinExit _ => none
  | .rotationSwap _ _ => none
  | .jetWake _ _ => none
  | .longWriteLands _ _ _ => none
  | .storePerformed _ => none
  | .writeDropReport _ => none
  | .storeAck _ => none
  | .atomicPerform _ _ _ => none
  | .requestAgePromotion _ _ _ => none
  | .faultResolved _ => none
  | .faultUnresolvable _ => none
  | .pageRequestServiced _ => none
  | .migration _ _ _ => none
  | .copyService _ _ => none
  | .copyComplete _ => none
  | .copyFaultEnd _ => none
  | .waitgeSatisfied _ _ _ => none
  | .txSlotGrant _ => none
  | .tokenGrant => none
  | .txCommit _ _ _ => none
  | .timeout _ _ _ => none
  | .matrixOpComplete _ _ => none
  | .filterLookup _ _ _ => none
  | .rayArrive _ => none
  | .enginePick _ => none
  | .rayTraverse _ => none
  | .nodeVersionTimeout _ => none
  | .answerArrives _ => none
  | .sueUpdate => none
  | .config => none
  | .linkDown _ => none
  | .flitCrcFailure _ => none
  | .moduleStart => none
  | .startStepTimeout _ => none
  | .powerClockStep _ => none
  | .queueFirmwareSwap _ _ => none
  | .getconfig _ => none
  | .setpower _ => none
  | .invalidate _ => none
  | .endlaunch _ => none
  | .resolve _ => none
  | .refuse _ => none
  | .report _ => none
  | .update _ => none
  | .setparam _ => none
  | .clearjournal _ => none
  | .readlog _ => none
  | .contextDescriptorWrite _ _ _ _ => none
  | .queueDescriptorWrite _ _ _ _ _ => none
  | .controlSpaceWrite _ _ _ => none
  | .storePointPassed _ _ => none
  | .peerForwarding => none
  | .eccScrubbing _ => none

/-- The instruction a word of an opcode 0x00 to 0x0F stands for, before its fields are checked. -/
def decodeControl (op : Nat) (w : Word) : Option Instr :=
  match op with
  | 0x00 => some .nop
  | 0x01 => (ofFlag7 (fieldA w)).bind fun neg => some (.grd (fieldD w) neg ((fieldX w).extractLsb' 0 3))
  | 0x02 => some (.bra (fieldOff25 w))
  | 0x03 => some (.brc ((fieldD w).getLsbD 4) ((fieldD w).extractLsb' 0 4) (fieldImm18 w))
  | 0x04 => some (.brx (fieldA w))
  | 0x05 => some (.call (fieldOff25 w))
  | 0x06 => some (.callx (fieldA w))
  | 0x07 => some .ret
  | 0x08 => some .exit
  | 0x09 => some (.mark (fieldD w))
  | 0x0A => some (.join (fieldD w))
  | 0x0B => some (.leave (fieldD w))
  | 0x0C => some (.waitm (fieldD w))
  | 0x0D =>
    match (fieldX w).toNat with
    | 0 => some (.bar (fieldD w) (fieldA w))
    | 1 => some (.barArrive (fieldD w) (fieldA w))
    | _ => none
  | 0x0E => some (.winb (fieldImm18 w))
  | 0x0F => some (.reord (fieldA w))
  | _ => none

/-- The instruction a word of an opcode 0x10 to 0x27 stands for, before its fields are checked. -/
def decodeInteger (op : Nat) (w : Word) : Option Instr :=
  match op with
  | 0x10 => (AddForm.ofCode (fieldX w)).bind fun it => some (.iadd (fieldD w) (fieldA w) (fieldB w) it)
  | 0x11 => (AddForm.ofCode (fieldX w)).bind fun it => some (.isub (fieldD w) (fieldA w) (fieldB w) it)
  | 0x12 => some (.imul (fieldD w) (fieldA w) (fieldB w))
  | 0x13 => (MadForm.ofCode (fieldX w)).bind fun f => some (.imad (fieldD w) (fieldA w) (fieldB w) f)
  | 0x14 => (Sign.ofCode (fieldX w)).bind fun s => some (.imulh (fieldD w) (fieldA w) (fieldB w) s)
  | 0x15 => some (.iaddi (fieldD w) (fieldA w) (fieldImm11 w))
  | 0x16 => (ofFlag4 (fieldX w)).bind fun inv => some (.and (fieldD w) (fieldA w) (fieldB w) inv)
  | 0x17 => (ofFlag4 (fieldX w)).bind fun inv => some (.or (fieldD w) (fieldA w) (fieldB w) inv)
  | 0x18 => (ofFlag4 (fieldX w)).bind fun inv => some (.xor (fieldD w) (fieldA w) (fieldB w) inv)
  | 0x19 => some (.andi (fieldD w) (fieldA w) (fieldImm11 w))
  | 0x1A => some (.ori (fieldD w) (fieldA w) (fieldImm11 w))
  | 0x1B =>
    match (fieldX w).toNat with
    | 0 => some (.shl (fieldD w) (fieldA w) (fieldB w))
    | 1 => some (.shlI (fieldD w) (fieldA w) ((fieldB w).extractLsb' 0 5))
    | _ => none
  | 0x1C =>
    match (fieldX w).toNat with
    | 0 => some (.shr (fieldD w) (fieldA w) (fieldB w))
    | 1 => some (.shrI (fieldD w) (fieldA w) ((fieldB w).extractLsb' 0 5))
    | _ => none
  | 0x1D =>
    match (fieldX w).toNat with
    | 0 => some (.sar (fieldD w) (fieldA w) (fieldB w))
    | 1 => some (.sarI (fieldD w) (fieldA w) ((fieldB w).extractLsb' 0 5))
    | _ => none
  | 0x1E => (Sign.ofCode (fieldX w)).bind fun s => some (.bfe (fieldD w) (fieldA w) (fieldB w) s)
  | 0x1F => some (.bfi (fieldD w) (fieldA w) (fieldB w))
  | 0x20 => some (.popc (fieldD w) (fieldA w))
  | 0x21 => some (.clz (fieldD w) (fieldA w))
  | 0x22 => (Sign.ofMinCode (fieldX w)).bind fun s => some (.imin (fieldD w) (fieldA w) (fieldB w) s)
  | 0x23 => (Sign.ofMinCode (fieldX w)).bind fun s => some (.imax (fieldD w) (fieldA w) (fieldB w) s)
  | 0x24 => (Cc.ofCode (fieldX w)).bind fun cc => some (.icmp (fieldD w) (fieldA w) (fieldB w) cc)
  | 0x25 => some (.sel (fieldD w) (fieldA w) (fieldB w) (fieldX w))
  | 0x26 => some (.movi (fieldD w) (fieldImm18 w))
  | 0x27 => some (.movhi (fieldD w) (fieldImm18 w))
  | _ => none

/-- The instruction a word of an opcode 0x28 to 0x3F stands for, before its fields are checked. -/
def decodeFloat (op : Nat) (w : Word) : Option Instr :=
  match op with
  | 0x28 => (FTy.ofCode ((fieldX w).extractLsb' 2 2)).bind fun ty => (Rm.ofCode ((fieldX w).extractLsb' 0 2)).bind fun rm => some (.fadd (fieldD w) (fieldA w) (fieldB w) ty rm)
  | 0x29 => (FTy.ofCode ((fieldX w).extractLsb' 2 2)).bind fun ty => (Rm.ofCode ((fieldX w).extractLsb' 0 2)).bind fun rm => some (.fsub (fieldD w) (fieldA w) (fieldB w) ty rm)
  | 0x2A => (FTy.ofCode ((fieldX w).extractLsb' 2 2)).bind fun ty => (Rm.ofCode ((fieldX w).extractLsb' 0 2)).bind fun rm => some (.fmul (fieldD w) (fieldA w) (fieldB w) ty rm)
  | 0x2B => (FTy.ofCode ((fieldX w).extractLsb' 2 2)).bind fun ty => (Rm.ofCode ((fieldX w).extractLsb' 0 2)).bind fun rm => some (.ffma (fieldD w) (fieldA w) (fieldB w) ty rm)
  | 0x2C => (FTy.ofCode ((fieldX w).extractLsb' 2 2)).bind fun ty => some (.fmin (fieldD w) (fieldA w) (fieldB w) ty)
  | 0x2D => (FTy.ofCode ((fieldX w).extractLsb' 2 2)).bind fun ty => some (.fmax (fieldD w) (fieldA w) (fieldB w) ty)
  | 0x2E => (Fcc.ofCode (fieldX w)).bind fun cc => some (.fcmp (fieldD w) (fieldA w) (fieldB w) cc)
  | 0x2F => some (.fclass (fieldD w) (fieldA w))
  | 0x30 => (CvtCode.ofCode (fieldB w)).bind fun code => (Rm.ofCode ((fieldX w).extractLsb' 0 2)).bind fun rm => some (.cvt (fieldD w) (fieldA w) code ((fieldX w).getLsbD 3) rm)
  | 0x31 => (FTy.ofCode ((fieldX w).extractLsb' 2 2)).bind fun ty => (Rm.ofCode ((fieldX w).extractLsb' 0 2)).bind fun rm => some (.frnd (fieldD w) (fieldA w) ty rm)
  | 0x32 => some (.rcp (fieldD w) (fieldA w))
  | 0x33 => some (.rsq (fieldD w) (fieldA w))
  | 0x34 => some (.sqrt (fieldD w) (fieldA w))
  | 0x35 => some (.exp2 (fieldD w) (fieldA w))
  | 0x36 => some (.log2 (fieldD w) (fieldA w))
  | 0x37 => some (.sin (fieldD w) (fieldA w))
  | 0x38 => some (.cos (fieldD w) (fieldA w))
  | 0x39 => some (.tanh (fieldD w) (fieldA w))
  | 0x3A => (FTy.ofCode ((fieldX w).extractLsb' 2 2)).bind fun ty => (Rm.ofCode ((fieldX w).extractLsb' 0 2)).bind fun rm => some (.fdot2 (fieldD w) (fieldA w) (fieldB w) ty rm)
  | 0x3B => some (.fdiv (fieldD w) (fieldA w) (fieldB w))
  | 0x3C => (PackForm.ofCode (fieldX w)).bind fun f => some (.pack (fieldD w) (fieldA w) (fieldB w) f)
  | 0x3D => (UnpkForm.ofCode (fieldX w)).bind fun f => some (.unpk (fieldD w) (fieldA w) f)
  | _ => none

/-- The instruction a word of an opcode 0x40 to 0x4F stands for, before its fields are checked. -/
def decodeUniform (op : Nat) (w : Word) : Option Instr :=
  match op with
  | 0x40 => (AddForm.ofCode (fieldX w)).bind fun it => some (.sadd (fieldD w) (fieldA w) (fieldB w) it)
  | 0x41 => (SmulForm.ofCode (fieldX w)).bind fun f => some (.smul (fieldD w) (fieldA w) (fieldB w) f)
  | 0x42 => (SlogForm.ofCode (fieldX w)).bind fun f => some (.slog (fieldD w) (fieldA w) (fieldB w) f)
  | 0x43 => (SshfForm.ofCode (fieldX w)).bind fun f => some (.sshf (fieldD w) (fieldA w) (fieldB w) f)
  | 0x44 => (Cc.ofCode (fieldX w)).bind fun cc => some (.scmp (fieldD w) (fieldA w) (fieldB w) cc)
  | 0x45 => some (.smovi (fieldD w) (fieldImm18 w))
  | 0x46 => some (.smovhi (fieldD w) (fieldImm18 w))
  | 0x47 => some (.bcast (fieldD w) (fieldA w))
  | 0x48 => (RedOp.ofCode (fieldX w)).bind fun f => some (.jred (fieldD w) (fieldA w) f)
  | 0x49 => (ofFlag4 (fieldX w)).bind fun inv => some (.ballot (fieldD w) (fieldA w) inv)
  | 0x4A => some (.grow (fieldD w) (fieldA w) (fieldX w))
  | 0x4B => (Size.ofCode ((fieldX w).extractLsb' 2 2)).bind fun sz => some (.sld (fieldD w) (fieldA w) (fieldB w) sz ((fieldX w).extractLsb' 0 2))
  | 0x4C => (PlogForm.ofCode (fieldX w)).bind fun f => some (.plog (fieldD w) (fieldA w) (fieldB w) f)
  | 0x4D =>
    match (fieldX w).toNat with
    | 0 => some (.pmovPv (fieldD w) (fieldA w))
    | 1 => some (.pmovVp (fieldD w) (fieldA w))
    | 2 => some (.pmovPp (fieldD w) (fieldA w))
    | _ => none
  | 0x4E =>
    match (fieldX w).toNat with
    | 0 => some (.mmovSm (fieldD w) (fieldA w))
    | 1 => some (.mmovMs (fieldD w) (fieldA w))
    | 2 => some (.mmovMm (fieldD w) (fieldA w))
    | _ => none
  | 0x4F => (IdForm.ofCode (fieldX w)).bind fun f => some (.idr (fieldD w) f)
  | _ => none

/-- The instruction a word of an opcode 0x50 to 0x5F stands for, before its fields are checked. -/
def decodeMemory (op : Nat) (w : Word) : Option Instr :=
  match op with
  | 0x50 => (Size.ofCode ((fieldX w).extractLsb' 2 2)).bind fun sz => some (.ldG (fieldD w) (fieldA w) (fieldB w) sz ((fieldX w).extractLsb' 0 2))
  | 0x51 => (Size.ofCode ((fieldX w).extractLsb' 2 2)).bind fun sz => some (.stG (fieldD w) (fieldA w) (fieldB w) sz)
  | 0x52 => (Size.ofCode ((fieldX w).extractLsb' 2 2)).bind fun sz => some (.lds (fieldD w) (fieldA w) (fieldB w) sz ((fieldX w).extractLsb' 0 2))
  | 0x53 => (Size.ofCode ((fieldX w).extractLsb' 2 2)).bind fun sz => some (.sts (fieldD w) (fieldA w) (fieldB w) sz)
  | 0x54 => (AtomOp.ofCode ((fieldB w).extractLsb' 4 3)).bind fun op => (Scope.ofCode ((fieldB w).extractLsb' 2 2)).bind fun sc => (MemOrder.ofCode ((fieldB w).extractLsb' 0 2)).bind fun ord => some (.atom (fieldD w) (fieldA w) op sc ord (fieldX w))
  | 0x55 => (AtomOp.ofCode ((fieldB w).extractLsb' 4 3)).bind fun op => (Scope.ofCode ((fieldB w).extractLsb' 2 2)).bind fun sc => (MemOrder.ofCode ((fieldB w).extractLsb' 0 2)).bind fun ord => some (.atoms (fieldD w) (fieldA w) op sc ord (fieldX w))
  | 0x56 => (Size.ofCode ((fieldX w).extractLsb' 2 2)).bind fun sz => some (.ldnr (fieldD w) (fieldA w) (fieldB w) sz ((fieldX w).extractLsb' 0 2))
  | 0x57 => some (.pgreq (fieldA w))
  | 0x58 => (Scope.ofCode ((fieldX w).extractLsb' 2 2)).bind fun sc => (MemOrder.ofCode ((fieldX w).extractLsb' 0 2)).bind fun ord => some (.fence sc ord)
  | 0x59 => (Scope.ofCode ((fieldX w).extractLsb' 2 2)).bind fun sc => (MemOrder.ofCode ((fieldX w).extractLsb' 0 2)).bind fun ord => some (.copy (fieldA w) sc ord)
  | 0x5A => (Scope.ofCode ((fieldX w).extractLsb' 2 2)).bind fun sc => (MemOrder.ofCode ((fieldX w).extractLsb' 0 2)).bind fun ord => some (.waitge (fieldA w) (fieldB w) sc ord)
  | 0x5B => (Scope.ofCode ((fieldX w).extractLsb' 2 2)).bind fun sc => (MemOrder.ofCode ((fieldX w).extractLsb' 0 2)).bind fun ord => some (.ctradd (fieldA w) (fieldB w) sc ord)
  | 0x5C => some (.pref (fieldA w) (fieldB w) ((fieldX w).getLsbD 2))
  | 0x5D => (Scope.ofCode ((fieldB w).extractLsb' 2 2)).bind fun sc => (MemOrder.ofCode ((fieldB w).extractLsb' 0 2)).bind fun ord => some (.cas (fieldD w) (fieldA w) sc ord (fieldX w))
  | _ => none

/-- The instruction a word of an opcode 0x60 to 0x6B stands for, before its fields are checked. -/
def decodeTransaction (op : Nat) (w : Word) : Option Instr :=
  match op with
  | 0x60 =>
    match (fieldX w).toNat with
    | 0 => some .txb
    | 1 => some .txbIrr
    | _ => none
  | 0x61 => some (.txe (fieldD w))
  | 0x62 => some (.txa (fieldImm18 w))
  | 0x63 => some (.txq (fieldD w))
  | 0x64 => some (.rsvi (fieldD w))
  | 0x65 => some (.rsvu (fieldD w) (fieldA w) (fieldB w))
  | 0x66 => some (.rsvm (fieldD w) (fieldA w) (fieldB w) (fieldX w))
  | 0x67 => some (.rsvf (fieldD w) (fieldA w))
  | 0x68 => (Space.ofCode ((fieldX w).extractLsb' 2 2)).bind fun sp => some (.rsvld (fieldD w) (fieldA w) (fieldB w) sp ((fieldX w).extractLsb' 0 2))
  | 0x69 => (Space.ofCode ((fieldX w).extractLsb' 2 2)).bind fun sp => some (.rsvst (fieldD w) (fieldA w) (fieldB w) sp)
  | 0x6A =>
    match ((fieldX w).extractLsb' 2 2).toNat with
    | 0 => (RsvField.ofCode ((fieldX w).extractLsb' 0 2)).bind fun f => some (.rsvxGet (fieldD w) (fieldA w) f)
    | 1 => (RsvField.ofCode ((fieldX w).extractLsb' 0 2)).bind fun f => some (.rsvxSet (fieldD w) (fieldA w) f)
    | _ => none
  | 0x6B =>
    match (fieldX w).toNat with
    | 0 => some (.drawSeed (fieldA w) (fieldB w))
    | 1 => some (.drawKey (fieldD w))
    | 2 => some (.drawCtr (fieldD w))
    | 3 => some (.drawInt (fieldD w))
    | 4 => some (.drawF32 (fieldD w))
    | 5 => some (.drawSetc (fieldA w))
    | _ => none
  | _ => none

/-- The instruction a word of an opcode 0x6C to 0x73 stands for, before its fields are checked. -/
def decodeMatrix (op : Nat) (w : Word) : Option Instr :=
  match op with
  | 0x6C => some (.setfmt (fieldImm18 w))
  | 0x6D =>
    match (fieldX w).toNat with
    | 0 => some (.mmavVv (fieldD w) (fieldA w) (fieldB w))
    | 1 => some (.mmavVt (fieldD w) (fieldA w) (fieldB w))
    | _ => none
  | 0x6E => some (.mloop (fieldD w) (fieldA w) (fieldB w) (fieldX w))
  | 0x6F => some (.mwait (fieldD w))
  | 0x70 => some .mrdy
  | 0x71 =>
    match (fieldX w).toNat with
    | 0 => some (.tmovDef (fieldD w) (fieldA w))
    | 1 => some (.tmovRd (fieldD w) (fieldA w) (fieldB w))
    | 2 => some (.tmovWr (fieldD w) (fieldA w) (fieldB w))
    | 3 => some (.tmovRel (fieldD w))
    | _ => none
  | 0x72 =>
    match (fieldX w).toNat with
    | 0 => some (.amovRd (fieldD w) (fieldA w) (fieldB w))
    | 1 => some (.amovWr (fieldD w) (fieldA w) (fieldB w))
    | 2 => some (.amovZero (fieldD w))
    | 3 => some (.amovTile (fieldD w) (fieldA w))
    | _ => none
  | 0x73 => some (.tstat (fieldD w) (fieldA w))
  | _ => none

/-- The instruction a word of an opcode 0x74 to 0x7F stands for, before its fields are checked. -/
def decodeSystem (op : Nat) (w : Word) : Option Instr :=
  match op with
  | 0x74 => some (.trace (fieldD w) (fieldA w) (fieldB w))
  | 0x75 => some (.trwait (fieldD w) (fieldA w))
  | 0x76 =>
    match (fieldX w).toNat with
    | 0 => some (.trresAcc (fieldA w) (fieldB w))
    | 1 => some (.trresIgn (fieldA w))
    | 2 => some (.trresTerm (fieldA w))
    | 3 => some (.trresRetry (fieldA w))
    | _ => none
  | 0x77 => some (.trcan (fieldA w))
  | 0x78 => some (.trrec (fieldD w) (fieldA w) ((fieldX w).extractLsb' 0 2))
  | 0x79 => some (.asupd (fieldA w))
  | 0x7A => some (.texf (fieldD w) (fieldA w) (fieldB w) (fieldX w))
  | 0x7B => some (.hgrid (fieldD w) (fieldA w) (fieldB w) (fieldX w))
  | 0x7C => some (.mfs (fieldD w) (fieldImm18 w))
  | 0x7D => some (.mts (fieldD w) (fieldImm18 w))
  | 0x7E =>
    match ((fieldImm18 w).extractLsb' 16 2).toNat with
    | 0 => some (.trap ((fieldImm18 w).extractLsb' 0 16))
    | 1 => some (.trapBrk ((fieldImm18 w).extractLsb' 0 16))
    | _ => none
  | 0x7F => some .eret
  | _ => none

/-- The instruction a word's opcode and codes name, before its fields are checked. -/
def candidate (w : Word) : Option Instr :=
  let op := (fieldOp w).toNat
  if op < 0x10 then decodeControl op w
  else if op < 0x28 then decodeInteger op w
  else if op < 0x40 then decodeFloat op w
  else if op < 0x50 then decodeUniform op w
  else if op < 0x60 then decodeMemory op w
  else if op < 0x6C then decodeTransaction op w
  else if op < 0x74 then decodeMatrix op w
  else decodeSystem op w

/-- Accepts a candidate whose fields are of their kinds and whose other bits are the ones the map gives (R99). -/
def accept (w : Word) (i : Instr) : Except DecodeError Instr :=
  if i.wf = true then
    if encode i = some w then .ok i else .error .reserved
  else .error .operand

/-- Reads a word: the one instruction it stands for, or why it is none (R68, R99). -/
def decode (w : Word) : Except DecodeError Instr :=
  match candidate w with
  | none => .error .code
  | some i => accept w i

/-- The little-endian word that the first four bytes of a list hold (R3, R68). -/
def wordOfBytes : List Byte → Option Word
  | b0 :: b1 :: b2 :: b3 :: _ => some (b3 ++ b2 ++ b1 ++ b0)
  | _ => none

/-- Reads an instruction from bytes in memory order. -/
def decodeBytes (l : List Byte) : Option Instr :=
  match wordOfBytes l with
  | none => none
  | some w =>
    match decode w with
    | .ok i => some i
    | .error _ => none

/-- The bytes of a word in memory order (R3). -/
def bytesOfWord (w : Word) : List Byte :=
  [w.extractLsb' 0 8, w.extractLsb' 8 8, w.extractLsb' 16 8, w.extractLsb' 24 8]

/-- What the decoder reads from an opcode-table word: its bytes are laid out as memory holds them. -/
def decodeTableWord (nbits w : Nat) : Option Instr :=
  if nbits ≤ 32 then decodeBytes (bytesOfWord (BitVec.ofNat 32 w)) else none

end Sys2Proof
end

