-- ==== Sys2Proof/Machine/Cells.lean ====
section
/-! DEFINITION. Sparse data by key: a list of key and value pairs, keys strictly rising. Register files, memories,
tables of threads, jets and basins are held so. A default value is never listed when the map is written by `set`. -/

namespace Sys2Proof.Machine

/-- A finite map from numbers, as a list of pairs with strictly rising keys. -/
abbrev Cells (β : Type) := List (Nat × β)

variable {β : Type}

/-- The entry at a key. -/
def Cells.get? : Cells β → Nat → Option β
  | [], _ => none
  | (k', v) :: rest, k => if k' = k then some v else if k < k' then none else Cells.get? rest k

/-- The entry at a key, or a default. -/
def Cells.get (d : β) (c : Cells β) (k : Nat) : β := (Cells.get? c k).getD d

/-- Lists an entry, in its place. -/
def Cells.put : Cells β → Nat → β → Cells β
  | [], k, v => [(k, v)]
  | (k', v') :: rest, k, v =>
    if k' = k then (k, v) :: rest
    else if k < k' then (k, v) :: (k', v') :: rest
    else (k', v') :: Cells.put rest k v

/-- Removes an entry. -/
def Cells.del : Cells β → Nat → Cells β
  | [], _ => []
  | (k', v') :: rest, k =>
    if k' = k then rest
    else if k < k' then (k', v') :: rest
    else (k', v') :: Cells.del rest k

/-- Writes a value in the canonical form: the default value is not listed. -/
def Cells.set [DecidableEq β] (d : β) (c : Cells β) (k : Nat) (v : β) : Cells β :=
  if v = d then Cells.del c k else Cells.put c k v

/-- Changes the entry at a key, where there is one. -/
def Cells.modify (c : Cells β) (k : Nat) (f : β → β) : Cells β :=
  match Cells.get? c k with
  | none => c
  | some v => Cells.put c k (f v)

/-- Changes every entry by its key. -/
def Cells.mapKeys (c : Cells β) (f : Nat → β → β) : Cells β :=
  match c with
  | [] => []
  | (k, v) :: rest => (k, f k v) :: Cells.mapKeys rest f

/-- Every key is above the bound and the keys rise strictly. -/
def Cells.sortedFrom : Option Nat → Cells β → Bool
  | _, [] => true
  | lo, (k, _) :: rest =>
    (match lo with
      | none => true
      | some b => decide (b < k)) && Cells.sortedFrom (some k) rest

/-- The canonical form: keys rise strictly and no listed value is the default. -/
def Cells.wf [DecidableEq β] (d : β) (c : Cells β) : Bool :=
  Cells.sortedFrom none c && c.all (fun e => decide (e.2 ≠ d))

/-- Keys of a set held as a sorted list of numbers: insertion. -/
def insertKey : List Nat → Nat → List Nat
  | [], k => [k]
  | k' :: rest, k => if k = k' then k' :: rest else if k < k' then k :: k' :: rest else k' :: insertKey rest k

end Sys2Proof.Machine
end

