-- ==== Sys2Proof/Machine/State.lean ====
section
/-! DEFINITION. The state of one Thizu N9 module as plain data, and the state right after power-on reset. Every register,
table, queue and counter that a rule of the spec gives the machine is a field; chapter numbers stand in the docstrings. -/

namespace Sys2Proof.Machine

/-- Physical memory: bytes by 46-bit physical address (R16), in the canonical form of `Cells`. An unlisted byte reads as
zero (log 1). -/
abbrev Memory := Cells Byte

/-- The canonical form of memory: addresses strictly rising, no listed byte equal to what an unlisted address reads as. -/
def Memory.wf (m : Memory) : Bool := Cells.wf (0 : Byte) m

/-! ### Threads -/

/-- A register that a long-class instruction writes (R78, R80). -/
inductive Dest where
  /-- Allocation word `w` of the operation's lane (R73). -/
  | word (w : Nat)
  /-- A predicate of the operation's lane. -/
  | pred (p : Nat)
  /-- A uniform register of the jet. -/
  | ureg (r : Nat)
  deriving DecidableEq, Repr

/-- A request in the irrevocable queue (R269), or the lane that holds the token. -/
structure TokenReq where
  basin : Nat
  jet : Nat
  lane : Nat
  deriving DecidableEq, Repr

/-- What a short wait waits for that is no backpressure (R55): while it lasts, its group is not ready (R54). -/
inductive Until where
  /-- Tiles that a copy is filling or draining (R295). -/
  | tiles (ts : List Nat)
  /-- Every jet of the basin in the context-save handler (R388). -/
  | saving
  /-- Earlier scratchpad accesses of the jet, and acquires (R178, R183). -/
  | scratch
  /-- Earlier acquires, and the stores that earlier releases cover, up to the home place or no further than the store point
(R183, R228, R240, R241). -/
  | ordered (home : Bool)
  /-- Earlier reads of the lanes (R233, R247). -/
  | reads
  /-- Earlier stores to some words, on their way or in the store queue (R226, R227). -/
  | stores (ws : List Nat)
  /-- Earlier accesses of the lanes to some words (R226). -/
  | words (ws : List Nat)
  /-- Uniform registers whose new values lanes have received already, while they are still to land (R79). -/
  | uniform (rs : List Nat)
  /-- The lines of the irrevocable lane that holds the token (R268). -/
  | lines (holder : Option TokenReq)
  /-- The accesses of the irrevocable lane that publishes, and the release of its `TXE` (R231, R270). -/
  | published (release : Bool)
  /-- Copies that name the scratchpad or tiles of the basin (R209). -/
  | copies
  /-- Earlier requests of the shader die to a node, from before a tick (R23). -/
  | mesh (node mark : Nat)
  /-- A `TRRES` answer of the thread that has not acted yet (R335). -/
  | answer (ticket : Word)
  deriving DecidableEq, Repr

/-- What a thread waits for (Table 3.5 and the short waits of the chapters). -/
inductive Wait where
  | none
  /-- Operands that are destinations of pending long writes past their shadows (R77, R78). Long. -/
  | operand (d : List Dest)
  /-- Every pending long write of the thread, and every uniform one of the jet (R81). Short. -/
  | landed
  /-- The jet's store queue, and its unacknowledged stores when `acked` (R200, R236). Short. -/
  | drain (acked : Bool)
  /-- The operations on an accumulator that entered before the tick at which an `MWAIT` was accepted (R316). Long. -/
  | acc (a : Nat) (mark : Nat)
  /-- The report of the ray named by a ticket, and the window base that mapped the registers of its `TRWAIT` (R73, R332).
  Long. -/
  | ray (ticket : Word) (wb : Nat)
  /-- The counter of `WAITGE` (R210). Long. -/
  | counter (pa : Nat) (va : Dword) (target : Dword) (acquire : Bool) (sc : Scope)
  /-- A named barrier's phase (R155). Long. -/
  | bar
  /-- A mask's completion (R150). Long. -/
  | mask (m : Nat)
  /-- The other threads of the basin at `REORD` (R162). Short. -/
  | reord (key : Nat)
  /-- A transaction slot (R250). Long. -/
  | slot
  /-- The irrevocable token (R269). Long. -/
  | token
  /-- The commit of the lane's logs (R260), its outcome going to a predicate; the tick of its `TXE`, which tells the lanes of
  one issue (R261). Short. -/
  | commit (p : Nat) (tag : Nat)
  /-- The outcomes of the other lanes of its `TXE`, its own being written (R259). Short. -/
  | written
  /-- The resolution of a replayable fault (R194). Long. -/
  | fault
  /-- The jet's other threads at the end of the context-save handler (R393). Short. -/
  | saveExit
  /-- Backpressure: the instruction is offered again at the jet's next turn (R24). Short. -/
  | held
  /-- Another short wait, under which the group is not ready (R54, R55). -/
  | short (u : Until)
  deriving DecidableEq, Repr

/-- One word of a write log: its bytes and the mask of those written (Table 15.1). -/
structure LogWord where
  val : Word
  mask : BitVec 4
  deriving DecidableEq, Repr

/-- The transactional state of a thread (Table 15.1). The logs are keyed by physical word address. -/
structure Tx where
  depth : Nat := 0
  irr : Bool := false
  /-- Address of the outermost `TXB`. -/
  txbpc : Dword := 0
  /-- Skip count (R258). -/
  skip : Nat := 0
  /-- Words passed while skipping (R258). -/
  passed : Nat := 0
  rlog : Cells Word := []
  wlog : Cells LogWord := []
  /-- The pages through which the words of its logs were translated, and the tick of the first access to each (R191). -/
  pages : Cells Nat := []
  /-- Core cycle at which the outermost ordinary `TXB` took effect; none while the timer is stopped (R267). -/
  since : Option Nat := none
  /-- TXSTAT (Table 15.4). -/
  stat : Word := 0
  deriving DecidableEq, Repr

/-- One thread: a lane of a jet. -/
structure Thread where
  pc : Dword := 0
  /-- Allocation words 0 to A − 1 (R72); an unlisted word holds zero. -/
  words : Cells Word := []
  /-- Predicates: bit `k` is p`k`; p0 reads true (R76). -/
  preds : BitVec 16 := 1
  /-- Draw state: key and counter (R366). -/
  drawK : Word := 0
  drawC : Word := 0
  /-- Guard bit and guard residue (R85, R88). -/
  guardBit : Bool := false
  guardLeft : Nat := 0
  wait : Wait := .none
  tx : Tx := {}
  /-- Work identifier at launch (R34). -/
  wid0 : Dword := 0
  /-- Barrier record: BSTATE 0 not at a barrier, 1 waiting, 2 released and latched (Table 25.4), the barrier, the phase. -/
  bstate : Nat := 0
  barno : BitVec 4 := 0
  arrphase : Word := 0
  /-- sys.epc and sys.epch (Table 25.2). -/
  epc : Dword := 0
  /-- sys.grd: bit 4 guard bit, bits 3:0 residue. -/
  grd : BitVec 5 := 0
  /-- sys.tstate as a handler last wrote EXITED, SKIP and TXSTAT (Table 25.4), which take effect at `ERET` (R385). -/
  exitAtEret : Bool := false
  tsSkip : Nat := 0
  tsStat : BitVec 20 := 0
  /-- BSTATE, sys.barno and the arrphase recorded by BSTATE, where a handler has written them; none before (R385). -/
  tsBstate : Option Nat := none
  tsBarno : Option (BitVec 4) := none
  tsPhase : Option Word := none
  /-- sys.k0 to sys.k3: scratch words for handlers. -/
  k0 : Word := 0
  k1 : Word := 0
  k2 : Word := 0
  k3 : Word := 0
  deriving DecidableEq, Repr

/-! ### Long-class operations and stores -/

/-- What a pending operation does when it is performed. -/
inductive LongKind where
  /-- A global load through the L1 (R175, R177): bytes per element, one result word per aligned word read. -/
  | load (size : Nat)
  /-- `LDNR` (R198): as a load, or, when the walk gave NOTVALID, zero and a false predicate. -/
  | ldnr (size : Nat) (resident : Bool)
  /-- A reservoir load from global memory: four words (R373). -/
  | reservoir
  /-- A scratchpad access, by the bytes that each lane reads; or words already read, that only have to land (transactional
  reads and `ATOMS`). -/
  | ready (size : Nat)
  /-- `ATOM` or `ATOMS`: operation and operand (R180). -/
  | atom (op : AtomOp) (v : Word)
  /-- `CAS`: expected and new values (R182). -/
  | cas (expected new : Word)
  /-- `CTRADD`: a 64-bit increment (R211). -/
  | ctradd (inc : Dword)
  /-- `GROW`: the requested increment (R64). -/
  | grow (inc : Word)
  /-- `TEXF`: the eight descriptor words and the three coordinates (R279). -/
  | texf (desc : List Word) (u v lod : Word)
  /-- One level of `HGRID`: the descriptor words, the level and the position (R283). -/
  | hgrid (desc : List Word) (level : Nat) (x y z : Word)
  deriving DecidableEq, Repr

/-- One pending operation of one lane (lane 32 stands for the jet's uniform pipe), in program order within its jet. -/
structure LongOp where
  lane : Nat
  /-- The lanes it stands for: its own, or the executing set of a uniform instruction. -/
  lanes : Lanes
  /-- The machine's tick at issue: lanes of one instruction share it. -/
  tag : Nat
  /-- Instruction words left in the shadow (R78). -/
  shadow : Nat
  /-- Result word index and destination, of the results not yet landed or discarded. -/
  dests : List (Nat × Dest)
  kind : LongKind
  /-- Effective address, and its translation once it has one. -/
  va : Dword := 0
  pa : Option Nat := none
  /-- Words already read, by word address, of an operation of several words whose words are read one by one (R224, R374);
  none for a word that met poison (R218). -/
  got : Cells (Option Word) := []
  /-- The result words once the operation has been performed. -/
  val : Option (List Word) := none
  /-- Words of an `RSVST.s` still to be written to the scratchpad, by offset (R374). -/
  scr : Cells Word := []
  /-- Lanes that have read the new value of a uniform destination by `BCAST`, by register (R79, R139). -/
  seen : Cells Lanes := []
  scope : Scope := .bsn
  release : Bool := false
  acquire : Bool := false
  /-- Translated in system mode (R421). -/
  sys : Bool := false
  /-- The access is held for the irrevocable lane that issued it (R270). -/
  irr : Bool := false
  /-- Cycle of its issue, urgency mark and age promotion (R25). -/
  since : Nat := 0
  urgent : Bool := false
  promoted : Bool := false
  /-- Address of the instruction, and the guard state before it, for an unresolvable fault (R195). -/
  origin : Dword := 0
  grd : BitVec 5 := 0
  deriving DecidableEq, Repr

/-- A byte of a store and the lanes that wrote it. -/
structure StoreByte where
  val : Byte
  lanes : Lanes
  deriving DecidableEq, Repr

/-- One coalesced store request of a jet: the bytes of one 128-byte line (R190, R227). -/
structure StoreReq where
  tag : Nat
  /-- Virtual address of the line, and its physical address once translated. -/
  va : Dword
  pa : Option Nat
  /-- Offset in the line to byte. -/
  data : Cells StoreByte
  sys : Bool := false
  irr : Bool := false
  lanes : Lanes := 0
  origin : Dword := 0
  grd : BitVec 5 := 0
  deriving DecidableEq, Repr

/-- Where a write in flight stands (R221, R236). -/
inductive WriteStage where
  | sent | performed | dropped
  deriving DecidableEq, Repr

/-- A write between the store point and its acknowledgement (R236). -/
structure Write where
  core : Nat
  basin : Nat
  jet : Nat
  /-- Other jets that count it, and their lanes: those to which a `REORD` has moved threads that wrote it (R163, R236). -/
  also : List (Nat × Lanes) := []
  /-- The tick of the instruction that wrote it: the writes of one instruction to one line are one request (R190). -/
  tag : Nat := 0
  /-- The tick at which it left the store point (R23). -/
  sent : Nat := 0
  /-- The lanes that wrote it, and whether it belongs to the irrevocable transaction (R270). -/
  lanes : Lanes := 0
  irr : Bool := false
  /-- It is one event, as the 64-bit addition of a counter is (R224). -/
  single : Bool := false
  /-- Cycle at which it was sent, and its age promotion (R25). -/
  since : Nat := 0
  promoted : Bool := false
  /-- Address of the line. -/
  pa : Nat
  data : Cells Byte
  stage : WriteStage := .sent
  deriving DecidableEq, Repr

/-! ### Matrix operations -/

/-- What a matrix operation multiplies. -/
inductive MatKind where
  /-- `MMAV.vv`: fragments of A and B, 8 words for each of 32 lanes. -/
  | vv (a b : List (List Word))
  /-- `MMAV.vt`: fragment of A and the B tile, with the rows that it has at issue (R314). -/
  | vt (a : List (List Word)) (t rows : Nat)
  /-- `MLOOP`: tiles of A and B and the parameter block (Table 19.8). -/
  | loop (ta tb : Nat) (params : List Word)
  deriving DecidableEq, Repr

/-- A matrix operation in flight (R313). -/
structure MatOp where
  /-- The machine's tick at its issue: its order of entry. -/
  tag : Nat
  jet : Nat
  acc : Nat
  /-- Format mode at issue (Table 19.3). -/
  mode : BitVec 18
  kind : MatKind
  /-- Operand registers: lane and allocation word. -/
  regs : List (Nat × Nat) := []
  /-- An operand or the accumulator was written or read in its interval (R239). -/
  touched : Bool := false
  /-- An `MLOOP` issued after a write to an operand with no `MRDY` between (R239). -/
  stale : Bool := false
  deriving DecidableEq, Repr

/-- A tile or accumulator written by a jet since its last `MRDY` (R239, R315). -/
inductive Dirty where
  | tile (t : Nat)
  | acc (a : Nat)
  deriving DecidableEq, Repr

/-! ### Traps -/

/-- Trap causes (Table 25.1). -/
inductive Cause where
  | illegal | regrange | convdead | barmismatch | poison | noframe | pagefault | preempt | trap | brk
  deriving DecidableEq, Repr

/-- A resume address and guard state that a cause gives a lane (Table 25.1, R89). -/
structure Resume where
  lane : Nat
  epc : Dword
  grd : BitVec 5
  deriving DecidableEq, Repr

/-- A pending asynchronous cause (R378, R379). -/
structure Pending where
  cause : Cause
  lanes : Lanes
  resume : List Resume := []
  va : Dword := 0
  kind : BitVec 4 := 0
  /-- The barrier of a BARMISMATCH. -/
  bar : Nat := 0
  deriving DecidableEq, Repr

/-- The kind of handler a jet runs (R377, R393, R394). -/
inductive Handler where
  | none | trap | save | restore
  deriving DecidableEq, Repr

/-- States of a resident jet (Table 3.6), with the halt of R382. -/
inductive Run where
  | pending | active | blocked | saved | exited | halted
  deriving DecidableEq, Repr

/-! ### Jets and basins -/

/-- One jet. Its live threads are the listed lanes. -/
structure Jet where
  threads : Cells Thread := []
  /-- s0 to s127. -/
  sregs : Cells Word := []
  /-- m0 to m11 (R148). -/
  masks : Cells Lanes := []
  /-- Window base (R73). -/
  wb : Nat := 32
  /-- Format mode (Table 19.3). -/
  fmode : BitVec 18 := 0
  /-- System mode (R377). -/
  sys : Bool := false
  handler : Handler := .none
  run : Run := .pending
  /-- Slot on the core, 0 to 1,023 (R53); the spout is the slot mod 16. -/
  slot : Nat := 0
  /-- Cycle at which the jet entered PENDING or the active set, and its position there (R57, R66). -/
  since : Nat := 0
  position : Nat := 0
  /-- Last cycle at which it was PENDING and not ready (R57). -/
  readyAt : Nat := 0
  /-- Lowest lane of the group that issued last, and its issues in a row (R59). -/
  lastLane : Nat := 31
  inRow : Nat := 0
  storeQ : List StoreReq := []
  /-- Count of unacknowledged writes (R236). -/
  unacked : Nat := 0
  longs : List LongOp := []
  causes : List Pending := []
  /-- sys.cause, sys.lanemask, sys.faultva, sys.faultkind (Table 25.2). -/
  cause : Word := 0
  lanemask : Lanes := 0
  faultva : Dword := 0
  faultkind : BitVec 4 := 0
  /-- sys.jsave (R395). -/
  jsave : Dword := 0
  /-- The jet holds one of its core's eight transaction slots, and the lanes whose `TXB` waited for it and has still to execute
  (R250). -/
  slotHeld : Bool := false
  slotFor : Lanes := 0
  dirty : List Dirty := []
  deriving DecidableEq, Repr

/-- A named barrier (Table 9.3). -/
structure Barrier where
  phase : Word := 0
  count : Nat := 0
  arrived : Nat := 0
  err : Bool := false
  deriving DecidableEq, Repr

/-- Tile states (Table 19.5); an EMPTY tile is not listed. -/
inductive TileState where
  | filling | ready | draining
  deriving DecidableEq, Repr

/-- A defined tile: its handle (Table 19.4) and state. -/
structure Tile where
  handle : Dword
  state : TileState
  deriving DecidableEq, Repr

/-- What a launch allots to each basin (Table 3.1). -/
structure Shape where
  w1 : Nat
  jets : Nat
  vgran : Nat
  rsvn : Nat
  accn : Nat
  scr : Nat
  tile : Nat
  deriving DecidableEq, Repr

/-- A resident basin. -/
structure Basin where
  /-- Launch number, context, priority class and basin index. -/
  launch : Nat
  ctx : Nat
  cls : Nat
  index : Nat
  core : Nat
  shape : Shape
  jets : Cells Jet := []
  /-- Scratchpad bytes and poisoned words (R171, R217). -/
  scratch : Cells Byte := []
  scratchPoison : List Nat := []
  /-- Tile region bytes, keyed 1,024 × row + column, and poisoned words (R294). -/
  region : Cells Byte := []
  regionPoison : List Nat := []
  tiles : Cells Tile := []
  /-- Accumulator elements, keyed 4,096 × accumulator + 64 × row + column, and poisoned elements (R317). -/
  accs : Cells Word := []
  accPoison : List Nat := []
  barriers : Cells Barrier := []
  matQ : List MatOp := []
  /-- Operations that have completed, and whose completion no `MWAIT` has reported yet (R239, R316). -/
  matDone : List MatOp := []
  /-- sys.bsave (R395): zero where no area is held. -/
  bsave : Dword := 0
  /-- A pre-emption is pending or under way (R391). -/
  preempt : Bool := false
  /-- Slots that a restored basin holds for the jets that had exited before it was saved (R394). -/
  spare : List Nat := []
  /-- The basin has exited or been saved, and holds nothing on its core: what is left are writes to be acknowledged and
  counter additions still to be performed (R44, R56, R392). -/
  gone : Bool := false
  deriving DecidableEq, Repr

/-- A pre-empted basin that waits to be restored (R51, R394): which jets were SAVED. -/
structure SavedBasin where
  index : Nat
  jets : List Nat
  bsave : Dword
  /-- Identifier at launch of each saved lane: 32 × jet + lane to identifier. -/
  wids : Cells Dword := []
  /-- Causes that stayed pending through the context-save handler, by jet (R379). -/
  causes : Cells (List Pending) := []
  /-- Time at which it was saved, in picoseconds since module start (R49). -/
  since : Nat := 0
  deriving DecidableEq, Repr

/-! ### Launches and queues -/

/-- Where an accepted launch stands (Table 3.3). -/
inductive LaunchStage where
  /-- Waits on its counter, then on its staging; holds back its queue (R41). -/
  | counter | staging
  /-- Handed to dispatch; no basin placed yet, or running. -/
  | dispatch | running
  deriving DecidableEq, Repr

/-- An accepted launch (Table 3.1). -/
structure Launch where
  ctx : Nat
  queue : Nat
  cls : Nat
  /-- Physical address of its packet, where STATUS is written. -/
  packet : Nat
  stage : LaunchStage
  shape : Shape
  /-- Widths w2 to w5 (R32). -/
  widths : List Nat
  entry : Dword
  args : Dword
  const : List Word
  /-- Basin count, raised by `GROW`, and its ceiling (R64). -/
  count : Nat
  ceiling : Nat
  /-- BASINS: indices from here on were granted by `GROW` (R65). -/
  initial : Nat
  /-- Tick of its first placement, the start of the launch (R244). -/
  began : Nat := 0
  /-- Next basin index to place, and saved basins to restore first (R47, R51). -/
  next : Nat
  saved : List SavedBasin
  dieMask : Option Nat
  stackHint : Option Nat
  cosched : Bool
  signal : Option (Dword × Dword)
  wait : Option (Dword × Dword)
  stagingList : Option (Dword × Nat)
  /-- Page numbers pinned by its staging, and those staging has passed over (R213). -/
  pinned : List Nat
  passed : List Nat
  /-- Entries of the staging list that are done, and what is left of the entry in hand: its next page, the number of pages, and
  PIN (R213). -/
  staged : Nat := 0
  stagedPages : Option (Nat × Nat × Bool) := none
  lastDie : Nat
  /-- Time since which its next basin index has waited (R49), in picoseconds since module start, and by basin index the die
  reserved for a basin. -/
  waitingSince : Nat
  reserved : Cells Nat
  /-- `ENDLAUNCH` has stopped it, and only its status has still to be written (R411). -/
  ended : Bool := false
  /-- Order in which launches were accepted, for round-robin service (R49). -/
  served : Nat
  deriving DecidableEq, Repr

/-- A copy or update packet that waits on its counter at the head of its queue (R212, R356). -/
structure HeadPacket where
  packet : Nat
  update : Bool
  wait : Dword × Dword
  desc : List Word
  deriving DecidableEq, Repr

/-- What the controller keeps for a queue (R409, R416). -/
structure Queue where
  head : Nat := 0
  /-- Tail word last read. -/
  tail : Nat := 0
  /-- The launch, or the copy or update packet, that holds back the queue (R41). -/
  launch : Option Nat := none
  packet : Option HeadPacket := none
  /-- Where the counter waited on lies, translated when the wait began (R45). -/
  waitPa : Option Nat := none
  /-- Firmware that reads its packets: 0 the old image, 1 the new one of a pending update (R416). -/
  firmware : Nat := 0
  deriving DecidableEq, Repr

/-! ### Faults, copies, updates -/

/-- Who waits for a replayable fault (R194, R195, R208, R355). -/
inductive FaultOwner where
  /-- Pending operations, or stores, of a jet whose lines lie in the page. -/
  | access (b j : Nat)
  /-- An instruction to be issued again: the fetch, or the counter of `WAITGE`. -/
  | group (b j : Nat) (lanes : Lanes) (fetch : Bool)
  | copy (id : Nat)
  | queue (c q : Nat)
  | launch (n : Nat)
  /-- A page of a context asked for by `PGREQ` (R199). -/
  | page (core c vpn : Nat) (sys : Bool)
  | sue
  deriving DecidableEq, Repr

/-- A page asked for by `PGREQ`: core, context, virtual page number, and the issuing mode (R199, R421). -/
structure PageReq where
  core : Nat
  ctx : Nat
  vpn : Nat
  sys : Bool
  deriving DecidableEq, Repr

/-- A replayable fault that waits (R194). -/
structure Fault0 where
  owner : FaultOwner
  ctx : Nat
  va : Dword
  kind : BitVec 4
  /-- Found at a level-0 entry (R407, POLICY 00). -/
  level0 : Bool
  /-- The entry has been written to the fault ring (POLICY 01), and the host's answer: some true RESOLVE, some false REFUSE. -/
  posted : Bool := false
  answer : Option Bool := none
  deriving DecidableEq, Repr

/-- A copy that has not completed (R201 to R212). -/
structure Copy where
  id : Nat
  core : Option Nat
  ctx : Nat
  sys : Bool
  /-- Issuing basin and jet; none for a copy packet. -/
  owner : Option (Nat × Nat)
  /-- Descriptor words 0 to 7 (Table 11.7). -/
  desc : List Word
  /-- With `.rel`: the stores of the jet still to be acknowledged before the first read. -/
  release : Bool
  /-- Tick of its issue, and its threads, by jet: the reads before it in program order come first where it releases (R225, R233,
  R238). -/
  tag : Nat := 0
  threads : List (Nat × Lanes) := []
  /-- Once a `REORD` has moved the threads: the writes that its release covers (R163, R231). -/
  covers : Option (List (Nat × Nat × Nat × Bool)) := none
  /-- Cycle of its issue, and its age promotion (R25). -/
  since : Nat := 0
  promoted : Bool := false
  /-- Issue time plus SLACK, in picoseconds since the module start (R205). -/
  deadline : Nat
  /-- Requests already performed. -/
  done : List Nat := []
  /-- Packet whose STATUS follows the copy. -/
  packet : Option Nat := none
  /-- A translation fault waits; a row, or the counter, proved unreachable. -/
  faulted : Bool := false
  failed : Bool := false
  lost : Bool := false
  /-- Its tiles have returned to READY (R295). -/
  tilesBack : Bool := false
  deriving DecidableEq, Repr

/-- A node that the structure update engine is writing (R350): its address, the bytes to come, the odd version already in
place, and the pieces still to be written, by address and length. -/
structure NodeWrite where
  node : Nat
  image : List Byte
  version : Word
  left : List (Nat × Nat)
  deriving DecidableEq, Repr

/-- An update queued on the structure update engine (R349, R356). -/
structure Update where
  ctx : Nat
  sys : Bool
  /-- Descriptor address, or the descriptor itself for a packet. -/
  source : Dword ⊕ List Word
  owner : Option (Nat × Nat)
  packet : Option Nat
  /-- Entries already written, those of both phases of a refit counted (R353). -/
  next : Nat := 0
  /-- A fault waits; the update has failed; its counter cannot be reached (R355). -/
  faulted : Bool := false
  failed : Bool := false
  lost : Bool := false
  /-- Tick of its issue, and its threads, by jet: the reads before it in program order come first (R233, R349). -/
  tag : Nat := 0
  threads : List (Nat × Lanes) := []
  /-- Once a `REORD` has moved the threads: the writes that its release covers (R163, R231). -/
  covers : Option (List (Nat × Nat × Nat × Bool)) := none
  /-- The node being written (R350). -/
  write : Option NodeWrite := none
  deriving DecidableEq, Repr

/-! ### Rays -/

/-- Ray states (Table 21.8). -/
inductive RayState where
  /-- Sent by `TRACE`, or moving to another stack. -/
  | travelling
  | queued | traversing | candidate | fault | done
  deriving DecidableEq, Repr

/-- An answer sent by `TRRES` (R333). -/
inductive Answer where
  | acc (t : Word) | ign | term | retry
  deriving DecidableEq, Repr

/-- The instance that a ray is inside: its identifier, shader-table base and flags, and the ray in its space (R336, R339). -/
structure RayInst where
  id : Nat
  base : Nat
  flags : Nat
  org : List Word
  dir : List Word
  deriving DecidableEq, Repr

/-- A node read in progress (R248, R352): its address, the version read first, and the words read so far. -/
structure NodeRead where
  va : Nat
  version : Word
  got : Cells Word := []
  deriving DecidableEq, Repr

/-- A box node that a ray has read whole (R337): the node, the second word of its treelet's record, the primitives still to be
tested, as leaf child and index, and the words read so far of the record of the next one. -/
structure Visit where
  node : Nat
  leaves : Nat
  todo : List (Nat × Nat)
  got : Cells Word := []
  deriving DecidableEq, Repr

/-- A ray: its directory entry and its record (Table 21.7, R328). -/
structure Ray where
  /-- Origin stack, directory entry and generation: the ticket. -/
  stack : Nat
  entry : Nat
  gen : Nat
  ctx : Nat
  launch : Nat
  basin : Nat
  sys : Bool
  core : Nat
  state : RayState := .travelling
  /-- Stack that holds the ray now, or to which it travels. -/
  place : Nat
  /-- Treelet under which it is queued, its order of arrival, and the picks it has waited (R344). -/
  treelet : Nat := 0
  arrival : Nat := 0
  picks : Nat := 0
  /-- Whether it lies in the cistern (R345), and the engine that has it (R344). -/
  cistern : Bool := false
  engine : Nat := 0
  org : List Word
  tmin : Word
  dir : List Word
  tmax : Word
  rflags : Word
  tag : Word
  tctx : Nat
  status : Nat := 0
  restart : Bool := false
  restarted : Bool := false
  cfg : Nat := 0
  node : Word := 0xFFFFFFFF
  bestT : Word := 0x7F800000
  bestPrim : Word := 0xFFFFFFFF
  bestIG : Word := 0xFFFFFFFF
  bary : Word := 0
  /-- Short stack, oldest first: node reference and T word. -/
  stk : List (Word × Word) := []
  /-- Shader-table index of the best hit, once a hit has been accepted (R342). -/
  bestIdx : Option Nat := none
  /-- The instance the ray is inside, as read for the visit in hand (R339). -/
  inst : Option RayInst := none
  /-- The node read in progress, and the box node in hand (R337, R352). -/
  read : Option NodeRead := none
  visit : Option Visit := none
  /-- The resume position last popped, not yet reached: leaf child and primitive (R337). -/
  resume : Option (Nat × Nat) := none
  /-- The answer or retry applied at the resume position, and whether the candidate is a triangle (R333, R338). -/
  pendingAns : Option Answer := none
  candTri : Bool := false
  /-- What a procedural candidate is accepted with: PRIMID, the instance ID and GEOM, and the shader-table index (R338). -/
  candPrim : Word := 0
  candIG : Word := 0
  candIdx : Nat := 0
  /-- Words 1 to 6 of the report (Table 21.10). -/
  report : List Word := []
  /-- Time since which its node has been read with an odd version (R352), in picoseconds since module start. -/
  oddSince : Option Nat := none
  deriving DecidableEq, Repr

/-- A `TRRES` answer on its way (R333). -/
structure AnswerMsg where
  ticket : Word
  ctx : Nat
  launch : Nat
  basin : Nat
  jet : Nat
  lane : Nat
  answer : Answer
  /-- The core that sent it (R23). -/
  core : Nat
  deriving DecidableEq, Repr

/-- A traversal context record (Table 21.1). -/
structure TravRecord where
  root : Word
  tcount : Nat
  ttab : Dword
  sbt : Dword
  sbtCount : Nat
  deriving DecidableEq, Repr

/-- A loaded traversal context: its two buffers and the current one (R354, R359). -/
structure TravCtx where
  buf0 : TravRecord
  buf1 : Option TravRecord
  current : Nat
  deriving DecidableEq, Repr

/-! ### Package -/

/-- A TLB entry: where it is held, its context, the virtual page and the leaf it came from (R191). -/
structure TlbEntry where
  /-- Core number, or 2,000 + stack for a base die, or 3,000 for the I/O die, or 4,000 + die for the second-level TLB of a
  shader die. -/
  place : Nat
  ctx : Nat
  /-- Virtual page number in units of the page size, and log2 of the size. -/
  vpn : Nat
  bits : Nat
  leaf : Dword
  deriving DecidableEq, Repr

/-- An error record (R404). -/
structure ErrorRec where
  seq : Nat
  cycle : Nat
  unit : Nat
  kind : Nat
  pa : Nat
  ctx : Nat
  deriving DecidableEq, Repr

/-- The irrevocable token: its holder, the lines it holds and the queue (R269, R270). -/
structure Token where
  holder : Option TokenReq := none
  lines : List Nat := []
  queue : List TokenReq := []
  deriving DecidableEq, Repr

/-- A journal record (R412, R420). -/
structure JournalRec where
  startno : Nat
  step : Nat
  path : Nat
  outcome : Nat
  time : Nat
  detail : Nat
  deriving DecidableEq, Repr

/-- The configuration record (R27): disabled cores, retired and narrowed channels keyed 32 × stack + channel, and the link
widths in lanes, by port, of the ports that do not have their full width. -/
structure ConfigRec where
  disabled : List Nat := []
  retired : List Nat := []
  narrowed : List Nat := []
  widths : Cells Nat := []
  /-- Lowest firmware version it admits (R416). -/
  minVersion : Nat := 0
  deriving DecidableEq, Repr

/-- The start parameter record (R405). -/
structure Params where
  lreq : Nat := 48
  cisterns : List Nat := []
  power : Nat := 3600
  lanes : Nat := 16
  devno : Nat := 0
  /-- Route of each device number: a peer port, where it has one. -/
  routes : Cells Nat := []
  deriving DecidableEq, Repr

/-- What flash keeps across starts. -/
structure Flash where
  config : ConfigRec := {}
  /-- The start parameter record last written (R405). -/
  params : Option (List Byte) := none
  journal : List JournalRec := []
  /-- The last start whose lasting choices CLEARJOURNAL has cleared, and the cores that step 8 suspects (R413, log 15). -/
  clearedAt : Nat := 0
  suspects : List Nat := []
  startno : Nat := 0
  /-- Versions of the two wellhead images, and the slot journaled active (R416). -/
  versions : List Nat := [1, 1]
  active : Nat := 0
  /-- Digests of the images that updates have written, by slot (R416). -/
  images : Cells (List Byte) := []
  /-- The slot that step 9 keeps from its alternate path (R413, R416, log 53). -/
  kept : Option Nat := none
  deriving DecidableEq, Repr

/-- An update of the firmware in progress (R416). -/
structure FwUpdate where
  version : Nat
  digest : List Byte
  deriving DecidableEq, Repr

/-- The wellhead controller and the module's start (chapters 03 and 27). -/
structure Wellhead where
  started : Bool := false
  /-- Parameters in force since this start (R405). -/
  params : Params := {}
  /-- Next launch number (R46). -/
  seq : Nat := 1
  queues : Cells Queue := []
  /-- Free page frames: pool 16 interleaved, pool s that of stack s (R195). -/
  frames : Cells (List Nat) := []
  /-- Last core used on each die (R48). -/
  lastCore : Cells Nat := []
  /-- Service counter for round-robin (R49). -/
  serve : Nat := 0
  /-- By priority class, the queue whose head packet was handed over last: 256 × context + queue (R62). -/
  turn : Cells Nat := []
  /-- Save-pool areas in use: context, address and size (R395). -/
  areas : List (Nat × Nat × Nat) := []
  /-- Next free slot counters of the fault rings (R407). -/
  rings : Cells Nat := []
  update : Option FwUpdate := none
  /-- The flash slot whose firmware is in force (R416). -/
  slot : Nat := 0
  /-- Peer ports and the host port (port 15) that are down (R403). -/
  down : List Nat := []
  /-- CRC failures in a row of each port (R400). -/
  crc : Cells Nat := []
  /-- Peer traffic to forward: destination device and bytes (R402). -/
  forward : List (Nat × Nat × Cells Byte) := []
  /-- Peer traffic sent on: port, address, bytes. -/
  sent : List (Nat × Nat × Cells Byte) := []
  /-- Start parameter record image and device block image measured into MEAS3 (R414). -/
  paramImage : List Byte := []
  blockImage : List Byte := []
  /-- Sideband mailbox bytes (R410). -/
  sideband : Cells Byte := []
  /-- Invalidations under way, by mailbox: the tick at which one began, and the pages of the entries that the TLBs dropped for it, by
  first page and number (R191). -/
  spans : Cells (Nat × List (Nat × Nat)) := []
  deriving DecidableEq, Repr

/-- A spout's memory: the position that issued last, and the cycle of the last admission (R57, R66). -/
structure Spout where
  position : Nat := 7
  admitted : Nat := 0
  deriving DecidableEq, Repr

/-- The instruction issue being executed: which basin, jet and PC group, and its executing set (R141). -/
structure Issue where
  basin : Nat := 0
  jet : Nat := 0
  /-- Lanes of the issuing PC group, and those active under the guard. -/
  group : Lanes := 0
  exec : Lanes := 0
  pc : Dword := 0
  /-- The word stands in a guard window (R86). -/
  window : Bool := false
  /-- The executing threads have issued the instruction already and their long wait at it is over (R73, R316, R332). -/
  resumed : Bool := false
  deriving DecidableEq, Repr

/-- An uncorrectable error in an on-die store (R417, Table 27.9), which comes from outside (log 3). -/
inductive Upset where
  /-- A scratchpad word of a basin. -/
  | scratchpad (basin word : Nat)
  /-- A word of a basin's tile region. -/
  | region (basin word : Nat)
  /-- An element of a basin's accumulators, by its key. -/
  | accumulator (basin key : Nat)
  /-- The parked-ray slot of a ray, by the ray's place in the list. -/
  | parkedRay (k : Nat)
  /-- A register of a jet. -/
  | register (basin jet : Nat)
  /-- A granule of HBM, whose next read finds the error (R217). -/
  | granule (g : Nat)
  /-- A word that a home slice holds (Table 27.9). -/
  | homeWord (pa : Nat)
  /-- A flit of the canal, or a transfer between dies, whose sixteen replays have failed (Table 27.9); a replay that succeeds only
  takes time. -/
  | flit
  deriving DecidableEq, Repr

/-- What comes to the module from outside beside the events of the table (log 3): accesses of the host and the peers (R245,
R268), peer traffic for other devices (R402), and errors of on-die stores. -/
inductive Foreign where
  /-- A read of `n` bytes. -/
  | read (pa n : Nat)
  /-- A write of bytes of one 128-byte line. -/
  | write (pa : Nat) (data : List Byte)
  /-- An atomic, a `CAS` or a counter addition of a peer (Table 11.3). -/
  | update (pa : Nat) (k : LongKind)
  /-- Traffic to forward: destination device, address and bytes. -/
  | traffic (dest addr : Nat) (data : Cells Byte)
  | upset (u : Upset)
  /-- The module is started again, as after a module reset (R398, R405, R412, log 6). -/
  | restart
  deriving DecidableEq, Repr

/-- The whole module. -/
structure State where
  /-- The issue being executed (the model's own). -/
  cur : Issue := {}
  /-- Counter of steps; index of free values (the model's own, log 5). -/
  tick : Nat := 0
  /-- Core cycles since module start: sys.cycle (R398). -/
  cycle : Nat := 0
  /-- Picoseconds since module start, and what the division by the core clock has left over (R14, R26, log 4). -/
  time : Nat := 0
  rest : Nat := 0
  /-- Outside events waiting to happen (the model's own, log 3). -/
  agenda : List Instr := []
  /-- Accesses from outside, peer traffic and errors of on-die stores waiting to happen (the model's own, log 3). -/
  foreign : List Foreign := []
  mem : Memory := []
  /-- Poisoned 32-byte granules, by granule number, and granules whose next read finds an uncorrectable error (R217). -/
  poison : List Nat := []
  latent : List Nat := []
  /-- Words overwritten while a launch is in the table: word number, the old word and the tick (R244). -/
  stale : List (Nat × Word × Nat) := []
  /-- L1 copies: core, then line number, then offset to byte (R177). -/
  l1 : Cells (Cells (Cells Byte)) := []
  tlb : List TlbEntry := []
  basins : Cells Basin := []
  nextBasin : Nat := 0
  launches : Cells Launch := []
  writes : List Write := []
  faults : List Fault0 := []
  /-- Pages asked for by `PGREQ` (R199). -/
  pageReqs : List PageReq := []
  copies : List Copy := []
  nextCopy : Nat := 0
  updates : List Update := []
  rays : List Ray := []
  /-- Generations of the ray directories, keyed 2^18 × stack + entry (R328). -/
  gens : Cells Nat := []
  answers : List AnswerMsg := []
  /-- Traversal contexts, keyed 256 × context + number (R319). -/
  travs : Cells TravCtx := []
  arrivals : Nat := 0
  token : Token := {}
  /-- Jets waiting for a transaction slot of a core, in order of their waits: core, basin, jet (R250). -/
  slotQ : List (Nat × Nat × Nat) := []
  /-- Spouts, keyed 16 × core + spout. -/
  spouts : Cells Spout := []
  wh : Wellhead := {}
  flash : Flash := {}
  /-- Bytes of the on-package control space by offset (R404). -/
  ctl : Cells Byte := []
  errors : List ErrorRec := []
  errorCount : Nat := 0
  deriving DecidableEq, Repr

/-- Reasons to stop with a fault. -/
inductive Fault where
  /-- The controller is told by the host to use, without translation, a physical address that no range of Table 1.4
  populates (BASE, TAILADDR, HEADADDR, FRING, a page-table root or a firmware image): the spec gives such an access no
  effect. Raised by the controller's untranslated accesses. Safe: the model stops where the hardware may go on. -/
  | unpopulated (pa : Nat)
  deriving DecidableEq, Repr

/-- Reasons to refuse an instruction. -/
inductive Refusal where
  /-- The instruction has no meaning in the model yet. Raised by the arms of `exec` only. Safe. -/
  | notModelled (mnemonic : String)
  deriving DecidableEq, Repr

/-- The module after power-on, before its start has run (R398, log 6). -/
def State.reset : State := {}

end Sys2Proof.Machine
end

