-- ==== Sys2Proof/Machine/Ops.lean ====
section
/-! DEFINITION. Named operations over the state: lanes, registers, pending long writes, the issue of an instruction (its
checks, interlock and retirement), taking a trap and returning from one. -/

namespace Sys2Proof.Machine

/-! ### Lanes, basins, jets and threads -/

/-- The lanes of a mask, ascending. -/
def lanesOf (m : Lanes) : List Nat := (List.range 32).filter fun l => m.getLsbD l

/-- The mask of one lane. -/
def laneBit (l : Nat) : Lanes := BitVec.twoPow 32 l

/-- The mask of a list of lanes. -/
def maskOf (l : List Nat) : Lanes := l.foldl (fun m k => m ||| laneBit k) 0

/-- The lowest lane of a mask (0 for an empty mask). -/
def lowLane (m : Lanes) : Nat := (lanesOf m).headD 0

/-- The highest lane of a mask. -/
def highLane (m : Lanes) : Nat := (lanesOf m).getLastD 0

def State.basin? (s : State) (b : Nat) : Option Basin := s.basins.get? b

def State.jet? (s : State) (b j : Nat) : Option Jet := (s.basin? b).bind fun B => B.jets.get? j

def State.thread? (s : State) (b j l : Nat) : Option Thread := (s.jet? b j).bind fun J => J.threads.get? l

def State.withBasin (s : State) (b : Nat) (f : Basin → Basin) : State := { s with basins := s.basins.modify b f }

def Basin.withJet (B : Basin) (j : Nat) (f : Jet → Jet) : Basin := { B with jets := B.jets.modify j f }

def Jet.withThread (J : Jet) (l : Nat) (f : Thread → Thread) : Jet := { J with threads := J.threads.modify l f }

/-- Changes the threads of the lanes in a mask. -/
def Jet.withLanes (J : Jet) (m : Lanes) (f : Nat → Thread → Thread) : Jet :=
  { J with threads := J.threads.mapKeys fun l t => if m.getLsbD l then f l t else t }

def State.withJet (s : State) (b j : Nat) (f : Jet → Jet) : State := s.withBasin b fun B => B.withJet j f

def State.withThread (s : State) (b j l : Nat) (f : Thread → Thread) : State :=
  s.withJet b j fun J => J.withThread l f

def State.withLanes (s : State) (b j : Nat) (m : Lanes) (f : Nat → Thread → Thread) : State :=
  s.withJet b j fun J => J.withLanes m f

/-- The lanes that hold a live thread: Live(j) of R149. -/
def Jet.live (J : Jet) : Lanes := maskOf (J.threads.map (·.1))

/-- The core of a basin. -/
def State.coreOf (s : State) (b : Nat) : Nat := ((s.basin? b).map (·.core)).getD 0

/-- The context of a basin. -/
def State.ctxOf (s : State) (b : Nat) : Nat := ((s.basin? b).map (·.ctx)).getD 0

/-- A free 32-bit value (R7): an index within the step tells several of one step apart (log 5). -/
def State.free (s : State) (i : Nat) : Word := Config.freeWord s.tick i

/-! ### Registers -/

/-- Allocation words of a thread, A (R72). -/
def Shape.words (h : Shape) : Nat := 32 * h.vgran

/-- General words of a thread (R72). -/
def Shape.general (h : Shape) : Nat := h.words - 4 * h.rsvn

/-- The allocation word that a vector register names (R73). -/
def mapReg (wb r : Nat) : Nat := if r < 32 then r else wb + r - 32

/-- The first allocation word of a reservoir (R72). -/
def Shape.reservoir (h : Shape) (k : Nat) : Nat := h.words - 4 * k - 4

/-- An allocation word of a thread. -/
def Thread.word (t : Thread) (w : Nat) : Word := Cells.get 0 t.words w

def Thread.setWord (t : Thread) (w : Nat) (v : Word) : Thread := { t with words := t.words.put w v }

/-- A predicate; p0 reads true (R76). -/
def Thread.pred (t : Thread) (p : Nat) : Bool := decide (p = 0) || t.preds.getLsbD p

def setBit16 (m : BitVec 16) (i : Nat) (v : Bool) : BitVec 16 :=
  if v then m ||| BitVec.twoPow 16 i else m &&& ~~~ BitVec.twoPow 16 i

/-- Writes a predicate; p0 cannot be written (R76). -/
def Thread.setPred (t : Thread) (p : Nat) (v : Bool) : Thread :=
  if p = 0 then t else { t with preds := setBit16 t.preds p v }

/-- A vector register of a lane, through the window base. -/
def Jet.vreg (J : Jet) (l : Nat) (r : Nat) : Word :=
  match J.threads.get? l with
  | some t => t.word (mapReg J.wb r)
  | none => 0

/-- The 64-bit value of a register pair, low half in the lower register (R75). -/
def pair64 (lo hi : Word) : Dword := hi ++ lo

def lo32 (x : Dword) : Word := x.truncate 32
def hi32 (x : Dword) : Word := (x >>> 32).truncate 32

def Jet.vpair (J : Jet) (l : Nat) (r : Nat) : Dword := pair64 (J.vreg l r) (J.vreg l (r + 1))

/-- A uniform register. -/
def Jet.sreg (J : Jet) (r : Nat) : Word := Cells.get 0 J.sregs r

def Jet.spair (J : Jet) (r : Nat) : Dword := pair64 (J.sreg r) (J.sreg (r + 1))

def Jet.mask (J : Jet) (m : Nat) : Lanes := Cells.get 0 J.masks m

/-! ### Pending long writes -/

/-- Removes a destination of a lane from the pending operations: a later write stands (R80). -/
def discard (ops : List LongOp) (lanes : Nat → Bool) (d : Dest) : List LongOp :=
  ops.map fun o => if lanes o.lane then { o with dests := o.dests.filter fun e => decide (e.2 ≠ d) } else o

def discardAll (ops : List LongOp) (lanes : Nat → Bool) (ds : List Dest) : List LongOp :=
  ds.foldl (fun o d => discard o lanes d) ops

/-- Nothing is left of an operation: it has been performed, and its results have landed or been discarded. A read whose results
have all been discarded is still performed (R80, R218). -/
def LongOp.finished (o : LongOp) : Bool :=
  match o.kind with
  | .ready n => o.dests.isEmpty && o.scr.isEmpty && (decide (n = 0) || o.val.isSome)
  | .load _ | .ldnr _ _ | .reservoir | .texf _ _ _ _ | .hgrid _ _ _ _ _ | .atom _ _ | .cas _ _ | .ctradd _ | .grow _ =>
    o.dests.isEmpty && o.val.isSome

/-- Marks the matrix operations whose operand registers a write touches (R239). -/
def touchRegs (q : List MatOp) (j : Nat) (lanes : Nat → Bool) (ws : List Nat) : List MatOp :=
  q.map fun o =>
    if o.jet = j ∧ (o.regs.any fun e => lanes e.1 && ws.contains e.2) = true then { o with touched := true } else o

/-- A write by the lanes `m` of a jet to the allocation words `ws` and predicates `ps`: each lane changes its own thread;
long writes pending to what is written are discarded (R80). -/
def Basin.laneWrite (B : Basin) (j : Nat) (m : Lanes) (ws ps : List Nat) (f : Nat → Thread → Thread) : Basin :=
  { B with
    jets := B.jets.modify j fun J =>
      { J.withLanes m f with
        longs := discardAll J.longs (fun l => m.getLsbD l) (ws.map Dest.word ++ ps.map Dest.pred) }
    matQ := touchRegs B.matQ j (fun l => m.getLsbD l) ws
    matDone := touchRegs B.matDone j (fun l => m.getLsbD l) ws }

/-- A write to a uniform register (R61, R80); s0 to s7 are never written (R76). -/
def Jet.setSreg (J : Jet) (r : Nat) (v : Word) : Jet :=
  if r < 8 then J
  else { J with sregs := J.sregs.put r v, longs := discard J.longs (fun l => decide (l = 32)) (.ureg r) }

/-! ### The issue in hand -/

/-- Operands of an issue, by which REGRANGE and the interlock are decided (R74, R77). -/
structure Operands where
  /-- Vector registers named, sources and destinations. -/
  named : List Nat := []
  /-- Vector registers and predicates read by each lane. -/
  reads : List Nat := []
  preds : List Nat := []
  /-- Uniform registers read. -/
  ureads : List Nat := []
  /-- Reservoirs named. -/
  rsv : List Nat := []
  /-- Reservoirs read. -/
  rsvReads : List Nat := []
  /-- Accumulators named. -/
  acc : List Nat := []
  /-- The opcode may not stand in a guard window (R86). -/
  barred : Bool := false
  /-- The instruction ends every lookahead shadow and waits for the pending writes to land (R81). -/
  ends : Bool := false
  /-- It does so for every live thread of the jet, whichever group issues it (R390). -/
  endsAll : Bool := false
  /-- Each lane reads the uniform registers for itself, as `BCAST` does (R139). -/
  perLane : Bool := false
  deriving DecidableEq, Repr

/-- Every register named is one that the jet has (R74). -/
def regsOk (h : Shape) (wb : Nat) (o : Operands) : Bool :=
  (o.named.all fun r => decide (mapReg wb r < h.general)) && (o.rsv.all fun k => decide (k < h.rsvn))
    && (o.acc.all fun k => decide (k < h.accn))

/-- The long-write destinations that an issue reads. -/
def Operands.laneDests (h : Shape) (wb : Nat) (o : Operands) : List Dest :=
  (o.reads.map fun r => Dest.word (mapReg wb r)) ++ (o.preds.map Dest.pred)
    ++ (o.rsvReads.flatMap fun k =>
        [Dest.word (h.reservoir k), .word (h.reservoir k + 1), .word (h.reservoir k + 2), .word (h.reservoir k + 3)])

/-- A pending operation holds back a reader: one of the destinations is pending past its shadow (R77, R78). -/
def LongOp.blocks (o : LongOp) (ds : List Dest) : Bool :=
  decide (o.shadow = 0) && (o.dests.any fun e => ds.contains e.2)

/-- A lane among some has read the new value of a uniform register of the list, which is still pending: none of its later
reads may give the old value (R79). -/
def LongOp.seenBy (o : LongOp) (m : Lanes) (ds : List Dest) : Bool :=
  o.seen.any fun e => ds.contains (.ureg e.1) && decide (e.2 &&& m ≠ 0)
    && (o.dests.any fun d => decide (d.2 = .ureg e.1))

/-- Whether the executing lanes must wait for an operand. -/
def operandsPending (ops : List LongOp) (m : Lanes) (lane uni : List Dest) : Bool :=
  ops.any fun o => if o.lane = 32 then o.blocks uni else m.getLsbD o.lane && o.blocks lane

/-- Uniform registers that an issue reads once for all its lanes, one of which has received a value that is still to land: the
issue waits for it, short, in the shadow as after it (R55, R79, R139). -/
def uniformSeen (ops : List LongOp) (m : Lanes) (rs : List Nat) : Bool :=
  ops.any fun o => decide (o.lane = 32) && o.seenBy m (rs.map Dest.ureg)

/-- It does so for the registers of an issue, unless each lane reads them for itself (R139). -/
def Operands.seen (o : Operands) (ops : List LongOp) (m : Lanes) : Bool := !o.perLane && uniformSeen ops m o.ureads

/-- The lanes whose pending writes an instruction of R81 waits for: its own, or those of every live thread (R390). -/
def Operands.endLanes (o : Operands) (J : Jet) (exec : Lanes) : Lanes := if o.endsAll then J.live else exec

/-- Whether a long write of the lanes, or a uniform one, has still to land (R81). -/
def writesPending (ops : List LongOp) (m : Lanes) : Bool :=
  ops.any fun o => (decide (o.lane = 32) || m.getLsbD o.lane) && !o.dests.isEmpty

/-- The shadows of some lanes, and of the uniform operations of the jet, end early (R81). -/
def endShadows (ops : List LongOp) (m : Lanes) : List LongOp :=
  ops.map fun o => if o.lane = 32 ∨ m.getLsbD o.lane = true then { o with shadow := 0 } else o

/-- A thread that waits at `REORD`. -/
def Thread.atReord (t : Thread) : Bool := match t.wait with | .reord _ => true | _ => false

/-- The issuing threads wait; nothing else happens, and the instruction is offered again. Those that have executed the `REORD`
of their group already go on waiting there (R162). -/
def State.hold (s : State) (w : Wait) : State :=
  s.withLanes s.cur.basin s.cur.jet s.cur.group fun _ t => if t.atReord then t else { t with wait := w }

/-- A word is fetched for a thread: one word fewer in its guard window (R85, R88). -/
def Thread.fetched (t : Thread) : Thread :=
  { t with guardLeft := t.guardLeft - 1, guardBit := t.guardBit && decide (1 < t.guardLeft) }

/-- A thread moves past a word: its program counter, its guard window (R85, R88). -/
def Thread.pass (t : Thread) : Thread :=
  { t with
    pc := t.pc + 4, wait := .none, guardLeft := t.guardLeft - 1
    guardBit := t.guardBit && decide (1 < t.guardLeft) }

/-- One word fewer in the shadows of the threads of a group and, where it is an issue of the jet, of the uniform operations
(R78). -/
def passShadows (ops : List LongOp) (m : Lanes) (issue : Bool) : List LongOp :=
  ops.map fun o =>
    if (issue = true ∧ o.lane = 32) ∨ m.getLsbD o.lane = true then { o with shadow := o.shadow - 1 } else o

/-- The threads of a group move past a word, by an issue of the jet or, where they waited, without one. -/
def Jet.retire (J : Jet) (m : Lanes) (issue : Bool) : Jet :=
  { J.withLanes m (fun _ t => t.pass) with longs := (passShadows J.longs m issue).filter fun o => !o.finished }

/-- Lanes that waited move past their word, without an issue of the jet. -/
def Jet.moveOn (J : Jet) (m : Lanes) : Jet := J.retire m false

/-- An issue of the jet that does not retire yet counts as one of the issues of a uniform destination's shadow (R78). -/
def Jet.countIssue (J : Jet) : Jet := { J with longs := passShadows J.longs 0 true }

/-- The issue retires: every thread of the group moves past the word. One that was counted when it began to wait is not
counted again (R78). -/
def State.retire (s : State) : State :=
  s.withJet s.cur.basin s.cur.jet fun J => J.retire s.cur.group (!s.cur.resumed)

/-- The issuing threads wait at an instruction that has issued (Table 3.5), and which goes on when the wait is over. -/
def State.await (s : State) (w : Wait) : State :=
  let s := if s.cur.resumed then s else s.withJet s.cur.basin s.cur.jet Jet.countIssue
  s.hold w

/-! ### Errors and transactions ended by a trap -/

/-- Logs an error record (R404): the ring keeps 16,384. -/
def State.logError (s : State) (unit kind pa ctx : Nat) : State :=
  { s with
    errors := (⟨s.errorCount, s.cycle, unit, kind, pa, ctx⟩ :: s.errors).take 16384
    errorCount := s.errorCount + 1 }

/-- TXSTAT of an abort (Table 15.4). -/
def txStatus (code depth ucode fkind : Nat) : Word :=
  BitVec.ofNat 32 (code % 16 + (depth % 8) * 16 + (ucode % 256) * 256 + 65536 * (fkind % 16))

/-- Abort of a lane that is not at its commit (R257): it will skip from the word after its outermost `TXB`. -/
def Thread.abort (t : Thread) (code ucode fkind : Nat) : Thread :=
  { t with
    pc := t.tx.txbpc + 4, wait := .none
    tx := { t.tx with
      rlog := [], wlog := [], pages := [], since := none, depth := 0, irr := false, skip := 1, passed := 0
      stat := txStatus code t.tx.depth ucode fkind } }

/-- Abort found by a commit (R257): the lane stays at its `TXE`. -/
def Thread.abortAtCommit (t : Thread) (code fkind : Nat) : Thread :=
  { t with
    tx := { t.tx with
      rlog := [], wlog := [], pages := [], since := none, depth := 0, irr := false, skip := 0
      stat := txStatus code t.tx.depth 0 fkind } }

/-- A thread inside an ordinary transaction. -/
def Thread.inTx (t : Thread) : Bool := decide (0 < t.tx.depth) && !t.tx.irr

/-- A thread inside an irrevocable transaction. -/
def Thread.inIrr (t : Thread) : Bool := decide (0 < t.tx.depth) && t.tx.irr

/-- The jet gives its slot back when no thread is inside a transaction, and none has a `TXB` that it has begun: one that waits for
the irrevocable token, which the spec does not settle (DESIGN CHOICE, log 70), or one whose wait for the slot has just ended
(R250). -/
def Jet.releaseSlot (J : Jet) : Jet :=
  if J.slotFor = 0 ∧ (J.threads.all fun e => decide (e.2.tx.depth = 0 ∧ e.2.wait ≠ .token)) = true then
    { J with slotHeld := false }
  else J

/-! ### Taking a trap (R377 to R382) -/

/-- The code of a cause (Table 25.1). -/
def Cause.code : Cause → Nat
  | .illegal => 1
  | .regrange => 2
  | .convdead => 3
  | .barmismatch => 4
  | .poison => 5
  | .noframe => 6
  | .pagefault => 7
  | .preempt => 8
  | .trap => 9
  | .brk => 10

/-- The priority number of an asynchronous cause (Table 25.1). -/
def Cause.priority : Cause → Nat
  | .poison => 1
  | .noframe => 2
  | .pagefault => 3
  | .barmismatch => 4
  | .convdead => 5
  | .preempt => 6
  | .illegal | .regrange | .trap | .brk => 7

/-- sys.cause (Table 25.3). -/
def causeWord (c : Cause) (code : BitVec 16) : Word := BitVec.ofNat 32 (65536 * code.toNat + c.code)

/-- sys.grd of a thread's guard state (Table 25.2). -/
def Thread.guardState (t : Thread) : BitVec 5 :=
  if t.guardLeft = 0 then 0 else BitVec.ofNat 5 ((if t.guardBit then 16 else 0) + t.guardLeft % 16)

/-- TXSTAT as bits 19:0 of sys.tstate keep it: bit 7 is reserved and zero (R5, Table 15.4, Table 25.4). -/
def statBits (v : Word) : BitVec 20 := v.truncate 20 &&& 0xFFF7F#20

/-- What a trap keeps for one thread, and where it sends it (R380, R381): an ordinary transaction aborts with PREEMPT, the
resume address and the guard state are saved, the skip count and TXSTAT go to sys.tstate, and every wait ends. -/
def Thread.enter (t : Thread) (r : Option Resume) (vector : Dword) : Thread :=
  let aborted := t.inTx
  let t := if aborted then t.abort 6 0 0 else t
  let epc := if aborted then t.pc else match r with | some x => x.epc | none => t.pc
  let grd := if aborted then t.guardState else match r with | some x => x.grd | none => t.guardState
  { t with
    pc := vector, epc := epc, grd := grd, guardBit := false, guardLeft := 0, wait := .none
    exitAtEret := false, tsSkip := t.tx.skip, tsStat := statBits t.tx.stat
    tsBstate := none, tsBarno := none, tsPhase := none
    tx := { t.tx with skip := 0 } }

/-- The descriptor bytes of a context, at 0x1_0000 + 64c of the control space (R404, R406). -/
def State.ctl8 (s : State) (off : Nat) : Byte := Cells.get 0 s.ctl off

def State.ctlNat (s : State) (off : Nat) : Nat → Nat
  | 0 => 0
  | n + 1 => (s.ctl8 off).toNat + 256 * s.ctlNat (off + 1) n

/-- The core clock in force (Table 27.3, COREMHZ). -/
def State.coreMhz (s : State) : Nat := s.ctlNat 0x12 2

/-- Core cycles pass, and at the core clock in force the time of so many (R14, R26). -/
def State.pass (s : State) (n : Nat) : State :=
  let ps := s.rest + 1000000 * n
  let mhz := Nat.max 1 s.coreMhz
  { s with cycle := s.cycle + n, time := s.time + ps / mhz, rest := ps % mhz }

/-- A number of microseconds in the unit of `State.time`. -/
def microseconds (n : Nat) : Nat := 1000000 * n

/-- Reads a field of a context descriptor (Table 27.4). -/
def State.ctxField (s : State) (c off n : Nat) : Nat := s.ctlNat (0x10000 + 64 * c + off) n

/-- The vector of a handler (R377, R381). -/
def State.vector (s : State) (ctx : Nat) (c : Cause) : Dword :=
  BitVec.ofNat 64 (s.ctxField ctx (if c = .preempt then 0x18 else 0x10) 8)

/-- Entry of a jet into a handler (R381), its pending long writes having landed or been discarded. A pending CONVDEAD is
withdrawn, since no thread is blocked in `WAITM` any more (R379). -/
def Jet.enter (J : Jet) (c : Cause) (code : BitVec 16) (lanes : Lanes) (resume : List Resume) (va : Dword)
    (kind : BitVec 4) (vector : Dword) : Jet :=
  Jet.releaseSlot
    { J with
      threads := J.threads.mapKeys fun l t => t.enter (resume.find? fun r => decide (r.lane = l)) vector
      sys := true
      slotFor := 0
      causes := J.causes.filter fun p => !decide (p.cause = .convdead)
      handler := if c = .preempt then .save else .trap
      cause := causeWord c code
      lanemask := lanes
      faultva := va
      faultkind := kind }

/-- Removes a jet from the queues of the irrevocable token and of the transaction slots (R250, R269). -/
def State.leaveQueues (s : State) (b j : Nat) : State :=
  { s with
    token := { s.token with queue := s.token.queue.filter fun r => !decide (r.basin = b ∧ r.jet = j) }
    slotQ := s.slotQ.filter fun r => !decide (r.2.1 = b ∧ r.2.2 = j) }

/-- Takes a trap: the one entry operation of every cause (R381). -/
def State.enterTrap (s : State) (b j : Nat) (c : Cause) (code : BitVec 16) (lanes : Lanes) (resume : List Resume)
    (va : Dword) (kind : BitVec 4) : State :=
  let ctx := ((s.basin? b).map (·.ctx)).getD 0
  (s.withJet b j fun J => J.enter c code lanes resume va kind (s.vector ctx c)).leaveQueues b j

/-- BSTATE and sys.barno as a handler reads them: what it wrote last, or else the thread's record (R385). -/
def Thread.bstateNow (t : Thread) : Nat := t.tsBstate.getD t.bstate
def Thread.barnoNow (t : Thread) : BitVec 4 := t.tsBarno.getD t.barno

/-- What `ERET` restores in a thread (R385, R390): what the handler has written takes effect, and a thread whose BSTATE is 01
blocks at its barrier again. -/
def Thread.eret (t : Thread) : Thread :=
  { t with
    pc := t.epc
    guardBit := t.grd.getLsbD 4 && decide (t.grd.toNat % 16 ≠ 0)
    guardLeft := t.grd.toNat % 16
    wait := if t.bstateNow = 1 then .bar else .none
    bstate := if t.bstateNow = 1 then 1 else 0
    barno := t.barnoNow
    arrphase := t.tsPhase.getD t.arrphase
    tsBstate := none, tsBarno := none, tsPhase := none
    tx := { t.tx with skip := t.tsSkip, stat := t.tsStat.zeroExtend 32 } }

/-- The return of a jet to user mode (R390). -/
def Jet.eret (J : Jet) : Jet :=
  { J with threads := J.threads.mapKeys (fun _ t => if t.exitAtEret then t else t.eret), sys := false, handler := .none }

/-- The jet halts: it issues nothing further and an error record is logged (R382). It leaves the active set, and its position
there becomes free: the spec does not say whether it keeps it (DESIGN CHOICE, log 61). -/
def State.halt (s : State) (b j : Nat) : State :=
  match s.jet? b j with
  | none => s
  | some J =>
    if J.run = .halted then s
    else
      (s.withJet b j fun J => { J with run := .halted }).logError (s.coreOf b) 0x25 0
        (((s.basin? b).map (·.ctx)).getD 0)

/-- Only operations that hold no trap back are pending: counter additions go on (R82, Table 25.6). -/
def quiet (ops : List LongOp) : Bool :=
  ops.all fun o => match o.kind with | .ctradd _ => true | _ => o.finished

/-- A synchronous cause of the instruction in hand: in system mode it halts the jet (R382); otherwise the jet first waits
until its pending long writes have landed (R82), then enters the trap handler with the given threads marked. -/
def State.trapSync (s : State) (c : Cause) (code : BitVec 16) (lanes : Lanes) (epc : Dword) (va : Dword)
    (kind : BitVec 4) : State :=
  match s.jet? s.cur.basin s.cur.jet with
  | none => s
  | some J =>
    if J.sys then s.halt s.cur.basin s.cur.jet
    else if quiet J.longs then
      s.enterTrap s.cur.basin s.cur.jet c code lanes
        ((lanesOf lanes).map fun l => ⟨l, epc, ((J.threads.get? l).map Thread.guardState).getD 0⟩) va kind
    else s.hold .landed

/-- ILLEGAL or REGRANGE: every thread of the issuing group, at the instruction (Table 25.1). -/
def State.trapGroup (s : State) (c : Cause) : State := s.trapSync c 0 s.cur.group s.cur.pc 0 0

/-- An issue-time PAGEFAULT of the given lanes (R193). -/
def State.trapFault (s : State) (lanes : Lanes) (va : Dword) (kind : BitVec 4) : State :=
  s.trapSync .pagefault 0 lanes s.cur.pc va kind

/-- A cause joins the pending causes of a jet: one of the same kind, and of the same barrier, is the same cause with more
lanes, and keeps the address of its lowest lane (R218, R379). -/
def joinCause (l : List Pending) (p : Pending) : List Pending :=
  let new : Pending :=
    match l.find? fun q => decide (q.cause = p.cause ∧ q.bar = p.bar) with
    | none => p
    | some q =>
      let first := if lowLane q.lanes ≤ lowLane p.lanes then q else p
      { cause := p.cause, lanes := q.lanes ||| p.lanes, resume := q.resume ++ p.resume, va := first.va,
        kind := first.kind, bar := p.bar }
  new :: l.filter fun q => !decide (q.cause = p.cause ∧ q.bar = p.bar)

/-- An asynchronous cause becomes pending for a jet (R378, R379); in system mode POISON, NOFRAME and PAGEFAULT halt the jet
(R382). POISON of several lanes is one cause with the address of the lowest lane (R218). -/
def State.addCause (s : State) (b j : Nat) (p : Pending) : State :=
  match s.jet? b j with
  | none => s
  | some J =>
    if J.sys ∧ (p.cause = .poison ∨ p.cause = .noframe ∨ p.cause = .pagefault) then s.halt b j
    else
      s.withJet b j fun J =>
        { J with
          causes := joinCause J.causes p
          run := if J.run = .blocked then .pending else J.run
          since := if J.run = .blocked then s.cycle else J.since }

/-- The pending cause that a jet takes first: the lowest priority number (R379). -/
def firstCause (l : List Pending) : Option Pending :=
  l.foldl (fun best p =>
    match best with
    | none => some p
    | some q => if p.cause.priority < q.cause.priority then some p else best) none

/-! ### The issue of an instruction -/

/-- The checks and waits every issue makes, in the order of R100, before the instruction's own: a word barred from a guard
window (R86), REGRANGE (R74), an empty executing set retires (R60), the interlock (R77, R79, R81). A word of R81 ends the shadows,
and waits long where one of its own sources is pending (R55). -/
def State.issue (s : State) (o : Operands) (body : Basin → Jet → State) : State :=
  match s.basin? s.cur.basin with
  | none => s
  | some B =>
    match B.jets.get? s.cur.jet with
    | none => s
    | some J =>
      if s.cur.window = true ∧ o.barred = true then s.trapGroup .illegal
      else if regsOk B.shape J.wb o = false then s.trapGroup .regrange
      else if s.cur.exec = 0 then s.retire
      else if o.ends = true ∧ writesPending J.longs (o.endLanes J s.cur.exec) = true then
        let ops := endShadows J.longs (o.endLanes J s.cur.exec)
        (s.withJet s.cur.basin s.cur.jet fun J => { J with longs := ops }).hold
          (if operandsPending ops s.cur.exec (o.laneDests B.shape J.wb) (o.ureads.map Dest.ureg) then
            .operand (o.laneDests B.shape J.wb ++ o.ureads.map Dest.ureg)
          else .landed)
      else if operandsPending J.longs s.cur.exec (o.laneDests B.shape J.wb) (o.ureads.map Dest.ureg) = true then
        s.hold (.operand (o.laneDests B.shape J.wb ++ o.ureads.map Dest.ureg))
      else if o.seen J.longs s.cur.exec = true then s.hold (.short (.uniform o.ureads))
      else body B J

/-- An issue whose effect is one write per executing lane to its own registers, and which then retires. -/
def State.laneOp (s : State) (o : Operands) (ws ps : List Nat) (f : Jet → Nat → Thread → Thread) : State :=
  s.issue o fun _ J =>
    State.retire (s.withBasin s.cur.basin fun B =>
      B.laneWrite s.cur.jet s.cur.exec (ws.map (mapReg J.wb)) ps (f J))

/-- An issue that writes one uniform register, once (R61), and then retires. -/
def State.uniformOp (s : State) (o : Operands) (d : List (Nat × (Jet → Word))) : State :=
  s.issue o fun _ J =>
    State.retire (s.withJet s.cur.basin s.cur.jet fun K => d.foldl (fun K e => K.setSreg e.1 (e.2 J)) K)

end Sys2Proof.Machine
end

