-- ==== Sys2Proof/Machine/Operands.lean ====
section
/-! DEFINITION. Operand forms: immediates (R69), offsets by the access scale, effective addresses (R172), access sizes. -/

namespace Sys2Proof.Machine

/-- imm11 sign-extended (R69). -/
def imm11 (i : BitVec 11) : Word := i.signExtend 32

/-- imm18 sign-extended (R69). -/
def imm18 (i : BitVec 18) : Word := i.signExtend 32

/-- A signed word offset as a byte displacement of an address (R69, R143). -/
def branch25 (pc : Dword) (off : BitVec 25) : Dword := pc + (off.signExtend 64 <<< 2)

def branch18 (pc : Dword) (off : BitVec 18) : Dword := pc + (off.signExtend 64 <<< 2)

/-- Bits 1:0 of a target are ignored (R70). -/
def aligned4 (a : Dword) : Dword := a &&& ~~~ 3#64

/-- Bytes of an access (Table 5.4, MS). -/
def Size.bytes : Size → Nat
  | .b8 => 1
  | .b16 => 2
  | .b32 => 4
  | .b64 => 8

/-- Words of the data register operand: a pair for `.b64` (R90). -/
def Size.regs : Size → Nat
  | .b64 => 2
  | .b8 | .b16 | .b32 => 1

/-- off7 × scale, signed (R69). -/
def offset7 (off : Reg) (scale : Nat) : Int := off.toInt * (scale : Int)

/-- Effective global address: (Pair(a) + off) mod 2^64 (R172). -/
def globalEa (base : Dword) (off : Reg) (scale : Nat) : Dword := base + BitVec.ofInt 64 (offset7 off scale)

/-- Effective scratchpad offset: (V[t][a] + off) mod 2^32 (R172). -/
def scratchEa (base : Word) (off : Reg) (scale : Nat) : Word := base + BitVec.ofInt 32 (offset7 off scale)

/-- The registers of a block. -/
def block (r : Reg) (n : Nat) : List Nat := (List.range n).map fun k => r.toNat + k

end Sys2Proof.Machine
end

