-- ==== Sys2Proof/Machine/IntVec.lean ====
section
/-! DEFINITION. Integer vector instructions, opcodes 0x10 to 0x27 (R92, R126, R127). -/

namespace Sys2Proof.Machine

/-- A shift amount of 32 or more gives zero (Table 7.5). -/
def shl32 (a : Word) (n : Nat) : Word := BitVec.ofNat 32 (if n < 32 then a.toNat * 2 ^ n else 0)
def shr32 (a : Word) (n : Nat) : Word := BitVec.ofNat 32 (if n < 32 then a.toNat / 2 ^ n else 0)
def sar32 (a : Word) (n : Nat) : Word := BitVec.ofInt 32 (a.toInt / (2 ^ (min n 32) : Nat))

/-- The 32-bit forms of addition (Table 7.5). -/
def addForm (f : AddForm) (a b : Word) : Word :=
  match f with
  | .wrap | .b64 => a + b
  | .ssat => ssat32 (a.toInt + b.toInt)
  | .nsat => nsat32 ((a.toNat : Int) + (b.toNat : Int))

/-- The 32-bit forms of subtraction (Table 7.5). -/
def subForm (f : AddForm) (a b : Word) : Word :=
  match f with
  | .wrap | .b64 => a - b
  | .ssat => ssat32 (a.toInt - b.toInt)
  | .nsat => nsat32 ((a.toNat : Int) - (b.toNat : Int))

/-- The high half of a product (Table 7.5, `IMULH`). -/
def mulHigh (sg : Sign) (a b : Word) : Word :=
  match sg with
  | .n32 => BitVec.ofNat 32 (a.toNat * b.toNat / 4294967296)
  | .s32 => BitVec.ofInt 32 (a.toInt * b.toInt / 4294967296)

/-- Position and width of a bit field (R127). -/
def fieldPos (b : Word) : Nat := b.toNat % 256
def fieldWidth (b : Word) : Nat := min (b.toNat / 256 % 256) 32

/-- `BFE` (R127). -/
def bfe (sg : Sign) (a b : Word) : Word :=
  let pos := fieldPos b
  let w := fieldWidth b
  match sg with
  | .n32 => BitVec.ofNat 32 (a.toNat / 2 ^ pos % 2 ^ w)
  | .s32 =>
    let f := (a.toInt / (2 ^ pos : Nat)) % (2 ^ w : Nat)
    if w = 0 then 0
    else BitVec.ofInt 32 (if f < (2 ^ (w - 1) : Nat) then f else f - (2 ^ w : Nat))

/-- `BFI` (R127). -/
def bfi (d a b : Word) : Word :=
  let pos := fieldPos b
  let m := BitVec.ofNat 32 ((2 ^ fieldWidth b - 1) * 2 ^ pos)
  (d &&& ~~~ m) ||| (BitVec.ofNat 32 (a.toNat * 2 ^ pos) &&& m)

def popCount (a : Word) : Nat := ((List.range 32).filter fun i => a.getLsbD i).length

def leadingZeros (a : Word) : Nat := if a = 0 then 32 else 31 - Nat.log2 a.toNat

def minWord (sg : Sign) (a b : Word) : Word :=
  match sg with
  | .s32 => if a.toInt ≤ b.toInt then a else b
  | .n32 => if a.toNat ≤ b.toNat then a else b

def maxWord (sg : Sign) (a b : Word) : Word :=
  match sg with
  | .s32 => if a.toInt ≤ b.toInt then b else a
  | .n32 => if a.toNat ≤ b.toNat then b else a

/-- `MOVHI` (R92). -/
def movHigh (d : Word) (imm : BitVec 18) : Word := (imm.truncate 16 : BitVec 16) ++ (d.truncate 16 : BitVec 16)

/-! ### Shapes of issue -/

/-- d := f A (one source). -/
def State.alu1 (s : State) (d a : Reg) (f : Word → Word) : State :=
  s.laneOp { named := [d.toNat, a.toNat], reads := [a.toNat] } [d.toNat] [] fun J _ t =>
    t.setWord (mapReg J.wb d.toNat) (f (t.word (mapReg J.wb a.toNat)))

/-- d := f A B (two sources). -/
def State.alu2 (s : State) (d a b : Reg) (f : Word → Word → Word) : State :=
  s.laneOp { named := [d.toNat, a.toNat, b.toNat], reads := [a.toNat, b.toNat] } [d.toNat] [] fun J _ t =>
    t.setWord (mapReg J.wb d.toNat) (f (t.word (mapReg J.wb a.toNat)) (t.word (mapReg J.wb b.toNat)))

/-- d := f A B D (the destination is a source too). -/
def State.alu3 (s : State) (d a b : Reg) (f : Word → Word → Word → Word) : State :=
  s.laneOp { named := [d.toNat, a.toNat, b.toNat], reads := [a.toNat, b.toNat, d.toNat] } [d.toNat] [] fun J _ t =>
    t.setWord (mapReg J.wb d.toNat)
      (f (t.word (mapReg J.wb a.toNat)) (t.word (mapReg J.wb b.toNat)) (t.word (mapReg J.wb d.toNat)))

/-- A register pair of a thread. -/
def Thread.pair (t : Thread) (wb r : Nat) : Dword := pair64 (t.word (mapReg wb r)) (t.word (mapReg wb (r + 1)))

def Thread.setPair (t : Thread) (wb r : Nat) (v : Dword) : Thread :=
  (t.setWord (mapReg wb r) (lo32 v)).setWord (mapReg wb (r + 1)) (hi32 v)

/-- Pair d := f (Pair a) (Pair b). -/
def State.aluPair (s : State) (d a b : Reg) (f : Dword → Dword → Dword) : State :=
  let regs := [a.toNat, a.toNat + 1, b.toNat, b.toNat + 1]
  s.laneOp { named := [d.toNat, d.toNat + 1] ++ regs, reads := regs } [d.toNat, d.toNat + 1] [] fun J _ t =>
    t.setPair J.wb d.toNat (f (t.pair J.wb a.toNat) (t.pair J.wb b.toNat))

/-- Pair d := f A B (Pair d). -/
def State.aluAcc64 (s : State) (d a b : Reg) (f : Word → Word → Dword → Dword) : State :=
  s.laneOp
    { named := [d.toNat, d.toNat + 1, a.toNat, b.toNat], reads := [a.toNat, b.toNat, d.toNat, d.toNat + 1] }
    [d.toNat, d.toNat + 1] [] fun J _ t =>
    t.setPair J.wb d.toNat
      (f (t.word (mapReg J.wb a.toNat)) (t.word (mapReg J.wb b.toNat)) (t.pair J.wb d.toNat))

/-- p<d> := f A B. -/
def State.cmp2 (s : State) (p a b : Reg) (f : Word → Word → Bool) : State :=
  s.laneOp { named := [a.toNat, b.toNat], reads := [a.toNat, b.toNat] } [] [p.toNat] fun J _ t =>
    t.setPred p.toNat (f (t.word (mapReg J.wb a.toNat)) (t.word (mapReg J.wb b.toNat)))

/-- d := a value that depends on nothing. -/
def State.alu0 (s : State) (d : Reg) (v : Word) : State :=
  s.laneOp { named := [d.toNat] } [d.toNat] [] fun J _ t => t.setWord (mapReg J.wb d.toNat) v

/-! ### Meanings -/

/-- `IADD` (Table 7.5). -/
def execIadd (d a b : Reg) (it : AddForm) (s : State) : Host.Outcome State Fault Refusal :=
  .next (if it = .b64 then s.aluPair d a b (fun x y => x + y) else s.alu2 d a b (addForm it))

/-- `ISUB` (Table 7.5). -/
def execIsub (d a b : Reg) (it : AddForm) (s : State) : Host.Outcome State Fault Refusal :=
  .next (if it = .b64 then s.aluPair d a b (fun x y => x - y) else s.alu2 d a b (subForm it))

/-- `IMUL` (Table 7.5). -/
def execImul (d a b : Reg) (s : State) : Host.Outcome State Fault Refusal :=
  .next (s.alu2 d a b fun x y => x * y)

/-- `IMAD` (Table 7.5). -/
def execImad (d a b : Reg) (f : MadForm) (s : State) : Host.Outcome State Fault Refusal :=
  .next
    (match f with
    | .b32 => s.alu3 d a b fun x y z => x * y + z
    | .n64 => s.aluAcc64 d a b fun x y z => x.zeroExtend 64 * y.zeroExtend 64 + z
    | .s64 => s.aluAcc64 d a b fun x y z => x.signExtend 64 * y.signExtend 64 + z)

/-- `IMULH` (Table 7.5). -/
def execImulh (d a b : Reg) (sg : Sign) (s : State) : Host.Outcome State Fault Refusal :=
  .next (s.alu2 d a b (mulHigh sg))

/-- `IADDI` (Table 7.5). -/
def execIaddi (d a : Reg) (imm : BitVec 11) (s : State) : Host.Outcome State Fault Refusal :=
  .next (s.alu1 d a fun x => x + imm11 imm)

/-- `AND` (Table 7.5). -/
def execAnd (d a b : Reg) (inv : Bool) (s : State) : Host.Outcome State Fault Refusal :=
  .next (s.alu2 d a b fun x y => x &&& (if inv then ~~~ y else y))

/-- `OR` (Table 7.5). -/
def execOr (d a b : Reg) (inv : Bool) (s : State) : Host.Outcome State Fault Refusal :=
  .next (s.alu2 d a b fun x y => x ||| (if inv then ~~~ y else y))

/-- `XOR` (Table 7.5). -/
def execXor (d a b : Reg) (inv : Bool) (s : State) : Host.Outcome State Fault Refusal :=
  .next (s.alu2 d a b fun x y => x ^^^ (if inv then ~~~ y else y))

/-- `ANDI` (Table 7.5). -/
def execAndi (d a : Reg) (imm : BitVec 11) (s : State) : Host.Outcome State Fault Refusal :=
  .next (s.alu1 d a fun x => x &&& imm11 imm)

/-- `ORI` (Table 7.5). -/
def execOri (d a : Reg) (imm : BitVec 11) (s : State) : Host.Outcome State Fault Refusal :=
  .next (s.alu1 d a fun x => x ||| imm11 imm)

/-- `SHL` (Table 7.5). -/
def execShl (d a b : Reg) (s : State) : Host.Outcome State Fault Refusal :=
  .next (s.alu2 d a b fun x y => shl32 x y.toNat)

/-- `SHL.i` (Table 7.5). -/
def execShlI (d a : Reg) (n : BitVec 5) (s : State) : Host.Outcome State Fault Refusal :=
  .next (s.alu1 d a fun x => shl32 x n.toNat)

/-- `SHR` (Table 7.5). -/
def execShr (d a b : Reg) (s : State) : Host.Outcome State Fault Refusal :=
  .next (s.alu2 d a b fun x y => shr32 x y.toNat)

/-- `SHR.i` (Table 7.5). -/
def execShrI (d a : Reg) (n : BitVec 5) (s : State) : Host.Outcome State Fault Refusal :=
  .next (s.alu1 d a fun x => shr32 x n.toNat)

/-- `SAR` (Table 7.5). -/
def execSar (d a b : Reg) (s : State) : Host.Outcome State Fault Refusal :=
  .next (s.alu2 d a b fun x y => sar32 x y.toNat)

/-- `SAR.i` (Table 7.5). -/
def execSarI (d a : Reg) (n : BitVec 5) (s : State) : Host.Outcome State Fault Refusal :=
  .next (s.alu1 d a fun x => sar32 x n.toNat)

/-- `BFE` (R127). -/
def execBfe (d a b : Reg) (sg : Sign) (s : State) : Host.Outcome State Fault Refusal :=
  .next (s.alu2 d a b (bfe sg))

/-- `BFI` (R127): the destination is a source too. -/
def execBfi (d a b : Reg) (s : State) : Host.Outcome State Fault Refusal :=
  .next (s.alu3 d a b fun x y z => bfi z x y)

/-- `POPC` (Table 7.5). -/
def execPopc (d a : Reg) (s : State) : Host.Outcome State Fault Refusal :=
  .next (s.alu1 d a fun x => BitVec.ofNat 32 (popCount x))

/-- `CLZ` (Table 7.5). -/
def execClz (d a : Reg) (s : State) : Host.Outcome State Fault Refusal :=
  .next (s.alu1 d a fun x => BitVec.ofNat 32 (leadingZeros x))

/-- `IMIN` (Table 7.5). -/
def execImin (d a b : Reg) (sg : Sign) (s : State) : Host.Outcome State Fault Refusal :=
  .next (s.alu2 d a b (minWord sg))

/-- `IMAX` (Table 7.5). -/
def execImax (d a b : Reg) (sg : Sign) (s : State) : Host.Outcome State Fault Refusal :=
  .next (s.alu2 d a b (maxWord sg))

/-- `ICMP` (Table 7.5). -/
def execIcmp (p a b : Reg) (cc : Cc) (s : State) : Host.Outcome State Fault Refusal :=
  .next (s.cmp2 p a b (Cc.holds cc))

/-- `SEL` (Table 7.5). -/
def execSel (d a b : Reg) (p : BitVec 4) (s : State) : Host.Outcome State Fault Refusal :=
  .next (s.laneOp { named := [d.toNat, a.toNat, b.toNat], reads := [a.toNat, b.toNat], preds := [p.toNat] }
    [d.toNat] [] fun J _ t =>
      t.setWord (mapReg J.wb d.toNat)
        (if t.pred p.toNat then t.word (mapReg J.wb a.toNat) else t.word (mapReg J.wb b.toNat)))

/-- `MOVI` (Table 7.5). -/
def execMovi (d : Reg) (imm : BitVec 18) (s : State) : Host.Outcome State Fault Refusal :=
  .next (s.alu0 d (imm18 imm))

/-- `MOVHI` (R92): the low half of the destination is kept. -/
def execMovhi (d : Reg) (imm : BitVec 18) (s : State) : Host.Outcome State Fault Refusal :=
  .next (s.alu1 d d fun x => movHigh x imm)

end Sys2Proof.Machine
end

