-- ==== Sys2Proof/Machine/FloatVec.lean ====
section
/-! DEFINITION. Float vector instructions, opcodes 0x28 to 0x3D (R93, R125, R128 to R137). -/

namespace Sys2Proof.Machine

/-- The format of a float type's elements (R128). -/
def FTy.fmt : FTy → Fmt
  | .f32 => .f32
  | .f16x2 => .f16
  | .bf16x2 => .bf16

/-- The halves of a word (R125). -/
def loHalf (a : Word) : Nat := a.toNat % 65536
def hiHalf (a : Word) : Nat := a.toNat / 65536

/-- Applies a function to each element of the type: the whole word, or both halves (R125, R128). -/
def elements1 (ty : FTy) (f : Fmt → Nat → Nat) (a : Word) : Word :=
  match ty with
  | .f32 => BitVec.ofNat 32 (f .f32 a.toNat)
  | .f16x2 | .bf16x2 => BitVec.ofNat 32 (f (FTy.fmt ty) (loHalf a) % 65536 + 65536 * f (FTy.fmt ty) (hiHalf a))

def elements2 (ty : FTy) (f : Fmt → Nat → Nat → Nat) (a b : Word) : Word :=
  match ty with
  | .f32 => BitVec.ofNat 32 (f .f32 a.toNat b.toNat)
  | .f16x2 | .bf16x2 =>
    BitVec.ofNat 32 (f (FTy.fmt ty) (loHalf a) (loHalf b) % 65536 + 65536 * f (FTy.fmt ty) (hiHalf a) (hiHalf b))

def elements3 (ty : FTy) (f : Fmt → Nat → Nat → Nat → Nat) (a b d : Word) : Word :=
  match ty with
  | .f32 => BitVec.ofNat 32 (f .f32 a.toNat b.toNat d.toNat)
  | .f16x2 | .bf16x2 =>
    BitVec.ofNat 32
      (f (FTy.fmt ty) (loHalf a) (loHalf b) (loHalf d) % 65536 + 65536 * f (FTy.fmt ty) (hiHalf a) (hiHalf b) (hiHalf d))

/-- One element of `FADD`, `FSUB`, `FMUL` and `FFMA` (R128). -/
def faddBits (rm : Rm) (F : Fmt) (a b : Nat) : Nat := quantise (exactSum [value F a, value F b] rm) F rm false
def fsubBits (rm : Rm) (F : Fmt) (a b : Nat) : Nat :=
  quantise (exactSum [value F a, (value F b).negate] rm) F rm false
def fmulBits (rm : Rm) (F : Fmt) (a b : Nat) : Nat := quantise (product (value F a) (value F b)) F rm false
def ffmaBits (rm : Rm) (F : Fmt) (a b d : Nat) : Nat :=
  quantise (exactSum [product (value F a) (value F b), value F d] rm) F rm false

/-- One element of `FRND` (R132). -/
def frndBits (rm : Rm) (F : Fmt) (a : Nat) : Nat :=
  match value F a with
  | .nan => F.nanBits
  | .fin q =>
    let z := roundInt q rm
    if z = 0 then signBits F (value F a).isNeg 0 else quantise (.fin (Q.ofInt z)) F rm false
  | .inf _ | .zero _ => a

/-- `FCLASS` (R131). -/
def fclass (a : Word) : Word :=
  let e := a.toNat / 8388608 % 256
  let m := a.toNat % 8388608
  let neg := decide (2147483648 ≤ a.toNat)
  let k :=
    if e = 255 then (if m = 0 then (if neg then 0 else 7) else if m < 4194304 then 8 else 9)
    else if e = 0 then (if m = 0 then (if neg then 3 else 4) else if neg then 2 else 5)
    else if neg then 1 else 6
  BitVec.ofNat 32 (2 ^ k)

/-- FP32 of an exact value, nearest-even. -/
def ne32 (x : FV) : Word := BitVec.ofNat 32 (roundNE32 x)

/-- The functions of Table 7.6, correctly rounded (R133). -/
def frcp (a : Word) : Word :=
  ne32 (match value .f32 a.toNat with
    | .nan => .nan
    | .zero sg => .inf sg
    | .inf sg => .zero sg
    | .fin q => .fin (Q.div (Q.ofNat 1) q))

def fsqrt (a : Word) : Word :=
  ne32 (match value .f32 a.toNat with
    | .nan => .nan
    | .zero sg => .zero sg
    | .inf sg => if sg then .nan else .inf false
    | .fin q => if q.num < 0 then .nan else .fin (sqrtQ q))

def frsq (a : Word) : Word :=
  ne32 (match value .f32 a.toNat with
    | .nan => .nan
    | .zero sg => .inf sg
    | .inf sg => if sg then .nan else .zero false
    | .fin q => if q.num < 0 then .nan else .fin (sqrtQ (Q.div (Q.ofNat 1) q)))

/-- An exponent cut to magnitude 256: beyond it 2^x rounds to infinity or to zero as at the cut. -/
def cut256 (x : Q) : Q :=
  if Q.lt ⟨256, 1⟩ x then ⟨256, 1⟩ else if Q.lt x ⟨-256, 1⟩ then ⟨-256, 1⟩ else x

def fexp2 (a : Word) : Word :=
  ne32 (match value .f32 a.toNat with
    | .nan => .nan
    | .zero _ => .fin (Q.ofNat 1)
    | .inf sg => if sg then .zero false else .inf false
    | .fin q => .fin (exp2Q (cut256 q)))

def flog2 (a : Word) : Word :=
  ne32 (match value .f32 a.toNat with
    | .nan => .nan
    | .zero _ => .inf true
    | .inf sg => if sg then .nan else .inf false
    | .fin q => if q.num < 0 then .nan else FV.ofQ (log2Q q))

def fsin (a : Word) : Word :=
  ne32 (match value .f32 a.toNat with
    | .nan => .nan
    | .zero sg => .zero sg
    | .inf _ => .nan
    | .fin q =>
      if (2 * q.num) % (q.den : Int) = 0 then .zero (decide (q.num < 0)) else FV.ofQ (sinTurns q))

def fcos (a : Word) : Word :=
  ne32 (match value .f32 a.toNat with
    | .nan => .nan
    | .zero _ => .fin (Q.ofNat 1)
    | .inf _ => .nan
    | .fin q =>
      if (4 * q.num - (q.den : Int)) % (2 * (q.den : Int)) = 0 then .zero false else FV.ofQ (cosTurns q))

def ftanh (a : Word) : Word :=
  ne32 (match value .f32 a.toNat with
    | .nan => .nan
    | .zero sg => .zero sg
    | .inf sg => .fin (Q.ofInt (if sg then -1 else 1))
    | .fin q => FV.ofQ (tanhQ q))

/-- `FDIV` (R133, Table 7.6). An infinity divided by a finite value has no entry there: the model gives an infinity signed by the
exclusive OR of the signs, also for a divisor of zero; and so it signs the zero of ±0 divided by a finite non-zero value, which
has no entry either, and of a finite value divided by an infinity, where the table says only a signed zero (DESIGN CHOICE,
log 66). -/
def fdiv (a b : Word) : Word :=
  let x := value .f32 a.toNat
  let y := value .f32 b.toNat
  let sg := x.isNeg != y.isNeg
  ne32 (match x, y with
    | .nan, _ => .nan
    | _, .nan => .nan
    | .zero _, .zero _ => .nan
    | .inf _, .inf _ => .nan
    | .inf _, _ => .inf sg
    | _, .inf _ => .zero sg
    | .zero _, _ => .zero sg
    | _, .zero _ => .inf sg
    | .fin p, .fin q => .fin (Q.div p q))

/-- `FDOT2` (R134). -/
def fdot2 (ty : FTy) (rm : Rm) (a b d : Word) : Word :=
  let F := (FTy.fmt ty)
  BitVec.ofNat 32 (quantise (exactSum
    [product (value F (loHalf a)) (value F (loHalf b)), product (value F (hiHalf a)) (value F (hiHalf b)),
      value .f32 d.toNat] rm) .f32 rm false)

/-- The FP32 encoding of a narrow value: exact, a NaN canonical (Table 7.7). -/
def widen (F : Fmt) (bits : Nat) : Word := ne32 (value F bits)

/-- `CVT` (R135, Table 7.7). -/
def cvt (c : CvtCode) (sat : Bool) (rm : Rm) (a : Word) : Word :=
  let x := value .f32 a.toNat
  let n := a.toNat
  match c with
  | .f32s32 => BitVec.ofNat 32 (quantise (FV.ofQ (Q.ofInt a.toInt)) .f32 rm sat)
  | .f32n32 => BitVec.ofNat 32 (quantise (FV.ofQ (Q.ofNat n)) .f32 rm sat)
  | .s32f32 => BitVec.ofInt 32 (quantiseInt x (-2147483648) 2147483647 rm)
  | .n32f32 => BitVec.ofInt 32 (quantiseInt x 0 4294967295 rm)
  | .f16f32 => BitVec.ofNat 32 (quantise x .f16 rm sat)
  | .f32f16 => widen .f16 (n % 65536)
  | .bf16f32 => BitVec.ofNat 32 (quantise x .bf16 rm sat)
  | .f32bf16 => widen .bf16 (n % 65536)
  | .e4m3f32 => BitVec.ofNat 32 (quantise x .e4m3 rm sat)
  | .f32e4m3 => widen .e4m3 (n % 256)
  | .e5m2f32 => BitVec.ofNat 32 (quantise x .e5m2 rm sat)
  | .f32e5m2 => widen .e5m2 (n % 256)
  | .e3m2f32 => BitVec.ofNat 32 (quantise x .e3m2 rm sat)
  | .f32e3m2 => widen .e3m2 (n % 64)
  | .e2m3f32 => BitVec.ofNat 32 (quantise x .e2m3 rm sat)
  | .f32e2m3 => widen .e2m3 (n % 64)
  | .e2m1f32 => BitVec.ofNat 32 (quantise x .e2m1 rm sat)
  | .f32e2m1 => widen .e2m1 (n % 16)
  | .e8m0f32 => BitVec.ofNat 32 (quantiseE8M0 x rm sat)
  | .f32e8m0 => ne32 (valueE8M0 (n % 256))
  | .s8f32 => BitVec.ofNat 32 ((quantiseInt x (-128) 127 rm) % 256).toNat
  | .f32s8 => ne32 (FV.ofQ (Q.ofInt (BitVec.ofNat 8 n).toInt))

/-- `PACK` (R136). -/
def packWord (f : PackForm) (a b d : Word) : Word :=
  let two := fun (F : Fmt) =>
    BitVec.ofNat 32 (quantise (value .f32 a.toNat) F .rn false + 65536 * quantise (value .f32 b.toNat) F .rn false)
  let fp8 := fun (F : Fmt) =>
    quantise (value .f32 a.toNat) F .rn true + 256 * quantise (value .f32 b.toNat) F .rn true
  match f with
  | .f16x2 => two .f16
  | .bf16x2 => two .bf16
  | .e4m3lo => BitVec.ofNat 32 (65536 * hiHalf d + fp8 .e4m3)
  | .e4m3hi => BitVec.ofNat 32 (loHalf d + 65536 * fp8 .e4m3)
  | .e5m2lo => BitVec.ofNat 32 (65536 * hiHalf d + fp8 .e5m2)
  | .e5m2hi => BitVec.ofNat 32 (loHalf d + 65536 * fp8 .e5m2)

/-- Whether a form of `PACK` reads its destination (R136). -/
def PackForm.readsD : PackForm → Bool
  | .f16x2 | .bf16x2 => false
  | .e4m3lo | .e4m3hi | .e5m2lo | .e5m2hi => true

/-- `UNPK` (R137). -/
def unpkWord (f : UnpkForm) (a : Word) : Word :=
  let byte := fun k => a.toNat / 256 ^ k % 256
  match f with
  | .f16lo => widen .f16 (loHalf a)
  | .f16hi => widen .f16 (hiHalf a)
  | .bf16lo => widen .bf16 (loHalf a)
  | .bf16hi => widen .bf16 (hiHalf a)
  | .e4m3b0 => widen .e4m3 (byte 0)
  | .e4m3b1 => widen .e4m3 (byte 1)
  | .e4m3b2 => widen .e4m3 (byte 2)
  | .e4m3b3 => widen .e4m3 (byte 3)
  | .e5m2b0 => widen .e5m2 (byte 0)
  | .e5m2b1 => widen .e5m2 (byte 1)
  | .e5m2b2 => widen .e5m2 (byte 2)
  | .e5m2b3 => widen .e5m2 (byte 3)

/-! ### Meanings -/

/-- `FADD` (R128). -/
def execFadd (d a b : Reg) (ty : FTy) (rm : Rm) (s : State) : Host.Outcome State Fault Refusal :=
  .next (s.alu2 d a b (elements2 ty (faddBits rm)))

/-- `FSUB` (R128). -/
def execFsub (d a b : Reg) (ty : FTy) (rm : Rm) (s : State) : Host.Outcome State Fault Refusal :=
  .next (s.alu2 d a b (elements2 ty (fsubBits rm)))

/-- `FMUL` (R128). -/
def execFmul (d a b : Reg) (ty : FTy) (rm : Rm) (s : State) : Host.Outcome State Fault Refusal :=
  .next (s.alu2 d a b (elements2 ty (fmulBits rm)))

/-- `FFMA` (R128): one rounding. -/
def execFfma (d a b : Reg) (ty : FTy) (rm : Rm) (s : State) : Host.Outcome State Fault Refusal :=
  .next (s.alu3 d a b (elements3 ty (ffmaBits rm)))

/-- `FMIN` (R129). -/
def execFmin (d a b : Reg) (ty : FTy) (s : State) : Host.Outcome State Fault Refusal :=
  .next (s.alu2 d a b (elements2 ty fminBits))

/-- `FMAX` (R129). -/
def execFmax (d a b : Reg) (ty : FTy) (s : State) : Host.Outcome State Fault Refusal :=
  .next (s.alu2 d a b (elements2 ty fmaxBits))

/-- `FCMP` (R130). -/
def execFcmp (p a b : Reg) (cc : Fcc) (s : State) : Host.Outcome State Fault Refusal :=
  .next (s.cmp2 p a b (Fcc.holds cc))

/-- `FCLASS` (R131). -/
def execFclass (d a : Reg) (s : State) : Host.Outcome State Fault Refusal :=
  .next (s.alu1 d a fclass)

/-- `CVT` (R135). -/
def execCvt (d a : Reg) (c : CvtCode) (sat : Bool) (rm : Rm) (s : State) : Host.Outcome State Fault Refusal :=
  .next (s.alu1 d a (cvt c sat rm))

/-- `FRND` (R132). -/
def execFrnd (d a : Reg) (ty : FTy) (rm : Rm) (s : State) : Host.Outcome State Fault Refusal :=
  .next (s.alu1 d a (elements1 ty (frndBits rm)))

/-- `RCP` (R133). -/
def execRcp (d a : Reg) (s : State) : Host.Outcome State Fault Refusal := .next (s.alu1 d a frcp)

/-- `RSQ` (R133). -/
def execRsq (d a : Reg) (s : State) : Host.Outcome State Fault Refusal := .next (s.alu1 d a frsq)

/-- `SQRT` (R133). -/
def execSqrt (d a : Reg) (s : State) : Host.Outcome State Fault Refusal := .next (s.alu1 d a fsqrt)

/-- `EXP2` (R133). -/
def execExp2 (d a : Reg) (s : State) : Host.Outcome State Fault Refusal := .next (s.alu1 d a fexp2)

/-- `LOG2` (R133). -/
def execLog2 (d a : Reg) (s : State) : Host.Outcome State Fault Refusal := .next (s.alu1 d a flog2)

/-- `SIN` (R133). -/
def execSin (d a : Reg) (s : State) : Host.Outcome State Fault Refusal := .next (s.alu1 d a fsin)

/-- `COS` (R133). -/
def execCos (d a : Reg) (s : State) : Host.Outcome State Fault Refusal := .next (s.alu1 d a fcos)

/-- `TANH` (R133). -/
def execTanh (d a : Reg) (s : State) : Host.Outcome State Fault Refusal := .next (s.alu1 d a ftanh)

/-- `FDOT2` (R134). -/
def execFdot2 (d a b : Reg) (ty : FTy) (rm : Rm) (s : State) : Host.Outcome State Fault Refusal :=
  .next (s.alu3 d a b (fdot2 ty rm))

/-- `FDIV` (R133). -/
def execFdiv (d a b : Reg) (s : State) : Host.Outcome State Fault Refusal := .next (s.alu2 d a b fdiv)

/-- `PACK` (R136). -/
def execPack (d a b : Reg) (f : PackForm) (s : State) : Host.Outcome State Fault Refusal :=
  .next (if PackForm.readsD f then s.alu3 d a b (packWord f) else s.alu2 d a b fun x y => packWord f x y 0)

/-- `UNPK` (R137). -/
def execUnpk (d a : Reg) (f : UnpkForm) (s : State) : Host.Outcome State Fault Refusal :=
  .next (s.alu1 d a (unpkWord f))

end Sys2Proof.Machine
end

