-- ==== Sys2Proof/Machine/Interlock.lean ====
section
/-! DEFINITION. The operands of every instruction word, and the tiles that it names, by which the readiness of its group is decided
before it issues (R54, R77, R295). The operands are what the word's own meaning hands to `State.issue`. -/

namespace Sys2Proof.Machine

/-- d := f A. -/
def oneSource (d a : Reg) : Operands := { named := [d.toNat, a.toNat], reads := [a.toNat] }

/-- d := f A B. -/
def twoSources (d a b : Reg) : Operands := { named := [d.toNat, a.toNat, b.toNat], reads := [a.toNat, b.toNat] }

/-- d := f A B D. -/
def threeSources (d a b : Reg) : Operands :=
  { named := [d.toNat, a.toNat, b.toNat], reads := [a.toNat, b.toNat, d.toNat] }

/-- A pair from two pairs. -/
def pairOperands (d a b : Reg) : Operands :=
  { named := [d.toNat, d.toNat + 1, a.toNat, a.toNat + 1, b.toNat, b.toNat + 1]
    reads := [a.toNat, a.toNat + 1, b.toNat, b.toNat + 1] }

/-- A pair from two words and itself. -/
def accOperands (d a b : Reg) : Operands :=
  { named := [d.toNat, d.toNat + 1, a.toNat, b.toNat], reads := [a.toNat, b.toNat, d.toNat, d.toNat + 1] }

/-- The operands of an instruction word; an event has none. Those of `HGRID` leave out its destinations, whose number stands in a
register. -/
def operandsOf (i : Instr) : Operands :=
  match i with
  | .nop | .mark _ | .join _ | .leave _ | .mmovMm _ _ | .smovi _ _ | .mmovSm _ _ => {}
  | .txa _ | .setfmt _ | .tmovRel _ | .tstat _ _ => {}
  | .txb | .txbIrr | .txe _ | .fence _ _ | .mrdy | .waitm _ => { ends := true }
  | .exit | .winb _ | .trap _ | .trapBrk _ => { barred := true, ends := true }
  | .eret => { barred := true, ends := true, endsAll := true }
  | .bra _ => { barred := true }
  | .grd k _ _ => { preds := [k.toNat], barred := true }
  | .brc _ p _ => { preds := [p.toNat], barred := true }
  | .brx a => { named := block a 2, reads := block a 2, barred := true }
  | .call _ => { named := [28, 29], barred := true }
  | .callx a => { named := [28, 29] ++ block a 2, reads := block a 2, barred := true }
  | .ret => { named := [28, 29], reads := [28, 29], barred := true }
  | .bar _ a | .barArrive _ a => { ureads := [a.toNat], ends := true }
  | .reord a => { named := [a.toNat], reads := [a.toNat], barred := true, ends := true }
  | .iadd d a b it | .isub d a b it => if it = .b64 then pairOperands d a b else twoSources d a b
  | .imul d a b | .imulh d a b _ | .and d a b _ | .or d a b _ | .xor d a b _ | .shl d a b | .shr d a b | .sar d a b
  | .bfe d a b _ | .imin d a b _ | .imax d a b _ | .fadd d a b _ _ | .fsub d a b _ _ | .fmul d a b _ _
  | .fmin d a b _ | .fmax d a b _ | .fdiv d a b => twoSources d a b
  | .bfi d a b | .ffma d a b _ _ | .fdot2 d a b _ _ => threeSources d a b
  | .imad d a b f => match f with | .b32 => threeSources d a b | .n64 | .s64 => accOperands d a b
  | .iaddi d a _ | .andi d a _ | .ori d a _ | .shlI d a _ | .shrI d a _ | .sarI d a _ | .popc d a | .clz d a
  | .fclass d a | .cvt d a _ _ _ | .frnd d a _ _ | .rcp d a | .rsq d a | .sqrt d a | .exp2 d a | .log2 d a | .sin d a
  | .cos d a | .tanh d a | .unpk d a _ => oneSource d a
  | .icmp _ a b _ | .fcmp _ a b _ => { named := [a.toNat, b.toNat], reads := [a.toNat, b.toNat] }
  | .sel d a b p => { twoSources d a b with preds := [p.toNat] }
  | .movi d _ | .txq d | .drawKey d | .drawCtr d | .drawInt d | .drawF32 d => { named := [d.toNat] }
  | .movhi d _ => oneSource d d
  | .pack d a b f => if PackForm.readsD f then threeSources d a b else twoSources d a b
  | .sadd _ a b it => if it = .b64 then { ureads := block a 2 ++ block b 2 } else { ureads := [a.toNat, b.toNat] }
  | .smul _ a b _ | .slog _ a b _ | .sshf _ a b _ | .scmp _ a b _ => { ureads := [a.toNat, b.toNat] }
  | .smovhi d _ => { ureads := [d.toNat] }
  | .bcast d a => { named := [d.toNat], ureads := [a.toNat], perLane := true }
  | .jred _ a _ | .pmovPv _ a | .drawSetc a => { named := [a.toNat], reads := [a.toNat] }
  | .ballot _ p _ => { preds := [p.toNat] }
  | .grow _ a _ | .mmovMs _ a => { ureads := [a.toNat] }
  | .sld _ a _ _ _ | .asupd a | .tmovDef _ a => { ureads := block a 2 }
  | .plog _ a b _ => { preds := [a.toNat, b.toNat] }
  | .pmovVp d a => { named := [d.toNat], preds := [a.toNat] }
  | .pmovPp _ a => { preds := [a.toNat] }
  | .idr d f =>
    match f with | .wid | .wid0 => { named := block d 2 } | .lane | .jet | .basin | .core => { named := [d.toNat] }
  | .ldG d a _ sz _ | .ldnr d a _ sz _ => { named := block d (Size.regs sz) ++ block a 2, reads := block a 2 }
  | .stG d a _ sz => { named := block d (Size.regs sz) ++ block a 2, reads := block d (Size.regs sz) ++ block a 2 }
  | .lds d a _ sz _ => { named := block d (Size.regs sz) ++ [a.toNat], reads := [a.toNat] }
  | .sts d a _ sz => { named := block d (Size.regs sz) ++ [a.toNat], reads := block d (Size.regs sz) ++ [a.toNat] }
  | .atom d a _ _ _ _ => { named := [d.toNat] ++ block a 2, reads := [d.toNat] ++ block a 2 }
  | .atoms d a _ _ _ _ => { named := [d.toNat, a.toNat], reads := [d.toNat, a.toNat] }
  | .cas d a _ _ _ => { named := block d 2 ++ block a 2, reads := block d 2 ++ block a 2 }
  | .pgreq a | .pref a _ _ => { named := block a 2, reads := block a 2 }
  | .copy a _ _ => { ureads := block a 8 }
  | .waitge a b _ _ | .ctradd a b _ _ => { ureads := block a 2 ++ block b 2 }
  | .rsvi q => { rsv := [q.toNat] }
  | .rsvu q a b =>
    { named := block a 2 ++ [b.toNat], reads := block a 2 ++ [b.toNat], rsv := [q.toNat], rsvReads := [q.toNat] }
  | .rsvm q r b _ =>
    { named := [b.toNat], reads := [b.toNat], rsv := [q.toNat, r.toNat], rsvReads := [q.toNat, r.toNat] }
  | .rsvf d q | .rsvxGet d q _ => { named := [d.toNat], rsv := [q.toNat], rsvReads := [q.toNat] }
  | .rsvxSet q a _ => { named := [a.toNat], reads := [a.toNat], rsv := [q.toNat] }
  | .rsvld q a _ sp _ => match sp with
    | .g => { named := block a 2, reads := block a 2, rsv := [q.toNat] }
    | .s => { named := [a.toNat], reads := [a.toNat], rsv := [q.toNat] }
  | .rsvst q a _ sp => match sp with
    | .g => { named := block a 2, reads := block a 2, rsv := [q.toNat], rsvReads := [q.toNat] }
    | .s => { named := [a.toNat], reads := [a.toNat], rsv := [q.toNat], rsvReads := [q.toNat] }
  | .drawSeed a b => { named := [a.toNat, b.toNat], reads := [a.toNat, b.toNat] }
  | .mmavVv c a b => { named := block a 8 ++ block b 8, reads := block a 8 ++ block b 8, acc := [c.toNat] }
  | .mmavVt c a _ => { named := block a 8, reads := block a 8, acc := [c.toNat] }
  | .mloop c _ _ k => { acc := [c.toNat], ureads := (List.range 8).map fun i => 8 * k.toNat + i }
  | .mwait c | .amovZero c | .amovTile _ c => { acc := [c.toNat] }
  | .tmovRd d _ b => { named := [d.toNat], ureads := [b.toNat] }
  | .tmovWr _ a b => { named := [a.toNat], reads := [a.toNat], ureads := [b.toNat] }
  | .amovRd d c b => { named := [d.toNat], acc := [c.toNat], ureads := [b.toNat] }
  | .amovWr c a b => { named := [a.toNat], reads := [a.toNat], acc := [c.toNat], ureads := [b.toNat] }
  | .trace d a b => { named := [d.toNat] ++ block a 10, reads := block a 10, ureads := [b.toNat] }
  | .trwait d a => { named := block d 8 ++ [a.toNat], reads := [a.toNat] }
  | .trresAcc a b => { named := [a.toNat, b.toNat], reads := [a.toNat, b.toNat] }
  | .trresIgn a | .trresTerm a | .trresRetry a | .trcan a => { named := [a.toNat], reads := [a.toNat] }
  | .trrec d a _ => { named := block d 8 ++ [a.toNat], reads := [a.toNat] }
  | .texf d a b _ => { named := block d 4 ++ block a 3, reads := block a 3, ureads := block b 8 }
  | .hgrid _ a b _ => { named := block a 3, reads := block a 3, ureads := block b 8 }
  | .mfs d _ => { named := [d.toNat], barred := true }
  | .mts d imm => { named := [d.toNat], reads := [d.toNat], barred := true, ends := decide (imm = 9) }
  | .reordRepack _ | .growPerform _ _ _ | .trapEntry _ _ | .launchPacket _ _ | .copyPacket _ _
  | .structureUpdatePacket _ _ | .counterWaitSatisfied _ _ | .staging _ | .tailPoll _ _ | .basinPlace _
  | .placementWaitTimeout _ | .launchComplete _ | .basinExit _ | .rotationSwap _ _ | .jetWake _ _
  | .longWriteLands _ _ _ | .storePerformed _ | .writeDropReport _ | .storeAck _ | .atomicPerform _ _ _
  | .requestAgePromotion _ _ _ | .faultResolved _ | .faultUnresolvable _ | .pageRequestServiced _ | .migration _ _ _
  | .copyService _ _ | .copyComplete _ | .copyFaultEnd _ | .waitgeSatisfied _ _ _ | .txSlotGrant _ | .tokenGrant
  | .txCommit _ _ _ | .timeout _ _ _ | .matrixOpComplete _ _ | .filterLookup _ _ _ | .rayArrive _ | .enginePick _
  | .rayTraverse _ | .nodeVersionTimeout _ | .answerArrives _ | .sueUpdate | .config | .linkDown _
  | .flitCrcFailure _ | .moduleStart | .startStepTimeout _ | .powerClockStep _ | .queueFirmwareSwap _ _
  | .getconfig _ | .setpower _ | .invalidate _ | .endlaunch _ | .resolve _ | .refuse _ | .report _ | .update _
  | .setparam _ | .clearjournal _ | .readlog _ | .contextDescriptorWrite _ _ _ _ | .queueDescriptorWrite _ _ _ _ _
  | .controlSpaceWrite _ _ _ | .storePointPassed _ _ | .peerForwarding | .eccScrubbing _ => {}

/-! ### Tiles named by an instruction (R295) -/

/-- The class of a code as `formatClass` numbers it: 0 C32, 1 C16, 2 C8I, 3 C8F, 4 CMX (Table 19.2). -/
def codeClass (f : Nat) : Nat := (formatClass f).getD 4

/-- The tiles that an operation names. -/
def MatKind.tiles (k : MatKind) (cls : Nat) : List Nat :=
  match k with
  | .vv _ _ => []
  | .vt _ t _ => [t]
  | .loop ta tb ps =>
    let w3 := ((ps[3]?).getD 0).toNat
    [ta, tb] ++ (if ((ps[2]?).getD 0).toNat / 2 % 4 ≠ 0 then [w3 % 64] else [])
      ++ (if cls = 4 then [w3 / 256 % 64, w3 / 65536 % 64] else [])

/-! ### Copy descriptors (Table 11.7) -/

/-- One side of a copy: 0 global, 1 scratchpad, 2 tile; its address and stride. -/
structure CopySide where
  kind : Nat
  addr : Nat
  stride : Nat
  deriving DecidableEq, Repr

/-- A copy descriptor. -/
structure CopyDesc where
  src : CopySide
  dst : CopySide
  ctr : Nat
  inc : Nat
  rows : Nat
  width : Nat
  slack : Nat
  deriving DecidableEq, Repr

def copyDesc (ws : List Word) : CopyDesc :=
  let w := fun i => ((ws[i]?).getD 0).toNat
  { src := ⟨w 7 / 16777216 % 4, w 0 + 4294967296 * (w 1 % 65536), w 6 % 16777216⟩
    dst := ⟨w 7 / 67108864 % 4, w 2 + 4294967296 * (w 1 / 65536), w 7 % 16777216⟩
    ctr := w 3 / 8 * 8 + 4294967296 * (w 4 / 65536), inc := w 4 % 65536
    rows := w 5 / 65536 + 1, width := w 5 % 65536 + 1, slack := w 6 / 16777216 }

/-- The tiles that an instruction word names, directly or through its parameter block or descriptor (R295). -/
def tilesNamed (mode : Nat) (sreg : Nat → Word) (i : Instr) : List Nat :=
  match i with
  | .mmavVt _ _ t | .tmovDef t _ | .tmovRd _ t _ | .tmovWr t _ _ | .tmovRel t | .amovTile t _ => [t.toNat]
  | .mloop _ a b k =>
    (MatKind.loop a.toNat b.toNat ((List.range 8).map fun n => sreg (8 * k.toNat + n))).tiles (codeClass (mode % 16))
  | .copy a _ _ =>
    let d := copyDesc ((block a 8).map sreg)
    (if d.src.kind = 2 then [d.src.addr] else []) ++ (if d.dst.kind = 2 then [d.dst.addr] else [])
  | _ => []

end Sys2Proof.Machine
end

