-- ==== Sys2Proof/Machine/ControlSpace.lean ====
section
/-! DEFINITION. The on-package control space: what a write to one of its registers does (R404, R406, R408, R410). -/

namespace Sys2Proof.Machine

/-- Sets a byte of the control space, keeping the canonical form. -/
def State.setCtl8 (s : State) (off : Nat) (v : Byte) : State := { s with ctl := Cells.set 0 s.ctl off v }

/-- The controller's own write of the `n` low bytes of a number. -/
def State.setCtl (s : State) (off v : Nat) : Nat → State
  | 0 => s
  | n + 1 => (s.setCtl8 off (BitVec.ofNat 8 v)).setCtl (off + 1) (v / 256) n

/-- The controller's own write of bytes. -/
def State.setCtlBytes (s : State) (off : Nat) : List Byte → State
  | [] => s
  | b :: rest => (s.setCtl8 off b).setCtlBytes (off + 1) rest

/-- The mask of the bits that a byte of a context descriptor holds (Table 27.4); reserved bits stay zero. -/
def contextMask (off : Nat) : Byte :=
  if off = 0 then 0x07
  else if off < 8 then 0
  else if off < 0x30 then 0xFF
  else if off = 0x30 then 0x0F
  else if off < 0x34 then 0
  else if off = 0x34 then 0x3F
  else if off < 0x38 then 0
  else 0xFF

/-- A context whose descriptor has VALID set is resident (R406). -/
def State.resident (s : State) (c : Nat) : Bool := (s.ctl8 (0x10000 + 64 * c)).getLsbD 0

/-- A descriptor whose VALID is set names a good policy and a good save pool (R406, R407). -/
def State.contextOk (s : State) (c : Nat) : Bool :=
  let log := s.ctxField c 0x34 4 % 64
  let pool := s.ctxField c 0x38 8
  decide (s.ctxField c 0 4 / 2 % 4 ≠ 3) && (decide (log = 0) || decide (12 ≤ log ∧ log ≤ 40))
    && decide (pool % 2 ^ log = 0 ∧ pool < 2 ^ 48)

/-- Stores the bytes of a write to the control space at `base`, each under its mask. -/
def State.putMasked (s : State) (base : Nat) (mask : Nat → Byte) (data : Cells Byte) : State :=
  data.foldl (fun s e => s.setCtl8 (base + e.1) (e.2 &&& mask e.1)) s

/-- A launch of a context has been accepted and has not ended. -/
def State.hasLaunch (s : State) (c : Nat) : Bool := s.launches.any fun e => decide (e.2.ctx = c)

/-- One write of bytes to a context descriptor (R406, R407). -/
def State.writeContext (s : State) (c : Nat) (data : Cells Byte) : State :=
  let base := 0x10000 + 64 * c
  if s.resident c then
    match data.find? fun e => decide (e.1 = 0) with
    | some e =>
      if e.2.getLsbD 0 then s
      else if s.hasLaunch c then s.logError 0x7D0 6 0 c
      else s.putMasked base contextMask data
    | none => s
  else
    let t := s.putMasked base contextMask data
    if t.resident c = true ∧ t.contextOk c = false then s.logError 0x7D0 7 0 c else t

/-- The offset of a queue descriptor (Table 27.2). -/
def queueOffset (c q : Nat) : Nat := 0x20000 + 0x2000 * c + 32 * q

/-- The mask of the bits that a byte of a queue descriptor holds (Table 27.5). -/
def queueMask (off : Nat) : Byte :=
  if off < 0x18 then 0xFF else if off = 0x18 then 0xDF else if off = 0x19 then 0x01 else 0

/-- ENABLE of a queue. -/
def State.queueEnabled (s : State) (c q : Nat) : Bool := (s.ctl8 (queueOffset c q + 0x19)).getLsbD 0

/-- What the controller keeps of a queue, by context and number. -/
def State.queue (s : State) (c q : Nat) : Queue := Cells.get {} s.wh.queues (256 * c + q)

def State.setQueue (s : State) (c q : Nat) (x : Queue) : State :=
  { s with wh := { s.wh with queues := s.wh.queues.put (256 * c + q) x } }

/-- One write of bytes to a queue descriptor (R408). Enabling a queue that no packet holds back starts its counts from zero
(log 22). -/
def State.writeQueue (s : State) (c q : Nat) (data : Cells Byte) : State :=
  let base := queueOffset c q
  if s.queueEnabled c q then
    match data.find? fun e => decide (e.1 = 0x19) with
    | some e => if e.2.getLsbD 0 then s else s.putMasked base queueMask data
    | none => s
  else
    let t := s.putMasked base queueMask data
    let k := s.queue c q
    if t.queueEnabled c q = true ∧ k.launch.isNone = true ∧ k.packet.isNone = true then
      t.setQueue c q { firmware := k.firmware }
    else t

/-- STATUS of a mailbox reads busy (R410). -/
def State.mailboxBusy (s : State) : Bool := decide (s.ctlNat 0x1004 4 = 1)

/-- One write of bytes to the host mailbox (R410): a command word starts a command unless one is running. Table 27.2
gives the whole mailbox RW, R410 has the controller set STATUS, and the spec does not say what a host write of STATUS does: the model
drops it (DESIGN CHOICE, log 69). -/
def State.writeMailbox (s : State) (data : Cells Byte) : State :=
  let busy := s.mailboxBusy
  let kept := data.filter fun e => !(decide (4 ≤ e.1 ∧ e.1 < 8)) && !(busy && decide (e.1 < 4))
  let t := s.putMasked 0x1000 (fun _ => 0xFF) kept
  if kept.any fun e => decide (e.1 < 4) then t.setCtl 0x1004 1 4 else t

/-- Bytes of a write that fall into a part of the control space, at offsets from its start. -/
def partOf (data : Cells Byte) (lo n : Nat) : Cells Byte :=
  (data.filter fun e => decide (lo ≤ e.1 ∧ e.1 < lo + n)).map fun e => (e.1 - lo, e.2)

/-- The 64-byte and 32-byte units that a write touches from an offset on. -/
def unitsOf (data : Cells Byte) (lo n size : Nat) : List Nat :=
  ((data.filter fun e => decide (lo ≤ e.1 ∧ e.1 < lo + n)).map fun e => (e.1 - lo) / size).foldl insertKey []

/-- One write request to the control space, its bytes by offset: read-only parts ignore it (R404). -/
def State.controlWrite (s : State) (data : Cells Byte) : State :=
  let s := if (partOf data 0x1000 0x1000).isEmpty then s else s.writeMailbox (partOf data 0x1000 0x1000)
  let s := (unitsOf data 0x10000 0x1000 64).foldl (fun s c =>
    s.writeContext c (partOf data (0x10000 + 64 * c) 64)) s
  (unitsOf data 0x20000 0x80000 32).foldl (fun s u =>
    s.writeQueue (u / 256) (u % 256) (partOf data (0x20000 + 32 * u) 32)) s

end Sys2Proof.Machine
end

