-- ==== Sys2Proof/Machine/Translate.lean ====
section
/-! DEFINITION. The physical address map, the home copy of memory with its poison, page tables and TLBs (R15 to R20, R124,
R186 to R191, R217, R219, R401, R404, R421). -/

namespace Sys2Proof.Machine

/-! ### Physical map -/

/-- What a physical address names (Tables 1.4, 27.1, 27.2). -/
inductive Region where
  /-- HBM of a stack. -/
  | hbm (stack : Nat)
  /-- A populated offset of the on-package control space. -/
  | control (off : Nat)
  | host
  | peer (n : Nat)
  | unpopulated
  deriving DecidableEq, Repr

def gib : Nat := 1073741824

/-- L in force, in GiB (Table 27.3, LNOW). -/
def State.share (s : State) : Nat := s.ctlNat 0x1C 4

/-- C_s in force, in GiB (Table 27.3, CAP). -/
def State.cap (s : State) (st : Nat) : Nat := (s.ctl8 (0x20 + st)).toNat

/-- Exclusive or of the nibbles of a granule index (R18). -/
def xorNibbles : Nat → Nat → Nat
  | 0, _ => 0
  | n + 1, g => Nat.xor (g % 16) (xorNibbles n (g / 16))

/-- StackOf of R18. -/
def stackOf (pa : Nat) : Nat := xorNibbles 8 (pa / 512)

/-- StackOffset of R18. -/
def stackOffset (pa : Nat) : Nat := pa / 512 / 16 * 512 + pa % 512

/-- The populated offsets of the control space (Table 27.2). -/
def ctlPopulated (off : Nat) : Bool :=
  decide (off < 0x2000) || decide (0x10000 ≤ off ∧ off < 0x11000) || decide (0x20000 ≤ off ∧ off < 0xA0000)
    || decide (0x100000 ≤ off ∧ off < 0x100100) || decide (0x200000 ≤ off ∧ off < 0x300000)

/-- The offset in the control space of an address that lies in it: the space begins at a multiple of its size. -/
def ctlOffset (pa : Nat) : Nat := pa % 0x80000000000

/-- The map of Table 1.4. Each region begins at a multiple of the unit by which its offsets are read. -/
def State.region (s : State) (pa : Nat) : Region :=
  if pa < 16 * (gib * s.share) then .hbm (stackOf pa)
  else if pa < 0x100000000000 then .unpopulated
  else if pa < 0x180000000000 then
    let st := pa % 0x100000000000 / 0x1000000000
    if st < 16 ∧ pa % 0x1000000000 < gib * (s.cap st - s.share) then .hbm st else .unpopulated
  else if pa < 0x200000000000 then
    if ctlPopulated (ctlOffset pa) then .control (ctlOffset pa) else .unpopulated
  else if pa < 0x280000000000 then .host
  else if pa < 0x300000000000 then .unpopulated
  else if pa < 0x400000000000 then .peer (pa % 0x100000000000 / 0x10000000000)
  else .unpopulated

/-- A system-window region that can be reached: the host port is up; another device with a route over a port that is up
(R401, R403). -/
def State.routed (s : State) (r : Region) : Bool :=
  match r with
  | .host => !s.wh.down.contains 15
  | .peer n =>
    decide (n ≠ s.wh.params.devno)
      && (match s.wh.params.routes.get? n with | some p => !s.wh.down.contains p | none => false)
  | .hbm _ | .control _ => true
  | .unpopulated => false

def State.isHbm (s : State) (pa : Nat) : Bool := match s.region pa with | .hbm _ => true | _ => false

/-- In the system window. -/
def inWindow (pa : Nat) : Bool := decide (0x200000000000 ≤ pa)

/-- In the on-package control space. -/
def inControl (pa : Nat) : Bool := decide (0x180000000000 ≤ pa ∧ pa < 0x200000000000)

/-! ### The home copy -/

/-- A byte of the control space as it reads: error records of the ring have a layout of their own (R404, log 12); the write
index of the ring stands in the device block (R405). -/
def State.ctlByte (s : State) (off : Nat) : Byte :=
  if 0x160 ≤ off ∧ off < 0x164 then BitVec.ofNat 8 (s.errorCount % 16384 / 256 ^ (off - 0x160))
  else if 0x200000 ≤ off ∧ off < 0x300000 then
    let slot := off / 64 % 16384
    match s.errors.find? fun e => decide (e.seq % 16384 = slot) with
    | some e => Config.errorByte e.seq e.cycle e.unit e.kind e.pa e.ctx (off % 64)
    | none => 0
  else s.ctl8 off

/-- The byte that the home copy holds. -/
def State.homeByte (s : State) (pa : Nat) : Byte :=
  if inControl pa then s.ctlByte (ctlOffset pa) else Cells.get 0 s.mem pa

def bytesNat (f : Nat → Byte) (pa : Nat) : Nat → Nat
  | 0 => 0
  | n + 1 => (f pa).toNat + 256 * bytesNat f (pa + 1) n

/-- Little-endian number of `n` bytes at the home copy. -/
def State.homeNat (s : State) (pa n : Nat) : Nat := bytesNat s.homeByte pa n

/-- Writes one byte of memory. -/
def State.poke (s : State) (pa : Nat) (v : Byte) : State := { s with mem := Cells.set 0 s.mem pa v }

/-- Writes the `n` low bytes of a number, little-endian. -/
def State.pokeNat (s : State) (pa v : Nat) : Nat → State
  | 0 => s
  | n + 1 => (s.poke pa (BitVec.ofNat 8 v)).pokeNat (pa + 1) (v / 256) n

def removeKey (l : List Nat) (k : Nat) : List Nat := l.filter fun x => !decide (x = k)

/-- What stands in the context field of an error record of no context, such as one that patrol scrubbing logs: no context number
(log 12). -/
def noContext : Nat := 64

/-- Marks a granule poisoned and logs it, with the context of the access that finds the error, where it has one (R217, R404). -/
def State.poisonGranule (s : State) (g : Nat) (ctx : Nat := noContext) : State :=
  { s with poison := insertKey s.poison g, latent := removeKey s.latent g }.logError 0x11 1 (32 * g) ctx

/-- A read of a granule finds an uncorrectable error that waits there, which poisons it (R217). -/
def State.scrub (s : State) (ctx g : Nat) : State := if s.latent.contains g then s.poisonGranule g ctx else s

def State.poisoned (s : State) (pa : Nat) : Bool := s.poison.contains (pa / 32)

/-- The granules that `n` bytes at an address touch. -/
def granules (pa n : Nat) : List Nat := (List.range ((pa + n - 1) / 32 - pa / 32 + 1)).map fun i => pa / 32 + i

/-- A read at the home copy: the state after errors it finds are marked, and whether it meets poison (R217, R218). -/
def State.homeCheck (s : State) (pa n : Nat) (ctx : Nat := noContext) : State × Bool :=
  let s := (granules pa n).foldl (fun s g => s.scrub ctx g) s
  (s, (granules pa n).any fun g => s.poison.contains g)

/-- Performs at the home copy the bytes of one request that fall in granule `g` (R219): a write of the whole granule clears
its poison; a narrower one is not performed on poison, or on an error that its read finds and poisons, and one record is
logged. The flag tells that it was dropped. -/
def State.writeGranule (s : State) (base : Nat) (data : Cells Byte) (g : Nat) (ctx : Nat := noContext) : State × Bool :=
  let mine := data.filter fun e => decide ((base + e.1) / 32 = g)
  if s.isHbm (32 * g) = false then (mine.foldl (fun s e => s.poke (base + e.1) e.2) s, false)
  else if mine.length = 32 then
    (mine.foldl (fun s e => s.poke (base + e.1) e.2)
      { s with poison := removeKey s.poison g, latent := removeKey s.latent g }, false)
  else if s.latent.contains g then (s.poisonGranule g ctx, true)
  else if s.poison.contains g then (s.logError 0x11 1 (32 * g) ctx, true)
  else (mine.foldl (fun s e => s.poke (base + e.1) e.2) s, false)

/-- Keeps the words that a write is about to change, for fetches of code that is being rewritten (R244). -/
def State.keepOld (s : State) (base : Nat) (data : Cells Byte) : State :=
  if s.launches.isEmpty then s
  else
    let ws := data.foldl (fun l e => insertKey l ((base + e.1) / 4)) []
    { s with stale := ws.map (fun w => (w, BitVec.ofNat 32 (s.homeNat (4 * w) 4), s.tick)) ++ s.stale }

/-- Performs a write request of one 128-byte line; true when a narrow part of it was dropped (R219, R221). A write to the
control space acts on its registers (R404). -/
def State.homeWrite (s : State) (base : Nat) (data : Cells Byte) (ctx : Nat := noContext) : State × Bool :=
  if inControl base then
    (s.controlWrite (data.map fun e => (ctlOffset (base + e.1), e.2)), false)
  else [0, 1, 2, 3].foldl (fun (r : State × Bool) k =>
    let g := base / 32 + k
    if data.any fun e => decide ((base + e.1) / 32 = g) then
      let (s, d) := r.1.writeGranule base data g ctx
      (s, r.2 || d)
    else r) (s.keepOld base data, false)

/-- The bytes of a number as request data at an offset of a line. -/
def numData (off v : Nat) : Nat → Cells Byte
  | 0 => []
  | n + 1 => (off, BitVec.ofNat 8 v) :: numData (off + 1) (v / 256) n

/-- Writes `n` bytes of a number at the home copy, as one request. -/
def State.homePut (s : State) (pa v n : Nat) (ctx : Nat := noContext) : State × Bool :=
  s.homeWrite (pa / 128 * 128) (numData (pa % 128) v n) ctx

/-- Writes bytes at consecutive addresses of memory. -/
def State.pokeBytes (s : State) (pa : Nat) : List Byte → State
  | [] => s
  | b :: rest => (s.poke pa b).pokeBytes (pa + 1) rest

/-- Exclusive or of `n` fields of `w` bits of a line number (R124). -/
def xorFields (w : Nat) : Nat → Nat → Nat
  | 0, _ => 0
  | n + 1, ln => Nat.xor (ln % 2 ^ w) (xorFields w n (ln / 2 ^ w))

/-- HomeSlice of R124: the slice that orders accesses to a line. -/
def homeSlice (pa : Nat) : Nat :=
  if 0x100000000000 ≤ pa ∧ pa < 0x180000000000 then
    64 * (pa % 0x100000000000 / 0x1000000000 / 2) + xorFields 6 7 (pa / 128)
  else xorFields 9 5 (pa / 128)

/-- The number of the I/O die among the nodes of the mesh (R21): the shader dies are 0 to 7. -/
def ioNode : Nat := 8

/-- The node of the mesh at which a request to an address ends (R21, R124): the shader die that holds its home slice, or the I/O
die for the control space, whose lines have none (log 68). -/
def homeNode (pa : Nat) : Nat := if inControl pa then ioNode else homeSlice pa / 64

/-- The irrevocable lane of another agent holds the line: the access waits (R268, R270). -/
def State.lineHeld (s : State) (pa : Nat) : Bool := s.token.holder.isSome && s.token.lines.contains (pa / 128)

/-! ### Translation -/

/-- Kinds of access to a page (R188). -/
inductive Access where
  | read | write | fetch
  deriving DecidableEq, Repr

/-- The outcome of a translation: a physical address, or a fault kind of Table 11.6 and whether it was found at a level-0
entry; or the walk must wait, since the irrevocable lane holds a line of the page table (R268). -/
inductive Walk where
  | ok (pa : Nat)
  | fault (kind : BitVec 4) (level0 : Bool)
  | held
  deriving DecidableEq, Repr

/-- log2 of the bytes that an entry of a level spans (R186). -/
def levelBits (level : Nat) : Nat := 12 + 9 * level

/-- FRAME of an entry, as an address (Table 11.5). -/
def pteFrame (e : Nat) : Nat := 4096 * (e / 4096 % 2 ^ 34)

def pteBit (e k : Nat) : Bool := e.testBit k

/-- The whole page of a leaf lies where an access may go (R17, R401). -/
def State.pageOk (s : State) (frame bits : Nat) : Bool :=
  match s.region frame with
  | .hbm _ => true
  | .control off => decide (bits = 12) && ctlPopulated (off + 4095) && decide (off % 4096 = 0) && decide (off ≠ 0x100000)
  | .host => s.routed .host
  | .peer n => s.routed (.peer n)
  | .unpopulated => false

/-- The leaf checks in their order: BADPTE, PRIV, WRITE, EXEC, USER (R188). -/
def State.leafCheck (s : State) (e bits : Nat) (acc : Access) (sys : Bool) : Option (BitVec 4) :=
  let frame := pteFrame e / 2 ^ bits * 2 ^ bits
  if s.pageOk frame bits = false then some 5
  else if sys = false ∧ inControl frame = true then some 6
  else if acc = .write ∧ pteBit e 2 = false then some 2
  else if acc = .fetch ∧ pteBit e 3 = false then some 3
  else if sys = false ∧ pteBit e 4 = false then some 4
  else none

/-- An entry whose reserved bits, LF or alignment is wrong (R188). -/
def badPte (e level : Nat) : Bool :=
  decide (e / 2 ^ 60 % 16 ≠ 0) || decide (e / 2 ^ 46 % 1024 ≠ 0) || decide (e / 2 ^ 9 % 8 ≠ 0)
    || (decide (level = 3) && pteBit e 1) || (decide (level = 0) && !pteBit e 1)
    || (!pteBit e 1 && decide (e / 4 % 128 ≠ 0))
    || (pteBit e 1 && decide (level = 1 ∨ level = 2)
        && (pteBit e 7 || decide (pteFrame e % 2 ^ levelBits level ≠ 0)))

/-- The address of the leaf that maps an address, its entry and its level, or the fault of the walk. -/
inductive Found where
  | leaf (at_ entry level : Nat)
  | fault (kind : BitVec 4) (level0 : Bool)
  /-- A line of the page table is held by the irrevocable lane (R268). -/
  | held
  deriving DecidableEq, Repr

/-- One level of the walk (R186 to R188): reads the entry, and goes on to the next table where there is one. -/
def State.walkLevel (s : State) (table va level : Nat) (next : Nat → Found) : Found :=
  if s.isHbm table = false then .fault 5 (decide (level = 0))
  else
    let a := table + 8 * (va / 2 ^ levelBits level % 512)
    let e := s.homeNat a 8
    if s.lineHeld a then .held
    else if pteBit e 0 = false then .fault 1 (decide (level = 0))
    else if badPte e level then .fault 5 (decide (level = 0))
    else if pteBit e 1 then .leaf a e level
    else next (pteFrame e)

/-- The walk from a table of a level down (R186 to R188). -/
def State.findLeaf (s : State) (va : Nat) : Nat → Nat → Found
  | 0, table => s.walkLevel table va 0 fun _ => .fault 5 true
  | k + 1, table => s.walkLevel table va (k + 1) fun t => s.findLeaf va k t

/-- The page-table root of a context (Table 27.4). -/
def State.root (s : State) (ctx : Nat) : Nat := s.ctxField ctx 0x08 8

/-- TLB places: a core, the base die of a stack, the I/O die, the second level of a shader die (R191). -/
def corePlace (core : Nat) : Nat := core
def stackPlace (st : Nat) : Nat := 2000 + st
def ioPlace : Nat := 3000
def diePlace (die : Nat) : Nat := 4000 + die

/-- Shader die of a core (Table 1.1). -/
def dieOf (core : Nat) : Nat := core / 128

/-- A TLB entry that still stands: one free choice for each entry and step (log 7). -/
def TlbEntry.kept (e : TlbEntry) (tick : Nat) : Bool :=
  Config.keeps tick (2 ^ 64 + 64 * (8192 * e.vpn + e.place) + e.bits)

/-- An entry of one TLB, among those given, that may serve an access (R188, R191). -/
def tlbAt (tlb : List TlbEntry) (tick place ctx va : Nat) (acc : Access) : Option TlbEntry :=
  tlb.find? fun e =>
    decide (e.place = place ∧ e.ctx = ctx ∧ e.vpn = va / 2 ^ e.bits)
      && !(decide (acc = .write) && !pteBit e.leaf.toNat 6) && e.kept tick

/-- The entry that serves an access: of the place's own TLB, or, for a core, of the second level of its shader die (R191). -/
def tlbHit (tlb : List TlbEntry) (tick place ctx va : Nat) (acc : Access) : Option TlbEntry :=
  match tlbAt tlb tick place ctx va acc with
  | some e => some e
  | none => if place < 1024 then tlbAt tlb tick (diePlace (dieOf place)) ctx va acc else none

/-- A free number below 16, by the tick (R189, log 59). -/
def freeNibble (tick : Nat) : Nat :=
  (if Config.keeps tick 7000000 then 1 else 0) + (if Config.keeps tick 7000001 then 2 else 0)
    + (if Config.keeps tick 7000002 then 4 else 0) + (if Config.keeps tick 7000003 then 8 else 0)

/-- The entry with another frame. -/
def withFrame (e frame : Nat) : Nat := e - 4096 * (e / 4096 % 2 ^ 34) + 4096 * (frame % 2 ^ 34)

/-- The leaf through which an address translates (R189): its own, or, where it has the contiguous hint, another C entry of
its sixteen, by free choice, with its own offset within 64 KiB, where one of the sixteen names that frame. -/
def State.groupLeaf (s : State) (va a e level : Nat) : Nat :=
  if level = 0 ∧ pteBit e 7 = true then
    let base := a - 8 * (va / 4096 % 16)
    let e' := s.homeNat (base + 8 * freeNibble s.tick) 8
    let frame := pteFrame e' / 65536 * 16 + va / 4096 % 16
    let named := (List.range 16).any fun k =>
      let x := s.homeNat (base + 8 * k) 8
      pteBit x 0 && !badPte x 0 && pteBit x 7 && decide (pteFrame x = 4096 * frame)
    if pteBit e' 0 = true ∧ badPte e' 0 = false ∧ pteBit e' 7 = true ∧ named = true then withFrame e' frame else e
  else e

/-- The bits that an access sets in the entry of its leaf: A, and D for a write (R189). -/
def usedBits (acc : Access) : Nat := if acc = .write then 96 else 32

/-- The walker sets A, and D for a write, where they are clear (R189): a narrow write of memory, which is not performed on a
poisoned granule (R219). -/
def State.setUsed (s : State) (ctx a e : Nat) (acc : Access) : State :=
  if e ||| usedBits acc = e then s else (s.homePut a (e ||| usedBits acc) 8 ctx).1

/-- The entries that the TLB of a place holds at most (R12, R13, R191); the spec gives no number for a base die and the I/O
die. -/
def tlbSize (place : Nat) : Option Nat :=
  if place < 1024 then some 256 else if 4000 ≤ place then some 32768 else none

/-- A list without the `n`-th element that satisfies a test. -/
def dropNth {α : Type} (p : α → Bool) : Nat → List α → List α
  | _, [] => []
  | n, x :: rest =>
    if p x then (match n with | 0 => rest | n + 1 => x :: dropNth p n rest) else x :: dropNth p n rest

/-- An entry goes to the TLB of its place, in the stead of one for the same page or, where the TLB is full, of any other: the
spec does not say which (log 7). -/
def State.fillTlb (s : State) (x : TlbEntry) : State :=
  let others := s.tlb.filter fun y => !decide (y.place = x.place ∧ y.ctx = x.ctx ∧ y.vpn = x.vpn ∧ y.bits = x.bits)
  let mine := fun y : TlbEntry => decide (y.place = x.place)
  let n := (others.filter mine).length
  { s with tlb := x :: (match tlbSize x.place with
      | some size => if size ≤ n then dropNth mine ((s.free (900000 + n)).toNat % n) others else others
      | none => others) }

/-- An entry goes to the TLB of its place and, for a core, to the second level of its shader die (R191). -/
def State.fillTlbs (s : State) (x : TlbEntry) : State :=
  if x.place < 1024 then (s.fillTlb { x with place := diePlace (dieOf x.place) }).fillTlb x else s.fillTlb x

/-- Translates an address for an access of a context (R186 to R191, R421), by the TLB entries given: those at the start of the
instruction, whose lanes receive one translation of each page (R223). The walker sets A, and D for a write, before it completes
the translation; the entry goes to the TLB of the place. -/
def State.translateBy (s : State) (tlb : List TlbEntry) (place ctx : Nat) (sys : Bool) (va : Nat) (acc : Access) : State × Walk :=
  match tlbHit tlb s.tick place ctx va acc with
  | some e =>
    match s.leafCheck e.leaf.toNat e.bits acc sys with
    | some k => (s, .fault k (decide (e.bits = 12)))
    | none =>
      (if e.place = place then s else s.fillTlb { e with place := place },
        .ok (pteFrame e.leaf.toNat / 2 ^ e.bits * 2 ^ e.bits + va % 2 ^ e.bits))
  | none =>
    match s.findLeaf va 3 (s.root ctx) with
    | .held => (s, .held)
    | .fault k z => (s, .fault k z)
    | .leaf a e level =>
      let bits := levelBits level
      let g := s.groupLeaf va a e level
      match s.leafCheck g bits acc sys with
      | some k => (s, .fault k (decide (level = 0)))
      | none =>
        ((s.setUsed ctx a e acc).fillTlbs ⟨place, ctx, va / 2 ^ bits, bits, BitVec.ofNat 64 (g ||| usedBits acc)⟩,
          .ok (pteFrame g / 2 ^ bits * 2 ^ bits + va % 2 ^ bits))

/-- Translates an address by the TLB entries as they stand. -/
def State.translate (s : State) (place ctx : Nat) (sys : Bool) (va : Nat) (acc : Access) : State × Walk :=
  s.translateBy s.tlb place ctx sys va acc

/-- A translation for an access of the lanes of an agent that holds the irrevocable token's lines, if `own`: its own holds do not
make it wait (R268, R270). -/
def State.translateOwn (s : State) (tlb : List TlbEntry) (own : Bool) (place ctx : Nat) (sys : Bool) (va : Nat) (acc : Access) :
    State × Walk :=
  if own then
    let r := ({ s with token := { s.token with lines := [] } }).translateBy tlb place ctx sys va acc
    ({ r.1 with token := s.token }, r.2)
  else s.translateBy tlb place ctx sys va acc

def State.translateFor (s : State) (own : Bool) (place ctx : Nat) (sys : Bool) (va : Nat) (acc : Access) : State × Walk :=
  s.translateOwn s.tlb own place ctx sys va acc

/-- The page table as an access in a mode would find it, with no effect on the tables (R195, R199, R421). -/
def State.look (s : State) (ctx : Nat) (sys : Bool) (va : Nat) (acc : Access) : Walk :=
  match s.findLeaf va 3 (s.root ctx) with
  | .leaf _ e level =>
    let bits := levelBits level
    match s.leafCheck e bits acc sys with
    | some k => .fault k (decide (level = 0))
    | none => .ok (pteFrame e / 2 ^ bits * 2 ^ bits + va % 2 ^ bits)
  | .fault k z => .fault k z
  | .held => .held

/-- Whether an address has a valid translation already, to a page that can be reached, with no effect on the tables (R17, R179,
R199, R285). -/
def State.peek (s : State) (ctx va : Nat) : Option Nat :=
  match s.findLeaf va 3 (s.root ctx) with
  | .leaf _ e level =>
    let bits := levelBits level
    let frame := pteFrame e / 2 ^ bits * 2 ^ bits
    if s.pageOk frame bits then some (frame + va % 2 ^ bits) else none
  | .fault _ _ | .held => none

/-- The walk to an address waits for the irrevocable lane (R268). -/
def State.walkHeld (s : State) (ctx va : Nat) : Bool :=
  match s.findLeaf va 3 (s.root ctx) with
  | .held => true
  | .leaf _ _ _ | .fault _ _ => false

/-- Kinds that are offered to the wellhead controller (Table 11.6). -/
def offered (k : BitVec 4) : Bool := decide (k = 1 ∨ k = 2 ∨ k = 3 ∨ k = 4 ∨ k = 5)

/-- The granule of a counter is poisoned in place of an addition (R208, R220). -/
def State.poisonCounter (s : State) (pa ctx : Nat) : State :=
  if s.isHbm pa then { s with poison := insertKey s.poison (pa / 32) }.logError 0x11 2 pa ctx else s.logError 0x11 2 pa ctx

/-- One atomic addition to a 64-bit counter at its home place (Table 11.3): false where the counter is poisoned, and the
addition is then not performed and is logged (R220). -/
def State.addCounter (s : State) (pa ctx : Nat) (inc : Dword) : State × Bool :=
  let (s, bad) := s.homeCheck pa 8 ctx
  if bad then (s.logError 0x11 3 pa ctx, false)
  else ((s.homePut pa ((BitVec.ofNat 64 (s.homeNat pa 8) + inc).toNat) 8 ctx).1, true)

end Sys2Proof.Machine
end

