-- ==== Sys2Proof/Machine/Control.lean ====
section
/-! DEFINITION. Control transfers, guards, masks, named barriers, the window base and the arrival at `REORD`, opcodes 0x00
to 0x0F (R84 to R89, R91, R141 to R162). -/

namespace Sys2Proof.Machine

/-! ### Shared operations -/

/-- The lanes whose thread satisfies a test. -/
def Jet.lanesWith (J : Jet) (f : Thread → Bool) : Lanes :=
  maskOf ((J.threads.filter fun e => f e.2).map (·.1))

/-- Releases the threads blocked on mask `m` when it is complete (R150). -/
def Jet.testMask (J : Jet) (m : Nat) : Jet :=
  let blocked := J.lanesWith fun t => decide (t.wait = .mask m)
  if blocked ≠ 0 ∧ J.mask m &&& ~~~ blocked = 0 then J.moveOn blocked else J

/-- Tests every mask for completion (R150). -/
def Jet.testMasks (J : Jet) : Jet := (List.range 12).foldl (fun J m => J.testMask m) J

/-- A thread blocked in `WAITM`. -/
def Thread.inWaitm (t : Thread) : Bool := match t.wait with | .mask _ => true | _ => false

/-- After a mask test: CONVDEAD is pending exactly while every thread of the jet is blocked in `WAITM` (R152, R379). -/
def Jet.convdead (J : Jet) (now : Nat) : Jet :=
  let dead := !J.threads.isEmpty && J.threads.all fun e => e.2.inWaitm
  let others := J.causes.filter fun p => !decide (p.cause = .convdead)
  if dead then
    { J with
      causes := { cause := .convdead, lanes := J.live } :: others
      run := if J.run = .blocked then .pending else J.run
      since := if J.run = .blocked then now else J.since }
  else { J with causes := others }

/-- The mask test that follows a write to a mask, `WAITM` and `EXIT` (R149, R150, R152). -/
def State.testMasks (s : State) (b j : Nat) : State :=
  s.withJet b j fun J => J.testMasks.convdead s.cycle

/-- The irrevocable lane publishes: its lines and the token are released (R270). -/
def State.publish (s : State) : State := { s with token := { s.token with holder := none, lines := [] } }

/-- The lane of a jet holds the irrevocable token. -/
def State.holdsToken (s : State) (b j l : Nat) : Bool := decide (s.token.holder = some ⟨b, j, l⟩)

/-- An operation that has still to act on memory. -/
def LongOp.unperformed (o : LongOp) : Bool :=
  o.val.isNone && (match o.kind with
    | .atom _ _ | .cas _ _ | .ctradd _ => true
    | .load _ | .ldnr _ _ | .reservoir => true
    | .ready n => decide (0 < n) || !o.scr.isEmpty
    | .grow _ | .texf _ _ _ _ | .hgrid _ _ _ _ _ => false)

/-- A pending read-modify-write, which counts among the unacknowledged accesses of its jet (R236). -/
def LongOp.counted (o : LongOp) : Bool :=
  o.val.isNone && (match o.kind with
    | .atom _ _ | .cas _ _ | .ctradd _ => true
    | .load _ | .ldnr _ _ | .reservoir | .ready _ | .grow _ | .texf _ _ _ _ | .hgrid _ _ _ _ _ => false)

/-! ### Releases -/

/-- What a release of the whole jet waits for has ended, stores to the scratchpad among it (R200, R236). -/
def Jet.drained (J : Jet) (sc : Scope) : Bool :=
  J.storeQ.isEmpty && (decide (sc = .bsn) || decide (J.unacked = 0)) && !(J.longs.any LongOp.counted)
    && J.longs.all fun o => o.scr.isEmpty

/-- A counter addition, which reads nothing for its lanes (R211). -/
def LongOp.isCtradd (o : LongOp) : Bool := match o.kind with | .ctradd _ => true | _ => false

/-- The reads of some lanes issued before a tick have been performed, those of atomics among them (R233, R247). -/
def Jet.readsDone (J : Jet) (mark : Nat) (lanes : Lanes) : Bool :=
  J.longs.all fun o => decide (mark ≤ o.tag) || !o.unperformed || o.isCtradd || decide (o.lanes &&& lanes = 0)

/-- What the release of an access issued at a tick waits for has ended: the jet's earlier stores and read-modify-writes, and
the earlier reads of its own lanes (R200, R233, R236). -/
def Jet.released (J : Jet) (sc : Scope) (mark : Nat) (lanes : Lanes) : Bool :=
  (J.storeQ.all fun q => decide (mark ≤ q.tag)) && (decide (sc = .bsn) || decide (J.unacked = 0))
    && (J.longs.all fun o => decide (mark ≤ o.tag) || !o.counted) && J.readsDone mark lanes

/-- An acquire whose later reads by some lanes wait for it: one of those lanes, or, at package or system scope, any of the jet,
since the L1 is invalidated before any later load of the jet (R183). -/
def LongOp.acquiresFor (o : LongOp) (lanes : Lanes) : Bool :=
  o.acquire && o.unperformed && decide (o.scope ≠ .bsn ∨ o.lanes &&& lanes ≠ 0)

/-- An acquire that comes before a tick in program order has still to be performed: a later read waits for it (R183, R233, R240,
R241). -/
def Jet.acquirePending (J : Jet) (mark : Nat) (lanes : Lanes) : Bool :=
  J.longs.any fun o => o.acquiresFor lanes && decide (o.tag < mark)

/-! ### Writes in flight (R190, R236) -/

/-- The threads that wrote a write in flight, by jet. -/
def Write.writers (w : Write) : List (Nat × Lanes) := (w.jet, w.lanes) :: w.also

/-- Some lanes of a jet are among threads listed by jet. -/
def threadsIn (ts : List (Nat × Lanes)) (j : Nat) (m : Lanes) : Bool := ts.any fun e => decide (e.1 = j ∧ e.2 &&& m ≠ 0)

/-- Some lanes of a jet are among its writers. -/
def Write.by (w : Write) (b j : Nat) (m : Lanes) : Bool := decide (w.basin = b) && threadsIn w.writers j m

/-- It stands in the count of a jet (R236). -/
def Write.countedBy (w : Write) (b j : Nat) : Bool := decide (w.basin = b) && w.writers.any fun e => decide (e.1 = j)

/-- The request that carries a write: what one instruction writes to one line (R190). -/
def Write.request (w : Write) : Nat × Nat × Nat × Bool := (w.basin, w.tag, w.pa / 128, w.irr)

/-- The requests that stand in the count of a jet. -/
def countedWrites (ws : List Write) (b j : Nat) : Nat :=
  ((ws.filter fun w => w.countedBy b j).map Write.request).eraseDups.length

/-- Every access of a lane has been performed: what Publish waits for (R270). -/
def State.laneDone (s : State) (b j l : Nat) : Bool :=
  match s.jet? b j with
  | none => true
  | some J =>
    (J.longs.all fun o => !o.lanes.getLsbD l || !o.unperformed) && (J.storeQ.all fun q => !q.lanes.getLsbD l)
      && (s.writes.all fun w => !(decide (w.stage = .sent) && w.by b j (laneBit l)))

/-! ### Releases that cover earlier stores (R228, R233, R240, R241) -/

/-- The ticks at which some lanes of a jet issued releases that have not been performed, before a tick: atomics and counter
additions, and, at package scope, copies and structure updates. -/
def State.openReleases (s : State) (b j : Nat) (J : Jet) (mark : Nat) (lanes : Lanes) (pkg : Bool) : List Nat :=
  ((J.longs.filter fun o => o.release && o.unperformed && decide (o.tag < mark ∧ o.lanes &&& lanes ≠ 0)
      && (!pkg || decide (o.scope ≠ .bsn) || o.isCtradd)).map (·.tag))
    ++ ((s.copies.filter fun c =>
        c.release && decide (c.owner.map (·.1) = some b ∧ c.tag < mark) && threadsIn c.threads j lanes).map (·.tag))
    ++ ((s.updates.filter fun u =>
        decide (u.owner.map (·.1) = some b ∧ u.tag < mark) && threadsIn u.threads j lanes).map (·.tag))

/-- A store that a jet issued before a tick has not passed the store point or, where it must be at home, is not acknowledged. -/
def State.storesBefore (s : State) (b j : Nat) (J : Jet) (mark : Nat) (home : Bool) : Bool :=
  (J.storeQ.any fun q => decide (q.tag < mark))
    || (home && s.writes.any fun w => decide (w.tag < mark) && w.countedBy b j)

/-- A read of some lanes waits for stores that come before a release that comes before it: the order of stores and reads is kept
across a release (R228), and for an engine's reads across one of package scope (R240, R241). -/
def State.releaseOpen (s : State) (b j : Nat) (J : Jet) (mark : Nat) (lanes : Lanes) (pkg : Bool) : Bool :=
  (s.openReleases b j J mark lanes pkg).any fun r => s.storesBefore b j J r pkg

/-- One of the lanes of a jet holds the irrevocable token. -/
def State.holderAmong (s : State) (b j : Nat) (lanes : Lanes) : Bool :=
  match s.token.holder with
  | some r => decide (r.basin = b ∧ r.jet = j) && lanes.getLsbD r.lane
  | none => false

/-- An access of some lanes need not wait for the irrevocable lane (R268, R270). -/
def State.mayTouch (s : State) (b j : Nat) (lanes : Lanes) (pa : Nat) : Bool :=
  !s.lineHeld pa || s.holderAmong b j lanes

/-- Where the irrevocable lane holds the line of a write in flight, only its own go on (R268). -/
def State.writeHeld (s : State) (w : Write) : Bool :=
  s.lineHeld w.pa && !(match s.token.holder with | some r => w.by r.basin r.jet (laneBit r.lane) | none => false)

/-- Operations that hold a global address. -/
def LongOp.addressed (o : LongOp) : Bool :=
  match o.kind with
  | .load _ | .ldnr _ _ | .reservoir | .atom _ _ | .cas _ _ | .ctradd _ => true
  | .ready _ | .grow _ | .texf _ _ _ _ | .hgrid _ _ _ _ _ => false

/-- An access of a jet, at a tick or before it, waits for lines that the irrevocable lane holds: those that follow it may wait with
it (R268). -/
def State.heldBefore (s : State) (b j : Nat) (J : Jet) (tag : Nat) : Bool :=
  let walks := fun va : Dword => s.walkHeld (s.ctxOf b) va.toNat
  (s.writes.any fun w => w.countedBy b j && decide (w.stage = .sent ∧ w.tag ≤ tag) && s.writeHeld w)
    || (J.longs.any fun o => o.unperformed && decide (o.tag ≤ tag) && !s.holderAmong b j o.lanes
          && (match o.pa with | some p => s.lineHeld p | none => o.addressed && walks o.va))
    || J.storeQ.any fun q => decide (q.tag ≤ tag) && q.pa.isNone && !s.holderAmong b j q.lanes && walks q.va

/-- The release of the `TXE` at which the irrevocable lane of a jet publishes (R231, R261): the jet's writes are acknowledged and its
read-modify-writes performed, but for those that wait for the lines that the lane itself holds until then, and those that may wait
with them (R271). -/
def State.publishDrained (s : State) (b j : Nat) (J : Jet) : Bool :=
  (s.writes.all fun w => !w.countedBy b j || s.heldBefore b j J w.tag)
    && (J.longs.all fun o => !o.counted || s.heldBefore b j J o.tag)
    && J.storeQ.all fun q => s.heldBefore b j J q.tag

/-- A lane among some holds the token and cannot publish yet: it has accesses still to be performed (R270), or, at its `TXE`, its
jet has stores to release (R231). -/
def State.unpublished (s : State) (b j : Nat) (m : Lanes) (release : Bool) : Bool :=
  (lanesOf m).any fun l => s.holdsToken b j l
    && !(s.laneDone b j l && (!release || ((s.jet? b j).map (s.publishDrained b j)).getD true))

/-- What a pending operation keeps once its thread has exited: nothing to write; an atomic is still performed (R147). -/
def LongOp.orphan (o : LongOp) : Option LongOp :=
  match o.kind with
  | .atom _ _ | .cas _ _ | .ctradd _ | .grow _ => some { o with dests := [] }
  | .ready _ => if o.scr.isEmpty then none else some { o with dests := [] }
  | .load _ | .ldnr _ _ | .reservoir | .texf _ _ _ _ | .hgrid _ _ _ _ _ => none

/-- Ends the threads of the given lanes (R146, R147): they leave every mask, and a jet left without threads has EXITED. -/
def Jet.exitLanes (J : Jet) (m : Lanes) : Jet :=
  let K : Jet := Jet.releaseSlot
    { J with
      threads := J.threads.filter fun e => !m.getLsbD e.1
      slotFor := J.slotFor &&& ~~~ m
      masks := J.masks.mapKeys fun _ v => v &&& ~~~ m
      longs := J.longs.filterMap fun o => if m.getLsbD o.lane then o.orphan else some o }
  let K := K.testMasks
  if K.threads.isEmpty then { K with run := .exited, slotHeld := false, slotFor := 0 } else K

/-! ### The end of a basin's stay on its core -/

/-- The areas of the save pools without that of a basin (R395). -/
def State.freeArea (s : State) (ctx : Nat) (base : Dword) : State :=
  { s with wh := { s.wh with areas := s.wh.areas.filter fun a => !decide (a.1 = ctx ∧ a.2.1 = base.toNat) } }

/-- Frees the save area of a restored basin once no jet is left in the restore handler (R395). -/
def State.endRestore (s : State) (b : Nat) : State :=
  match s.basin? b with
  | none => s
  | some B =>
    if B.preempt = true ∨ B.bsave = 0
        ∨ (B.jets.any fun e => decide (e.2.handler = .restore ∧ e.2.run ≠ .exited)) = true then s
    else (s.freeArea B.ctx B.bsave).withBasin b fun B => { B with bsave := 0 }

/-- Nothing of a jet is in flight: its stores are acknowledged and its read-modify-writes and growth performed (R44). -/
def Jet.over (J : Jet) : Bool :=
  decide (J.run = .exited ∧ J.unacked = 0) && J.storeQ.isEmpty && J.longs.all LongOp.finished

/-- A jet of a basin that has left its core: what it has in flight goes on (R44, R392). -/
def Jet.left (J : Jet) : Jet :=
  { J with
    threads := [], run := .exited, handler := .none, slotHeld := false, slotFor := 0, causes := []
    longs := J.longs.filterMap LongOp.orphan }

/-- The resources of a basin are freed; it stays in the state only while stores or counter additions of it are in flight. -/
def State.leaveCore (s : State) (b : Nat) : State :=
  let s := s.withBasin b fun B => { B with gone := true, jets := B.jets.mapKeys fun _ J => J.left }
  match s.basin? b with
  | none => s
  | some B => if B.jets.all fun e => e.2.over then { s with basins := s.basins.del b } else s

/-- Inserts a saved basin among those of its launch that wait to be restored, in ascending index (R47). -/
def insertSaved (x : SavedBasin) : List SavedBasin → List SavedBasin
  | [] => [x]
  | y :: rest => if x.index < y.index then x :: y :: rest else y :: insertSaved x rest

/-- Every non-exited jet of a basin is SAVED: its resources are freed and it returns to the head of its launch's placement
order (R51, R393); its matrix operations are over first (R318). Counter additions go on (Table 25.6). -/
def State.trySaved (s : State) (b : Nat) : State :=
  match s.basin? b with
  | none => s
  | some B =>
    let saved := B.jets.filter fun e => decide (e.2.run = .saved)
    if saved.isEmpty || !(B.jets.all fun e => decide (e.2.run = .saved ∨ e.2.run = .exited)) || !B.matQ.isEmpty
        || B.gone then s
    else
      let rec_ : SavedBasin :=
        { index := B.index, jets := saved.map (·.1), bsave := B.bsave
          wids := saved.flatMap fun e => e.2.threads.map fun t => (32 * e.1 + t.1, t.2.wid0)
          causes := saved.filterMap fun e =>
            let kept := e.2.causes.filter fun p => decide (p.cause ≠ .preempt)
            if kept.isEmpty then none else some (e.1, kept)
          since := s.time }
      State.leaveCore
        { s with launches := s.launches.modify B.launch fun n => { n with saved := insertSaved rec_ n.saved } } b

/-- `EXIT` of lanes of a jet (R146, R255, R270). A jet that has EXITED has left its handler, and is no longer waited for where
its basin is restored or saved (R393, R395). -/
def State.exitLanes (s : State) (b j : Nat) (m : Lanes) : State :=
  let s := if (lanesOf m).any fun l => s.holdsToken b j l then s.publish else s
  ((s.withJet b j fun J => (J.exitLanes m).convdead s.cycle).endRestore b).trySaved b

/-- The copy names the scratchpad or a tile of its basin, by the space codes of word 7 of its descriptor (Table 11.7, R209). -/
def Copy.namesBasin (c : Copy) (b : Nat) : Bool :=
  let w7 := ((c.desc[7]?).getD 0).toNat
  (match c.owner with | some o => decide (o.1 = b) | none => false)
    && decide (w7 / 16777216 % 4 ≠ 0 ∨ w7 / 67108864 % 4 ≠ 0)

/-- The exit of some lanes of a jet would be the last one of its basin, while copies that name its scratchpad or tiles are in
flight: it completes only when those have completed (R209). -/
def State.lastExitWaits (s : State) (b j : Nat) (m : Lanes) : Bool :=
  match s.basin? b with
  | none => false
  | some B =>
    (s.copies.any fun c => c.namesBasin b)
      && B.jets.all fun e => decide (e.2.run = .exited) || (decide (e.1 = j) && decide (e.2.live &&& ~~~ m = 0))

/-- Aborts with UNSUPP the executing lanes that are inside an ordinary transaction; they leave the issue (R255). -/
def State.dropTx (s : State) : State :=
  match s.jet? s.cur.basin s.cur.jet with
  | none => s
  | some J =>
    let inTx := s.cur.exec &&& J.lanesWith Thread.inTx
    if inTx = 0 then s
    else
      let s := s.withJet s.cur.basin s.cur.jet fun J =>
        Jet.releaseSlot (J.withLanes inTx fun _ t => t.fetched.abort 8 0 0)
      { s with cur := { s.cur with exec := s.cur.exec &&& ~~~ inTx, group := s.cur.group &&& ~~~ inTx } }

/-- An instruction of the first row of Table 15.2: its transactional lanes abort, and the rest goes on. -/
def State.unsupp (s : State) (body : State → State) : State :=
  let s := s.dropTx
  if s.cur.exec = 0 then s.retire else body s

/-- Sets the program counter of lanes. -/
def State.jump (s : State) (m : Lanes) (f : Nat → Dword) : State :=
  s.withLanes s.cur.basin s.cur.jet m fun l t => { t with pc := f l }

/-! ### Barriers -/

/-- The phase of a barrier as the threads see it; the release of its waiters is latched (R157). -/
def Thread.barrierRelease (t : Thread) (b : Nat) (phase : Word) : Thread :=
  if t.bstate = 1 ∧ t.barno.toNat = b ∧ t.arrphase ≠ phase then
    if t.wait = .bar then { t with wait := .none, bstate := 0 } else { t with bstate := 2 }
  else t

/-- Tests every thread waiting at barrier `b` against its phase (R157). -/
def Basin.barrierTest (B : Basin) (b : Nat) : Basin :=
  let phase := (Cells.get {} B.barriers b).phase
  { B with jets := B.jets.mapKeys fun _ J =>
      { J with threads := J.threads.mapKeys fun _ t => t.barrierRelease b phase } }

/-- The threads of a jet that wait at barrier `b`. -/
def Jet.waitersAt (J : Jet) (b : Nat) : Lanes := J.lanesWith fun t => decide (t.bstate = 1 ∧ t.barno.toNat = b)

/-- One arrival at a barrier (R155): none where the thread fails. The field ARRIVED has 11 bits (Table 9.3), and the spec does not
say what an arrival makes of 2,047, which only a handler can have set above COUNT: the model wraps to 0 (DESIGN CHOICE, log 69). -/
def Barrier.arrive (K : Barrier) (cnt : Word) (limit : Nat) : Barrier × Bool :=
  if K.err then (K, false)
  else if K.arrived = 0 ∧ (cnt.toNat < 1 ∨ limit < cnt.toNat) then ({ K with err := true }, false)
  else if 0 < K.arrived ∧ cnt.toNat ≠ K.count then ({ K with err := true }, false)
  else
    let K := if K.arrived = 0 then { K with count := cnt.toNat } else K
    let K := { K with arrived := (K.arrived + 1) % 2048 }
    (if K.arrived = K.count then { K with phase := K.phase + 1, arrived := 0 } else K, true)

/-- The arrivals of one issue, in ascending lane order: the barrier, and for each lane that arrived the phase it arrived in;
the other lanes fail (R155). -/
def barArrivals (cnt : Word) (limit : Nat) : List Nat → Barrier → Barrier × List (Nat × Word) × List Nat
  | [], K => (K, [], [])
  | l :: rest, K =>
    let (K', ok) := K.arrive cnt limit
    let (K'', done, failed) := barArrivals cnt limit rest K'
    if ok then (K'', (l, K.phase) :: done, failed) else (K'', done, l :: failed)

/-- BARMISMATCH becomes pending for the failing threads of the issuing jet and, where this issue has set the error state, for
every thread then blocked at the barrier: each jet takes it once (R158). -/
def State.mismatch (s : State) (bas jet b : Nat) (failed : Lanes) (fresh : Bool) : State :=
  match s.basin? bas with
  | none => s
  | some B =>
    B.jets.foldl (fun s e =>
      let lanes := (if fresh then e.2.waitersAt b else 0) ||| (if e.1 = jet then failed else 0)
      if lanes = 0 then s else s.addCause bas e.1 { cause := .barmismatch, lanes := lanes, bar := b }) s

/-- One issue of `BAR` (R155 to R158): `sync` blocks the arriving threads. -/
def State.barrier (s : State) (bar : Nat) (cnt : Word) (sync : Bool) : State :=
  match s.basin? s.cur.basin with
  | none => s
  | some B =>
    let old : Barrier := Cells.get {} B.barriers bar
    let (K, done, failed) := barArrivals cnt (32 * B.shape.jets) (lanesOf s.cur.exec) old
    let arrived := maskOf (done.map (·.1))
    let failedM := maskOf failed
    -- the failing threads stay at their `BAR`, which has issued; the rest of the group moves on
    let s := s.withLanes s.cur.basin s.cur.jet failedM fun _ t => { t with wait := .none }
    let s := { s with cur := { s.cur with group := s.cur.group &&& ~~~ failedM } }
    let s := s.retire
    let s := s.withBasin s.cur.basin fun B =>
      let B := B.withJet s.cur.jet fun J =>
        if sync then
          J.withLanes arrived fun l t =>
            { t with
              wait := .bar, bstate := 1, barno := BitVec.ofNat 4 bar
              arrphase := ((done.find? fun e => decide (e.1 = l)).map (·.2)).getD 0 }
        else J
      { B with barriers := B.barriers.put bar K }
    let s := s.withBasin s.cur.basin fun B => B.barrierTest bar
    if K.err then s.mismatch s.cur.basin s.cur.jet bar failedM (!old.err) else s

/-! ### Meanings -/

/-- `NOP` (R91): no effect but the program counter's advance. -/
def execNop (s : State) : Host.Outcome State Fault Refusal := .next (s.issue {} fun _ _ => s.retire)

/-- `GRD` (R84, R85): samples the predicate once and guards the next words. -/
def execGrd (k : Reg) (neg : Bool) (n : BitVec 3) (s : State) : Host.Outcome State Fault Refusal :=
  .next (s.issue { preds := [k.toNat], barred := true } fun _ _ =>
    s.retire.withLanes s.cur.basin s.cur.jet s.cur.exec fun _ t =>
      { t with guardBit := t.pred k.toNat != neg, guardLeft := n.toNat + 1 })

/-- `BRA` (R143). -/
def execBra (off : BitVec 25) (s : State) : Host.Outcome State Fault Refusal :=
  .next (s.issue { barred := true } fun _ _ => s.retire.jump s.cur.exec fun _ => branch25 s.cur.pc off)

/-- `BRC` (R143). -/
def execBrc (neg : Bool) (p : BitVec 4) (imm : BitVec 18) (s : State) : Host.Outcome State Fault Refusal :=
  .next (s.issue { preds := [p.toNat], barred := true } fun _ _ =>
    s.retire.withLanes s.cur.basin s.cur.jet s.cur.exec fun _ t =>
      if t.pred p.toNat != neg then { t with pc := branch18 s.cur.pc imm } else t)

/-- `BRX` (R143). -/
def execBrx (a : Reg) (s : State) : Host.Outcome State Fault Refusal :=
  .next (s.issue { named := block a 2, reads := block a 2, barred := true } fun _ J =>
    s.retire.jump s.cur.exec fun l => aligned4 (J.vpair l a.toNat))

/-- A call: the return address goes to v28:v29, then the branch (R102, R143). -/
def State.call (s : State) (target : Nat → Dword) : State :=
  (s.withBasin s.cur.basin fun B =>
    B.laneWrite s.cur.jet s.cur.exec [28, 29] [] fun _ t =>
      (t.setWord 28 (lo32 (s.cur.pc + 4))).setWord 29 (hi32 (s.cur.pc + 4))).retire.jump s.cur.exec target

/-- `CALL` (R143). -/
def execCall (off : BitVec 25) (s : State) : Host.Outcome State Fault Refusal :=
  .next (s.issue { named := [28, 29], barred := true } fun _ _ => s.call fun _ => branch25 s.cur.pc off)

/-- `CALLX` (R143): the target is read before v28:v29 is written. -/
def execCallx (a : Reg) (s : State) : Host.Outcome State Fault Refusal :=
  .next (s.issue { named := [28, 29] ++ block a 2, reads := block a 2, barred := true } fun _ J =>
    s.call fun l => aligned4 (J.vpair l a.toNat))

/-- `RET` (R143). -/
def execRet (s : State) : Host.Outcome State Fault Refusal :=
  .next (s.issue { named := [28, 29], reads := [28, 29], barred := true } fun _ J =>
    s.retire.jump s.cur.exec fun l => aligned4 (J.vpair l 28))

/-- `EXIT` (R81, R146, log 34); in the context-save handler it ends no thread but collects the jet (R393). -/
def execExit (s : State) : Host.Outcome State Fault Refusal :=
  .next (s.issue { barred := true, ends := true } fun _ J =>
    if J.handler = .save then
      if J.drained .pkg = false then s.hold (.drain true)
      else
        let s := s.withLanes s.cur.basin s.cur.jet s.cur.exec fun _ t => { t with wait := .saveExit }
        let s := s.withJet s.cur.basin s.cur.jet fun J =>
          if J.threads.all fun e => decide (e.2.wait = .saveExit) then { J with run := .saved } else J
        s.trySaved s.cur.basin
    else if s.unpublished s.cur.basin s.cur.jet s.cur.exec false then s.hold (.short (.published false))
    else if s.lastExitWaits s.cur.basin s.cur.jet s.cur.exec then s.hold (.short .copies)
    else s.exitLanes s.cur.basin s.cur.jet s.cur.exec)

/-- A write to a mask register by one issue, followed by the mask test (R141, R149). -/
def State.maskOp (s : State) (o : Operands) (m : Nat) (f : Jet → Lanes → Lanes) : State :=
  s.issue o fun _ _ =>
    State.testMasks
      (State.retire (s.withJet s.cur.basin s.cur.jet fun J => { J with masks := J.masks.put m (f J (J.mask m)) }))
      s.cur.basin s.cur.jet

/-- `MARK` (R149). -/
def execMark (m : Reg) (s : State) : Host.Outcome State Fault Refusal :=
  .next (s.maskOp {} m.toNat fun _ _ => s.cur.exec)

/-- `JOIN` (R149). -/
def execJoin (m : Reg) (s : State) : Host.Outcome State Fault Refusal :=
  .next (s.maskOp {} m.toNat fun _ v => v ||| s.cur.exec)

/-- `LEAVE` (R149). -/
def execLeave (m : Reg) (s : State) : Host.Outcome State Fault Refusal :=
  .next (s.maskOp {} m.toNat fun _ v => v &&& ~~~ s.cur.exec)

/-- `WAITM` (R150, R151): once the release of its arrival is done, the executing threads block on the mask; in system mode it
retires with no effect (R377), also for lanes inside a transaction of the handler, which Table 15.2 would abort (DESIGN CHOICE,
log 69). -/
def execWaitm (m : Reg) (s : State) : Host.Outcome State Fault Refusal :=
  .next (s.issue { ends := true } fun _ J =>
    if J.sys then s.retire
    else s.unsupp fun s =>
      if J.drained .bsn = false then s.hold (.drain false)
      else
      let rest := s.cur.group &&& ~~~ s.cur.exec
      let s := s.withLanes s.cur.basin s.cur.jet s.cur.exec fun _ t => { t with wait := .mask m.toNat }
      State.testMasks ({ s with cur := { s.cur with group := rest } }).retire s.cur.basin s.cur.jet)

/-- The issue of `BAR` (R155, R159): once the release of the arrivals is done; in system mode it retires with no effect (R377),
also for lanes inside a transaction of the handler, which Table 15.2 would abort (DESIGN CHOICE, log 69). -/
def State.barIssue (s : State) (k a : Reg) (sync : Bool) : State :=
  s.issue { ureads := [a.toNat], ends := true } fun _ J =>
    if J.sys then s.retire
    else s.unsupp fun s =>
      if J.drained .bsn = false then s.hold (.drain false) else s.barrier k.toNat (J.sreg a.toNat) sync

/-- `BAR` (R155). -/
def execBar (k a : Reg) (s : State) : Host.Outcome State Fault Refusal := .next (s.barIssue k a true)

/-- `BAR.arrive` (R155): only the arrival. -/
def execBarArrive (k a : Reg) (s : State) : Host.Outcome State Fault Refusal := .next (s.barIssue k a false)

/-- `WINB` (R73, R161). -/
def execWinb (imm : BitVec 18) (s : State) : Host.Outcome State Fault Refusal :=
  .next (s.issue { barred := true, ends := true } fun _ _ =>
    State.retire (s.withJet s.cur.basin s.cur.jet fun J => { J with wb := imm.toNat }))

/-- `REORD` (R162): the executing threads wait for the rest of their basin; in system mode it retires with no effect, also for
lanes inside a transaction of the handler, which Table 15.2 would abort (DESIGN CHOICE, log 69). The key
register is mapped when the instruction issues (R73): a thread that has executed it already keeps its word. -/
def execReord (a : Reg) (s : State) : Host.Outcome State Fault Refusal :=
  .next (s.issue { named := [a.toNat], reads := [a.toNat], barred := true, ends := true } fun _ J =>
    if J.sys then s.retire
    else s.unsupp fun s =>
      s.withLanes s.cur.basin s.cur.jet s.cur.exec fun _ t =>
        if t.atReord then t else { t with wait := .reord (mapReg J.wb a.toNat) })

/-- Every non-exited thread of a basin waits at `REORD`, in user mode: the repack comes before any trap (R163). -/
def Basin.reordArrived (B : Basin) : Bool :=
  let js := B.jets.filter fun e => !decide (e.2.run = .exited)
  !js.isEmpty && js.all fun e => !e.2.sys && !e.2.threads.isEmpty && e.2.threads.all fun t => t.2.atReord

/-- Nothing is left to drain: long writes and read-modify-writes, store queues, the vector operands of `MMAV` (R165). -/
def Basin.reordReady (B : Basin) : Bool :=
  B.reordArrived && (B.jets.all fun e => e.2.longs.isEmpty && e.2.storeQ.isEmpty) && (B.matQ.all fun o => o.regs.isEmpty)

/-- The sort key of a waiting thread. -/
def Thread.reordKey (t : Thread) : Nat := match t.wait with | .reord w => (t.word w).toNat | _ => 0

/-- Insertion of a thread into the order of `REORD`: by key, ties by old position (R163). -/
def insertReord (x : Nat × Thread) : List (Nat × Thread) → List (Nat × Thread)
  | [] => [x]
  | y :: rest =>
    if x.2.reordKey < y.2.reordKey ∨ (x.2.reordKey = y.2.reordKey ∧ x.1 < y.1) then x :: y :: rest
    else y :: insertReord x rest

/-- The threads of a basin in their new order, each with its old position, 32 × jet + lane. -/
def Basin.reordOrder (B : Basin) : List (Nat × Thread) :=
  let all := B.jets.flatMap fun e => e.2.threads.map fun t => (32 * e.1 + t.1, t.2)
  all.foldl (fun acc x => insertReord x acc) []

/-- Where the repack puts what names a thread or a jet of the basin: for a thread, its new jet and lane; for a jet, its new
index. The kept jets come first, in the order of their indices, and the exited ones after them. -/
structure Places where
  threads : List Nat
  jets : List Nat

def Basin.places (B : Basin) : Places :=
  { threads := B.reordOrder.map (·.1)
    jets := (B.jets.filter fun e => !decide (e.2.run = .exited)).map (·.1)
      ++ (B.jets.filter fun e => decide (e.2.run = .exited)).map (·.1) }

def Places.thread (p : Places) (j l : Nat) : Nat × Nat :=
  let i := p.threads.idxOf (32 * j + l)
  if i < p.threads.length then (i / 32, i % 32) else (j, l)

def Places.jet (p : Places) (j : Nat) : Nat :=
  let i := p.jets.idxOf j
  if i < p.jets.length then i else j

/-- One more writer of a write in flight. -/
def joinWriter (l : List (Nat × Lanes)) (x : Nat × Lanes) : List (Nat × Lanes) :=
  if l.any fun e => decide (e.1 = x.1) then l.map fun e => if e.1 = x.1 then (e.1, e.2 ||| x.2) else e else l ++ [x]

/-- The writers of a write after the repack: its threads where they now stand; one that has exited leaves its jet alone. -/
def Places.writers (p : Places) (ws : List (Nat × Lanes)) : List (Nat × Lanes) :=
  ws.foldl (fun acc e =>
    (lanesOf e.2).foldl (fun acc l =>
      joinWriter acc
        (if p.threads.contains (32 * e.1 + l) then ((p.thread e.1 l).1, laneBit (p.thread e.1 l).2) else (p.jet e.1, 0))) acc) []

/-- A write in flight after the repack. -/
def Places.write (p : Places) (w : Write) : Write :=
  match p.writers w.writers with
  | [] => { w with jet := p.jet w.jet }
  | x :: rest => { w with jet := x.1, lanes := x.2, also := rest }

/-- Bytes of a jet save area (Table 25.8), and the offset of the first one in its basin's area (Table 25.7). -/
def Shape.jetArea (h : Shape) : Nat := 0x600 + 128 * h.words
def Shape.jetsAt (h : Shape) : Nat := 0x400 + 0x4000 * h.accn + h.scr + h.tile

/-- The size of a basin's save area, rounded up to 4 KiB (R395). -/
def Shape.areaSize (h : Shape) : Nat := (h.jetsAt + h.jets * h.jetArea + 4095) / 4096 * 4096

/-- sys.jsave of a jet (R395). -/
def Shape.jsave (h : Shape) (base : Dword) (jet : Nat) : Dword := base + BitVec.ofNat 64 (h.jetsAt + jet * h.jetArea)

/-- What of a pending cause concerns the threads that the repack puts in jet `i` (log 60). -/
def Pending.moved (q : Pending) (p : Places) (j i : Nat) : Option Pending :=
  let lanes := maskOf (((lanesOf q.lanes).filter fun l => decide ((p.thread j l).1 = i)).map fun l => (p.thread j l).2)
  if q.cause = .preempt then (if p.jet j = i then some q else none)
  else if lanes = 0 then none
  else
    some { q with
      lanes := lanes
      resume := (q.resume.filter fun r => decide ((p.thread j r.lane).1 = i)).map fun r =>
        { r with lane := (p.thread j r.lane).2 } }

/-- The causes pending for the threads of jet `i` after the repack. -/
def Basin.causesAt (B : Basin) (p : Places) (i : Nat) : List Pending :=
  (B.jets.flatMap fun e => e.2.causes.filterMap fun q => q.moved p e.1 i).foldl joinCause []

/-- A kept jet after the repack (R163, R164), at index `i`: its new threads, each moved past its `REORD`; s8 to s127 undefined;
masks zero; window base and format mode as at the start. What R59 remembers of the group that issued last starts anew, as at
the start of a jet (DESIGN CHOICE, log 67). -/
def Jet.repacked (J : Jet) (B : Basin) (i : Nat) (ts : List Thread) (undef : Nat → Word) : Jet :=
  { J with
    threads := (List.range 32).filterMap fun l => (ts[l]?).map fun t => (l, t.pass)
    sregs := (List.range 128).map fun r => (r, if r < 8 then J.sreg r else undef r)
    masks := [], wb := 32, fmode := 0, lastLane := 31, inRow := 0
    slotHeld := ts.any fun t => decide (0 < t.tx.depth)
    slotFor := 0
    jsave := if B.bsave = 0 then J.jsave else B.shape.jsave B.bsave i
    causes := B.causesAt B.places i }

/-- The jets of a basin after the repack (R163): kept jets take indices from 0; the others are freed as exited. -/
def Basin.repackJets (B : Basin) (undef : Nat → Nat → Word) : Nat → List (Nat × Jet) → Cells Jet
  | _, [] => []
  | i, e :: rest =>
    let mine := (B.reordOrder.drop (32 * i)).take 32
    let J :=
      if mine.isEmpty then { e.2 with threads := [], run := .exited, slotHeld := false, slotFor := 0, causes := [] }
      else e.2.repacked B i (mine.map (·.2)) (undef i)
    (i, J) :: B.repackJets undef (i + 1) rest

/-- The basin after the repack; its matrix operations follow their jets. -/
def Basin.repack (B : Basin) (undef : Nat → Nat → Word) : Basin :=
  let live := B.jets.filter fun e => !decide (e.2.run = .exited)
  let gone := B.jets.filter fun e => decide (e.2.run = .exited)
  { B with
    jets := B.repackJets undef 0 live ++ (List.range gone.length).filterMap fun i =>
      (gone[i]?).map fun e => (live.length + i, e.2)
    matQ := B.matQ.map fun (o : MatOp) => { o with jet := B.places.jet o.jet }
    matDone := B.matDone.map fun (o : MatOp) => { o with jet := B.places.jet o.jet, regs := [] } }

/-- The writes in flight that the release of a copy or an update covers, which a jet issued at a tick: those that the jet counts
(R231, R236). -/
def State.coveredBy (s : State) (b j tag : Nat) : List (Nat × Nat × Nat × Bool) :=
  (s.writes.filter fun w => w.countedBy b j && decide (w.tag < tag)).map Write.request

/-- What names a jet or a thread of a basin from outside it follows the repack: writes in flight, the issuers of copies and
updates, whose releases keep the writes that they cover, answers to rays, and the irrevocable token (R164, R201, R231, R270, R349,
R362). -/
def State.renamed (s : State) (b : Nat) (B : Basin) : State :=
  let p := B.places
  let owner := fun (o : Nat × Nat) => if o.1 = b then (b, p.jet o.2) else o
  let lane := fun (r : TokenReq) =>
    if r.basin = b then { r with jet := (p.thread r.jet r.lane).1, lane := (p.thread r.jet r.lane).2 } else r
  { s with
    writes := s.writes.map fun (w : Write) => if w.basin = b then p.write w else w
    copies := s.copies.map fun (c : Copy) =>
      match c.owner with
      | none => c
      | some o =>
        if o.1 = b then
          { c with
            owner := some (owner o), threads := p.writers c.threads
            covers := some (c.covers.getD (s.coveredBy b o.2 c.tag)) }
        else c
    updates := s.updates.map fun (u : Update) =>
      match u.owner with
      | none => u
      | some o =>
        if o.1 = b then
          { u with
            owner := some (owner o), threads := p.writers u.threads
            covers := some (u.covers.getD (s.coveredBy b o.2 u.tag)) }
        else u
    answers := s.answers.map fun (a : AnswerMsg) =>
      if a.ctx = B.ctx ∧ a.launch = B.launch ∧ a.basin = B.index then
        { a with jet := (p.thread a.jet a.lane).1, lane := (p.thread a.jet a.lane).2 }
      else a
    token := { s.token with holder := s.token.holder.map lane, queue := s.token.queue.map lane } }

/-- The count of each jet, from the writes that its threads have in flight (R236). -/
def Basin.recount (B : Basin) (b : Nat) (ws : List Write) : Basin :=
  { B with jets := B.jets.mapKeys fun j J => { J with unacked := countedWrites ws b j } }

/-- REORD_REPACK (R163 to R165): once every thread of the basin waits and nothing is left to drain. The unacknowledged writes of a
thread count for the jet in which it goes on (R233, R236). -/
def execReordRepack (b : Nat) (s : State) : Host.Outcome State Fault Refusal :=
  .next
    (match s.basin? b with
    | none => s
    | some B =>
      if B.reordReady then
        let s := s.renamed b B
        s.withBasin b fun B => (B.repack fun i r => s.free (128 * i + r)).recount b s.writes
      else s)

end Sys2Proof.Machine
end

