-- ==== Sys2Proof/Machine/Requests.lean ====
section
/-! DEFINITION. What holds back an access: the words that it still touches, earlier accesses of its jet and core, the irrevocable
lane, the order of the mesh, and the service of the memory controllers (R23, R25, R177, R181, R183, R226 to R228, R233, R247, R268,
R270). -/

namespace Sys2Proof.Machine

/-! ### Stores to a word -/

/-- A queued store, or a write in flight, covers a byte of the word at an address. -/
def StoreReq.covers (q : StoreReq) (word : Nat) : Bool :=
  match q.pa with
  | some base => q.data.any fun e => decide ((base + e.1) / 4 = word / 4)
  | none => false

def Write.covers (w : Write) (word : Nat) : Bool := w.data.any fun e => decide ((w.pa + e.1) / 4 = word / 4)

/-- A write of the core to the word is still on its way to the home place. -/
def State.inTransit (s : State) (core word : Nat) : Bool :=
  s.writes.any fun w => decide (w.core = core ∧ w.stage = .sent) && w.covers word

/-- Stores of a jet to some words, or writes of its core to them, have still to reach the home place. -/
def State.storesAhead (s : State) (core : Nat) (J : Jet) (ws : List Nat) : Bool :=
  ws.any fun w => (J.storeQ.any fun q => q.covers w) || s.inTransit core w

/-- A write of the core to the line, other than one of the irrevocable lane, is still on its way to the home place. -/
def State.lineInTransit (s : State) (core pa : Nat) : Bool :=
  s.writes.any fun w => decide (w.core = core ∧ w.stage = .sent ∧ w.irr = false ∧ w.pa / 128 = pa / 128)

/-! ### The L1 -/

/-- The L1 copy of a line that a core still holds (R177, R235, log 7). -/
def State.l1Line (s : State) (core line : Nat) : Option (Cells Byte) :=
  match (s.l1.get? core).bind fun c => Cells.get? c line with
  | some d => if Config.keeps s.tick line then some d else none
  | none => none

/-- The L1 of a core serves the aligned word at an address by itself. -/
def State.l1Hit (s : State) (core pa : Nat) : Bool :=
  match s.l1Line core (pa / 128) with
  | some d => (List.range 4).all fun i => (Cells.get? d (pa % 128 + i)).isSome
  | none => false

/-! ### What an operation still touches -/

/-- Words of an access. -/
def wordsAt (pa size : Nat) : List Nat := if size = 8 then [pa, pa + 4] else [pa / 4 * 4]

/-- The words that an operation reads, in the order of its results: aligned words of memory, or scratchpad words for a reservoir
load from there (R175, R198, R373). -/
def LongOp.words (o : LongOp) : List Nat :=
  match o.kind, o.pa with
  | .load n, some pa | .ldnr n _, some pa => wordsAt pa n
  | .reservoir, some pa => (List.range 4).map fun i => pa + 4 * i
  | .ready n, _ => (List.range (n / 4)).map fun i => o.va.toNat + 4 * i
  | _, _ => []

/-- The words that it has still to read. -/
def LongOp.wordsLeft (o : LongOp) : List Nat := o.words.filter fun w => (Cells.get? o.got w).isNone

/-- A read of the scratchpad. -/
def LongOp.scratch (o : LongOp) : Bool :=
  match o.kind with
  | .ready _ => true
  | .load _ | .ldnr _ _ | .reservoir | .atom _ _ | .cas _ _ | .ctradd _ | .grow _ | .texf _ _ _ _
  | .hgrid _ _ _ _ _ => false

/-- The words of memory that a pending operation has still to read or write. -/
def LongOp.pendingWords (o : LongOp) : List Nat :=
  if o.unperformed = false then []
  else
    match o.kind, o.pa with
    | .load _, _ | .ldnr _ _, _ | .reservoir, _ => o.wordsLeft
    | .ctradd _, some pa => [pa, pa + 4]
    | .atom _ _, some pa | .cas _ _, some pa => [pa / 4 * 4]
    | _, _ => []

/-- An earlier operation of the jet comes first: an acquire that holds back its lanes; the same word for a common lane; for an
acquire, every earlier read of a common lane; or a lower lane of the same read-modify-write on the same word (R181, R183, R226,
R233, R247). -/
def Jet.comesFirst (J : Jet) (i : Nat) (o : LongOp) (ws : List Nat) : Bool :=
  (J.longs.take i).any fun x =>
    x.unperformed
      && ((decide (x.tag < o.tag) && (x.acquiresFor o.lanes || (o.acquire && decide (x.lanes &&& o.lanes ≠ 0))))
        || ((decide (x.lanes &&& o.lanes ≠ 0) || (decide (x.tag = o.tag) && x.counted))
            && x.pendingWords.any fun w => ws.contains w))

/-- Earlier accesses of some lanes of a jet to some words are still to be performed. -/
def Jet.wordsAhead (J : Jet) (mark : Nat) (lanes : Lanes) (ws : List Nat) : Bool :=
  J.longs.any fun o => decide (o.tag < mark ∧ o.lanes &&& lanes ≠ 0) && o.pendingWords.any fun w => ws.contains w

/-! ### The irrevocable lane -/

/-- The irrevocable lane holds the line already, or nothing of its core's plain writes to it is on its way: what the jets of the
core have seen of the line is at the home slice before the lane takes it (R227, R270). -/
def State.holdReady (s : State) (core pa : Nat) : Bool :=
  s.token.lines.contains (pa / 128) || !s.lineInTransit core pa

/-- Stores of a jet issued before a mark, to one of some words, are still in its store queue or on their way; in a line that the
irrevocable lane already holds, only those of its own count for it (R226, R270). -/
def State.ownStores (s : State) (b j core : Nat) (J : Jet) (o : LongOp) (ws : List Nat) : Bool :=
  ws.any fun w =>
    let held := o.irr && s.token.lines.contains (w / 128)
    (J.storeQ.any fun q => decide (q.tag < o.tag) && q.covers w && (!held || decide (q.lanes &&& o.lanes ≠ 0)))
      || (if held then
            s.writes.any fun x => decide (x.stage = .sent) && x.by b j o.lanes && x.covers w
          else s.inTransit core w)

/-- Stores of the irrevocable lane among the lanes of an access, to one of some words, are still to be performed in place: a read
through the L1 would not see them (R226, R270). -/
def State.irrStores (s : State) (b j : Nat) (J : Jet) (o : LongOp) (ws : List Nat) : Bool :=
  ws.any fun w =>
    (J.storeQ.any fun q => q.irr && decide (q.tag < o.tag ∧ q.lanes &&& o.lanes ≠ 0) && q.covers w)
      || s.writes.any fun x =>
        x.irr && decide (x.stage = .sent) && x.by b j o.lanes && x.covers w

/-! ### What holds back a read or a read-modify-write in its core -/

/-- Operations that read a word of memory or of the scratchpad at one moment: lanes of one instruction that load the same bytes
receive the same value (R176). The irrevocable lane reads in place, by itself (R268, R270). -/
def LongOp.readsWith (o x : LongOp) (w : Nat) : Bool :=
  decide (x.tag = o.tag ∧ x.irr = o.irr ∧ x.val = none) && x.unperformed && x.wordsLeft.contains w

/-- The places among a jet's operations of those that read a word with operation `o`. -/
def Jet.readers (J : Jet) (o : LongOp) (w : Nat) : List Nat :=
  (List.range J.longs.length).filter fun i => ((J.longs[i]?).map fun x => o.readsWith x w).getD false

/-- The lanes of some operations of a jet. -/
def Jet.lanesAt (J : Jet) (is : List Nat) : Lanes :=
  is.foldl (fun m i => m ||| ((J.longs[i]?).map (·.lanes)).getD 0) 0

/-- Nothing of its own core, of the same lane, of a release before it or of the irrevocable lane holds back the read of a word now,
for the operations of a jet at some places (R226, R228, R268). -/
def State.readFree (s : State) (b j core : Nat) (J : Jet) (is : List Nat) (lanes : Lanes) (o : LongOp) (w : Nat) : Bool :=
  (is.all fun i => match J.longs[i]? with
    | some x => !J.comesFirst i x [w] && !s.irrStores b j J x [w]
    | none => true)
    && !s.releaseOpen b j J o.tag lanes false
    && (if o.irr then s.mayTouch b j o.lanes w && s.holdReady core w && !s.ownStores b j core J o [w]
        else s.l1Hit core w || s.mayTouch b j lanes w)

/-- What a read-modify-write waits for beside the order of its lanes: its release, releases before it, the earlier stores of its jet
to its words, the irrevocable lane and, at basin scope, room in the jet's count of unacknowledged writes. The release of a `CTRADD`
waits for the count at every scope (R13, R181, R183, R211, R228, R236, R268, R270). -/
def State.atomHeld (s : State) (b j core : Nat) (J : Jet) (o : LongOp) (pa : Nat) : Bool :=
  let ws := o.pendingWords
  (o.release && !J.released (if o.isCtradd then .pkg else o.scope) o.tag o.lanes)
    || (if o.scope = .bsn then
          (J.storeQ.any fun q => decide (q.tag < o.tag) && ws.any q.covers) || s.irrStores b j J o ws
        else s.ownStores b j core J o ws)
    || !s.mayTouch b j o.lanes pa || (o.irr && !s.holdReady core pa)
    || s.releaseOpen b j J o.tag o.lanes false
    || (decide (o.scope = .bsn) && decide (512 ≤ J.unacked))

/-! ### The mesh (R21 to R23, log 68) -/

/-- Operation `i` of a jet has a request of its own on the way to the node of its home place: nothing in its core holds it back, and
no L1 serves it. -/
def State.onMesh (s : State) (b j i core : Nat) (J : Jet) (o : LongOp) : Bool :=
  match o.pa with
  | none => false
  | some pa =>
    if o.unperformed = false ∨ o.scratch = true then false
    else if o.counted then decide (o.scope ≠ .bsn) && !J.comesFirst i o o.pendingWords && !s.atomHeld b j core J o pa
    else o.wordsLeft.any fun w =>
      (o.irr || !s.l1Hit core w) && s.readFree b j core J (J.readers o w) (J.lanesAt (J.readers o w)) o w

/-- The node at which an operation is performed: that of its home place or, for an atomic of system scope on the system window, the
I/O die with its Vinil port (Table 11.3). -/
def LongOp.node (o : LongOp) (pa : Nat) : Nat :=
  if o.counted = true ∧ o.scope = .sys ∧ inWindow pa = true then ioNode else homeNode pa

/-- An operation of a jet of the die, issued before a tick, is on its way to a node on the virtual channel of a request: counter
increments have one of their own (Table 1.6). -/
def State.opsAhead (s : State) (die node mark : Nat) (ctr : Bool) : Bool :=
  s.basins.any fun e => decide (dieOf e.2.core = die) && e.2.jets.any fun x =>
    (List.range x.2.longs.length).any fun i =>
      match x.2.longs[i]? with
      | none => false
      | some o =>
        decide (o.tag < mark ∧ o.isCtradd = ctr ∧ o.pa.map o.node = some node) && s.onMesh e.1 x.1 i e.2.core x.2 o

/-- Requests from the shader die of a core to a node arrive in the order in which they were issued (R23): a write that left the store
point before a tick, or another request issued before it, comes before a request that was issued at it or later. Within one die no
mesh lies between them, a request that the irrevocable lane holds back has arrived, and a write of its own waits for other
writes (log 68). -/
def State.meshWaits (s : State) (core node mark : Nat) (ctr : Bool := false) : Bool :=
  decide (node ≠ dieOf core)
    && ((!ctr && s.writes.any fun w =>
          decide (w.stage = .sent ∧ w.irr = false ∧ dieOf w.core = dieOf core ∧ homeNode w.pa = node ∧ w.sent < mark)
            && !s.writeHeld w)
        || s.opsAhead (dieOf core) node mark ctr)

/-! ### The memory controllers (R25, log 52) -/

/-- The rank of a request: an unmarked one that has waited 2,048 base-die cycles, an urgency-marked read, any other. -/
def LongOp.rank (o : LongOp) : Nat := if o.promoted then 2 else if o.urgent then 1 else 0
def Write.rank (w : Write) : Nat := if w.promoted then 2 else 0
def Copy.rank (c : Copy) : Nat := if c.promoted then 2 else 0

/-- A request of a higher rank has arrived at the bank group of an address and waits there: an operation, a write, or, by a free
choice, one of the requests of a copy. -/
def State.outranked (s : State) (pa rank : Nat) : Bool :=
  let same := fun p : Nat => s.isHbm p && decide (Config.bankGroup (p / 128) = Config.bankGroup (pa / 128))
  (s.basins.any fun e => e.2.jets.any fun x => (List.range x.2.longs.length).any fun i =>
      match x.2.longs[i]? with
      | none => false
      | some o =>
        decide (rank < o.rank) && s.onMesh e.1 x.1 i e.2.core x.2 o
          && (match o.pa with | some p => same p && !s.meshWaits e.2.core (o.node p) o.tag o.isCtradd | none => false))
    || (s.writes.any fun w =>
      decide (rank < w.rank ∧ w.stage = .sent) && same w.pa && !s.writeHeld w && !s.meshWaits w.core (homeNode w.pa) w.sent)
    || s.copies.any fun c => decide (rank < c.rank) && Config.keeps s.tick (8000000 + c.id)

/-- A memory controller serves a request of a higher rank at the same bank group first. An access that its home slice serves by
itself never reaches the controller. -/
def State.servedLater (s : State) (pa rank : Nat) : Bool :=
  s.isHbm pa && s.outranked pa rank && Config.reaches s.tick (pa / 128)

/-- What a read-modify-write waits for beside the order of its lanes: what holds it back in its core and, where it is performed at its
home place, the mesh and the memory controller (R23, R25). -/
def State.atomWaits (s : State) (b j core : Nat) (J : Jet) (o : LongOp) (pa : Nat) : Bool :=
  s.atomHeld b j core J o pa
    || (decide (o.scope ≠ .bsn) && (s.meshWaits core (o.node pa) o.tag o.isCtradd || s.servedLater pa o.rank))

end Sys2Proof.Machine
end

