-- ==== Sys2Proof/Machine/Ready.lean ====
section
/-! DEFINITION. What can be seen of waits: reports of rays, PC groups and their readiness (R54, R55, R58). -/

namespace Sys2Proof.Machine

/-! ### Rays as their owners see them -/

/-- The ticket of a ray (R328). -/
def Ray.ticket (r : Ray) : Word := BitVec.ofNat 32 (2 ^ 28 * r.stack + 2 ^ 10 * r.entry + r.gen)

/-- In CANDIDATE, FAULT or DONE. -/
def Ray.reported (r : Ray) : Bool := decide (r.state = .candidate ∨ r.state = .fault ∨ r.state = .done)

/-- The ray that a valid ticket names for a basin (R328). -/
def State.rayOf (s : State) (B : Basin) (ticket : Word) : Option Ray :=
  s.rays.find? fun r => decide (r.ticket = ticket ∧ r.ctx = B.ctx ∧ r.launch = B.launch ∧ r.basin = B.index)

/-- An answer of a thread on a ticket that has not yet acted (R362). -/
def State.answerOut (s : State) (B : Basin) (j l : Nat) (ticket : Word) : Bool :=
  s.answers.any fun a => decide (a.ticket = ticket ∧ a.ctx = B.ctx ∧ a.launch = B.launch ∧ a.basin = B.index
    ∧ a.jet = j ∧ a.lane = l)

/-- The ray of a ticket has no report for a thread yet (R332). -/
def State.rayWaits (s : State) (B : Basin) (j l : Nat) (ticket : Word) : Bool :=
  match s.rayOf B ticket with
  | none => false
  | some r => !r.reported || s.answerOut B j l ticket

/-! ### What short waits wait for -/

/-- The state of a tile: 0 EMPTY, 1 FILLING, 2 READY, 3 DRAINING (R303, Table 19.5). -/
def Basin.tileState (B : Basin) (t : Nat) : Nat :=
  match B.tiles.get? t with
  | none => 0
  | some x => match x.state with | .filling => 1 | .ready => 2 | .draining => 3

/-- Every non-exited jet of the basin is in the context-save handler, or has left it (R388). -/
def Basin.allSaving (B : Basin) : Bool :=
  B.jets.all fun e => decide (e.2.handler = .save ∨ e.2.run = .saved ∨ e.2.run = .exited)

/-- Scratchpad words of the jet are still to be read or written: its accesses are performed in program order (R178). -/
def Jet.scratchBusy (J : Jet) : Bool :=
  J.longs.any fun o => match o.kind with
    | .ready _ => o.unperformed
    | .load _ | .ldnr _ _ | .reservoir | .atom _ _ | .cas _ _ | .ctradd _ | .grow _ | .texf _ _ _ _
    | .hgrid _ _ _ _ _ => false

/-- A scratchpad access of some lanes must wait: for earlier ones of its jet (R178), or for an acquire that precedes it
(R183). -/
def Jet.scratchWaits (J : Jet) (mark : Nat) (lanes : Lanes) : Bool := J.scratchBusy || J.acquirePending mark lanes

/-- What a short wait of a lane waits for has ended. -/
def State.untilOver (s : State) (b : Nat) (B : Basin) (j : Nat) (J : Jet) (l : Nat) (u : Until) : Bool :=
  match u with
  | .tiles ts => ts.all fun t => decide (B.tileState t = 0 ∨ B.tileState t = 2)
  | .saving => B.allSaving
  | .scratch => !J.scratchWaits s.tick (laneBit l)
  | .ordered home => !(J.acquirePending s.tick (laneBit l) || s.releaseOpen b j J s.tick (laneBit l) home)
  | .reads => J.readsDone s.tick (laneBit l)
  | .stores ws => !s.storesAhead B.core J ws
  | .words ws => !J.wordsAhead s.tick (laneBit l) ws
  | .uniform rs => !uniformSeen J.longs (laneBit l) rs
  | .mesh node mark => !s.meshWaits B.core node mark
  | .lines h => decide (s.token.holder ≠ h)
  | .published r => !s.unpublished b j (laneBit l) r
  | .copies => !(s.copies.any fun c => c.namesBasin b)
  | .answer ticket => !s.answerOut B j l ticket

/-! ### PC groups -/

/-- A wait of Table 3.5: it makes its group wait long. -/
def Wait.long : Wait → Bool
  | .operand _ | .acc _ _ | .ray _ _ | .counter _ _ _ _ _ | .bar | .mask _ | .slot | .token | .fault => true
  | .none | .landed | .drain _ | .reord _ | .commit _ _ | .written | .saveExit | .held | .short _ => false

/-- A thread that stands outside every PC group until an event ends its wait: one blocked in `BAR` or `WAITM` (R54), for the
irrevocable token (R269), or at the end of the context-save handler (R393). -/
def Wait.outside : Wait → Bool
  | .bar | .mask _ | .token | .saveExit => true
  | .none | .operand _ | .landed | .drain _ | .acc _ _ | .ray _ _ | .held | .counter _ _ _ _ _ | .reord _ | .slot
  | .commit _ _ | .written | .fault | .short _ => false

/-- The wait of a thread no longer holds its next instruction back. -/
def State.waitOver (s : State) (b : Nat) (B : Basin) (j : Nat) (J : Jet) (l : Nat) (t : Thread) : Bool :=
  match t.wait with
  | .none | .held => true
  | .operand ds => !(J.longs.any fun o => decide (o.lane = 32 ∨ o.lane = l) && o.blocks ds)
  | .landed => quiet J.longs || !writesPending J.longs (laneBit l)
  | .drain acked => J.drained (if acked then .pkg else .bsn)
  | .acc a mark => !(B.matQ.any fun o => decide (o.acc = a ∧ o.tag < mark))
  | .ray ticket _ => !s.rayWaits B j l ticket
  | .short u => s.untilOver b B j J l u
  | .counter _ _ _ _ _ | .bar | .mask _ | .reord _ | .slot | .token | .commit _ _ | .written | .fault | .saveExit => false

/-- Threads that issue together: one program counter, one guard state, skipping or not (R54, R88, R258). -/
def Thread.sameGroup (t u : Thread) : Bool :=
  decide (t.pc = u.pc ∧ t.guardBit = u.guardBit ∧ t.guardLeft = u.guardLeft ∧ (t.tx.skip = 0 ↔ u.tx.skip = 0))

/-- The lanes of the PC group of a lane. -/
def Jet.groupOf (J : Jet) (t : Thread) : Lanes := J.lanesWith fun u => !u.wait.outside && u.sameGroup t

/-- The lowest lanes of the PC groups of a jet, ascending. -/
def Jet.groups (J : Jet) : List Nat :=
  (J.threads.filter fun e => !e.2.wait.outside && decide (lowLane (J.groupOf e.2) = e.1)).map (·.1)

/-- Threads that are active under the guard (R85). -/
def Thread.active (t : Thread) : Bool := decide (t.guardLeft = 0) || t.guardBit

/-- A thread that has issued its instruction and waits at it: `TRWAIT` and `MWAIT`, which go on where they stand. -/
def Thread.issued (t : Thread) : Bool := match t.wait with | .ray _ _ | .acc _ _ => true | _ => false

/-- The issue of a group of a jet: its lanes, those active under the guard, and its program counter. -/
def State.issueOf (b j : Nat) (J : Jet) (t : Thread) : Issue :=
  let g := J.groupOf t
  let x := g &&& J.lanesWith Thread.active
  { basin := b, jet := j, group := g, exec := x, pc := t.pc, window := decide (0 < t.guardLeft)
    resumed := decide (x ≠ 0) && decide (x &&& ~~~ J.lanesWith Thread.issued = 0) }

/-- The instruction word at which a thread stands, where its page translates: as the group will fetch it, but for what a fetch
changes (R197). -/
def State.nextInstr (s : State) (B : Basin) (J : Jet) (t : Thread) : Option Instr :=
  match s.look B.ctx J.sys t.pc.toNat .fetch with
  | .ok pa => decodeBytes (bytesOfWord (BitVec.ofNat 32 (s.homeNat pa 4)))
  | .fault _ _ | .held => none

/-- What holds back the next instruction of a group, so that the group is not ready (R54): a register that is the pending
destination of a long write past its shadow, which a word of R81 ends, a long wait (R55, R77); or pending writes that a word of R81
waits for, a register of which it has seen a value that is still to land, or a busy tile (R79, R295), which are short. A word that
traps at its issue does not wait (R100), a skipping group reads nothing (R258), and threads that wait where they have issued read
nothing more. -/
inductive Hold where
  | free | long | short
  deriving DecidableEq, Repr

/-- What holds back the next instruction of the group of a thread. -/
def State.nextHold (s : State) (b : Nat) (B : Basin) (j : Nat) (J : Jet) (t : Thread) : Hold :=
  let busy := fun n : Nat => decide (B.tileState n = 1 ∨ B.tileState n = 3)
  let c := State.issueOf b j J t
  if c.resumed = true ∨ 0 < t.tx.skip ∨ (J.longs.isEmpty = true ∧ (B.tiles.any fun e => busy e.1) = false) then .free
  else
    match s.nextInstr B J t with
    | none => .free
    | some i =>
      let o := operandsOf i
      let reads := fun ops => operandsPending ops c.exec (o.laneDests B.shape J.wb) (o.ureads.map Dest.ureg)
      if (c.window && o.barred) || !regsOk B.shape J.wb o || decide (c.exec = 0) then .free
      else if o.ends && writesPending J.longs (o.endLanes J c.exec) then
        if reads (endShadows J.longs (o.endLanes J c.exec)) then .long else .short
      else if reads J.longs then .long
      else if o.seen J.longs c.exec then .short
      else if (tilesNamed J.fmode.toNat J.sreg i).any busy then .short
      else .free

/-- Every thread of a group may issue. Of a group that stands at a `REORD`, those that have executed it wait there (R162), and
the others have still to execute it. -/
def State.groupReady (s : State) (b : Nat) (B : Basin) (j : Nat) (J : Jet) (l : Nat) : Bool :=
  match J.threads.get? l with
  | none => false
  | some t =>
    let all := (lanesOf (J.groupOf t)).filterMap fun k => (J.threads.get? k).map fun u => (k, u)
    (all.all fun e => e.2.atReord || s.waitOver b B j J e.1 e.2) && (all.any fun e => !e.2.atReord)
      && decide (s.nextHold b B j J t = .free)

/-- A replayable fault holds back a whole jet: that of an access, or of the counter of its `WAITGE` (R194, R210). The fault of
a fetch suspends its group alone (R197). -/
def State.jetFaulted (s : State) (b j : Nat) : Bool :=
  s.faults.any fun f =>
    match f.owner with
    | .access b' j' => decide (b' = b ∧ j' = j)
    | .group b' j' _ fetch => decide (b' = b ∧ j' = j) && !fetch
    | .copy _ | .queue _ _ | .launch _ | .page _ _ _ _ | .sue => false

/-- The ready groups of a jet, by their lowest lanes (R54). -/
def State.readyGroups (s : State) (b : Nat) (B : Basin) (j : Nat) (J : Jet) : List Nat :=
  if s.jetFaulted b j then [] else J.groups.filter fun l => s.groupReady b B j J l

/-- The pre-emption of a jet may be taken (R391): no lane holds the token, and no replayable fault waits. -/
def State.mayPreempt (s : State) (b j : Nat) : Bool :=
  (match s.token.holder with | some r => !decide (r.basin = b ∧ r.jet = j) | none => true)
    && !(s.faults.any fun f =>
      match f.owner with
      | .access b' j' => decide (b' = b ∧ j' = j)
      | .group b' j' _ _ => decide (b' = b ∧ j' = j)
      | .copy _ | .queue _ _ | .launch _ | .page _ _ _ _ | .sue => false)

/-- Every thread of the basin has arrived at `REORD`: the repack is complete before any trap reaches a jet of it (R163). -/
def State.repacking (s : State) (b : Nat) : Bool := ((s.basin? b).map Basin.reordArrived).getD false

/-- A jet can take a pending cause, were it active (R379): a pre-emption is left aside until R391 allows it. -/
def State.jetTrapped (s : State) (b j : Nat) (J : Jet) : Bool :=
  !J.sys && !s.repacking b && (J.causes.any fun p =>
    if p.cause = .preempt then s.mayPreempt b j else true)

/-- A jet is ready (R54, R379). -/
def State.jetReady (s : State) (b : Nat) (B : Basin) (j : Nat) (J : Jet) : Bool :=
  s.jetTrapped b j J || !(s.readyGroups b B j J).isEmpty

/-- Some group of the jet waits long, or a replayable fault does (Table 3.5). -/
def State.jetWaitsLong (s : State) (b : Nat) (B : Basin) (j : Nat) (J : Jet) : Bool :=
  s.jetFaulted b j || (J.threads.any fun e => e.2.wait.long)
    || J.groups.any fun l => ((J.threads.get? l).map fun t => decide (s.nextHold b B j J t = .long)).getD false

/-- Jets of a spout: basin, jet number and jet. -/
def State.spoutJets (s : State) (core sp : Nat) : List (Nat × Nat × Jet) :=
  s.basins.flatMap fun e =>
    if e.2.core = core then
      (e.2.jets.filter fun j => decide (j.2.slot % 16 = sp)).map fun j => (e.1, j.1, j.2)
    else []

/-- No other jet of the spout's active set is ready: the urgency bit of a read (R25). -/
def State.urgentNow (s : State) : Bool :=
  match s.basin? s.cur.basin, s.jet? s.cur.basin s.cur.jet with
  | some B, some J =>
    (s.spoutJets B.core (J.slot % 16)).all fun e =>
      decide (e.1 = s.cur.basin ∧ e.2.1 = s.cur.jet) || decide (e.2.2.run ≠ .active)
        || (match s.basin? e.1 with | some K => !s.jetReady e.1 K e.2.1 e.2.2 | none => true)
  | _, _ => false

end Sys2Proof.Machine
end

