-- ==== Sys2Proof/Machine/Memory.lean ====
section
/-! DEFINITION. Loads, stores, atomics, fences, counters, page requests and prefetches, opcodes 0x4B and 0x50 to 0x5D but
for `COPY` (R171 to R185, R190 to R200, R210, R211, R216, R224 to R237), with their transactional forms (R252 to R254,
R265, R272). -/

namespace Sys2Proof.Machine

/-! ### The L1 and the core's view of memory -/

/-- The writes of a core to a line that are still on their way home, applied to its bytes, oldest first (R227); those of the
irrevocable lane are performed in place at the home slice (R270). -/
def State.inFlight (s : State) (core line : Nat) (off : Nat) (home : Option Byte) : Option Byte :=
  s.writes.foldl (fun v w =>
    if w.core = core ∧ w.pa / 128 = line ∧ w.stage = .sent ∧ w.irr = false then
      match Cells.get? w.data ((128 * line + off) - w.pa) with
      | some x => some x
      | none => v
    else v) home

/-- A byte of a line as a core sees it: the home copy, none where it is poisoned, under the core's own writes in flight (R218,
R227). -/
def State.seenByte (s : State) (core line off : Nat) : Option Byte :=
  s.inFlight core line off
    (if s.poisoned (128 * line + off) then none else some (s.homeByte (128 * line + off)))

/-- The bytes of a line that belong to words of which all four are there: the L1 keeps no part of a word (R222). -/
def wholeWords (d : Cells Byte) : Cells Byte :=
  d.filter fun e => (List.range 4).all fun i => (Cells.get? d (e.1 / 4 * 4 + i)).isSome

/-- A line as a core fills it, whatever it held of the line before (R177, R247); poisoned bytes are left out. -/
def State.filledLine (s : State) (core line : Nat) : Cells Byte :=
  (List.range 128).filterMap fun off => (s.seenByte core line off).map fun v => (off, v)

/-- The lines that an L1 of 256 KiB holds at most (R12). -/
def l1Lines : Nat := 2048

/-- A line goes to the L1 of a core, in the stead, where it is full, of any other (R12, R235, log 7). -/
def State.setL1 (s : State) (core line : Nat) (d : Cells Byte) : State :=
  let others := Cells.del ((s.l1.get? core).getD []) line
  let kept :=
    if others.length < l1Lines then others
    else dropNth (fun _ => true) ((s.free (910000 + line % 1000)).toNat % others.length) others
  { s with l1 := s.l1.put core (kept.put line d) }

/-- Drops the L1 copy of a line of a core (R177, R221, R235). -/
def State.dropL1Line (s : State) (core line : Nat) : State :=
  { s with l1 := s.l1.modify core fun c => Cells.del c line }

/-- Invalidates the whole L1 of a core: an acquire at package or system scope (R200, R235). -/
def State.dropL1 (s : State) (core : Nat) : State := { s with l1 := s.l1.del core }

/-- A word from its four bytes, lowest first. -/
def wordFrom (f : Nat → Option Byte) : Option Word :=
  match f 0, f 1, f 2, f 3 with
  | some a, some b, some c, some e => some (e ++ c ++ b ++ a)
  | _, _, _, _ => none

/-- The bytes of the aligned word that a core reads through its L1, filling the line on a miss; none for a byte that is
poisoned (R177, R218). The control space is not cached (R124), and no copy is made of a line that the irrevocable lane holds, whose
stores in place no other jet sees yet (R243, R270). -/
def State.coreBytes (s : State) (ctx core pa : Nat) : State × (Nat → Option Byte) :=
  if inControl pa then (s, fun i => some (s.homeByte (pa + i)))
  else
    if s.l1Hit core pa then (s, fun i => Cells.get? ((s.l1Line core (pa / 128)).getD []) (pa % 128 + i))
    else
      let t := (s.homeCheck (pa / 128 * 128) 128 ctx).1
      let line := t.filledLine core (pa / 128)
      (if s.lineHeld pa then t else t.setL1 core (pa / 128) (wholeWords line), fun i => Cells.get? line (pa % 128 + i))

/-- The aligned word that a core reads through its L1; none where it is poisoned (R177, R218). -/
def State.coreWord (s : State) (ctx core pa : Nat) : State × Option Word :=
  let r := s.coreBytes ctx core pa
  (r.1, wordFrom r.2)

/-- A byte of the word at an address under the stores of the jet that are still in its store queue (R228): those of the
reading lanes always; whether one of other lanes is seen is one free choice for each store (log 2). Those of the irrevocable
lane are performed in place (R270). -/
def forward (lanes : Lanes) (pa : Nat) (q : List StoreReq) (i : Nat) (v : Option Byte) : Option Byte :=
  q.foldl (fun (v : Option Byte) (e : StoreReq) =>
    match e.pa with
    | none => v
    | some base =>
      if base / 128 = pa / 128 ∧ e.irr = false then
        let own := e.data.any fun x => decide ((base + x.1) / 4 = pa / 4 ∧ x.2.lanes &&& lanes ≠ 0)
        match Cells.get? e.data (pa + i - base) with
        | some x => if own || Config.keeps e.tag 1000000 then some x.val else v
        | none => v
      else v) v

/-- The irrevocable lane takes a line (R270). -/
def State.holdLine (s : State) (pa : Nat) : State :=
  { s with token := { s.token with lines := insertKey s.token.lines (pa / 128) } }

/-- The bytes of an access in its aligned word: a sub-word load is zero-extended (R175). -/
def subWord (w : Word) (pa size : Nat) : Word :=
  if size = 1 then BitVec.ofNat 32 (w.toNat / 256 ^ (pa % 4) % 256)
  else if size = 2 then BitVec.ofNat 32 (w.toNat / 256 ^ (pa % 4) % 65536)
  else w

/-! ### Issue of accesses -/

/-- Lookups of the filter units. -/
def LongOp.lookup (o : LongOp) : Bool :=
  match o.kind with
  | .texf _ _ _ _ | .hgrid _ _ _ _ _ => true
  | .load _ | .ldnr _ _ | .reservoir | .atom _ _ | .cas _ _ | .ctradd _ | .ready _ | .grow _ => false

/-- The requests of a jet that have not completed, but for the writes past the store point: one for each instruction and line
(R190), one for each lookup, and one for each queued store request. -/
def Jet.requests (J : Jet) : Nat :=
  ((J.longs.filter fun o => o.addressed && o.unperformed).map fun o => (o.tag, o.va.toNat / 128)).eraseDups.length
    + (J.longs.filter fun o => o.lookup && o.val.isNone).length + J.storeQ.length

/-- A write belongs to a request of which other lanes have still to be performed: that of a `.bsn` atomic (R190). -/
def State.partSent (s : State) (w : Write) : Bool :=
  match s.basin? w.basin with
  | none => false
  | some B => B.jets.any fun e =>
      e.2.longs.any fun o => o.counted && decide (o.tag = w.tag ∧ o.pa.map (· / 128) = some (w.pa / 128))

/-- Requests of a core that have not completed (R13, R24, R190, log 68). -/
def State.outstanding (s : State) (core : Nat) : Nat :=
  s.basins.foldl (fun n e =>
    if e.2.core = core then e.2.jets.foldl (fun n j => n + j.2.requests) n else n)
    ((s.writes.filter fun w => decide (w.core = core) && !s.partSent w).map Write.request).eraseDups.length

/-- A memory instruction does not issue: a further number of requests would pass the 512 of R24, or the request channel of the core
has no free buffer, a free choice while requests are outstanding (R24, log 68). -/
def State.full (s : State) (n : Nat) : Bool :=
  let core := s.coreOf s.cur.basin
  decide (512 < s.outstanding core + n) || (decide (0 < s.outstanding core) && Config.channelFull s.tick core)

/-- The requests of one instruction: the 128-byte lines of its lanes (R190). -/
def lineCount (vas : List Dword) : Nat := (vas.map fun va => va.toNat / 128).eraseDups.length

/-- The issue-time fault of a global access, the lowest code first (R172, R173, R193). -/
def globalFault (ea : Dword) (size : Nat) : Option (BitVec 4) :=
  if 2 ^ 48 ≤ ea.toNat then some 7 else if ea.toNat % size ≠ 0 then some 8 else none

/-- The issue-time fault of a scratchpad access (R172, R173, R193). -/
def scratchFault (ea : Word) (size limit : Nat) : Option (BitVec 4) :=
  if ea.toNat % size ≠ 0 then some 8 else if limit < ea.toNat + size then some 9 else none

/-- The failing lanes among some, with the address and the kind of the lowest. -/
def firstFault (lanes : List Nat) (f : Nat → Option (BitVec 4)) (va : Nat → Dword) :
    Option (Lanes × Dword × BitVec 4) :=
  match lanes.filter fun l => (f l).isSome with
  | [] => none
  | l :: rest => some (maskOf (l :: rest), va l, (f l).getD 0)

/-- A fault waits for the controller (R194). -/
def State.raiseFault (s : State) (owner : FaultOwner) (ctx : Nat) (va : Dword) (kind : BitVec 4) (level0 : Bool) :
    State :=
  if s.faults.any fun f => decide (f.owner = owner ∧ f.ctx = ctx ∧ f.va.toNat / 4096 = va.toNat / 4096) then s
  else { s with faults := s.faults ++ [{ owner := owner, ctx := ctx, va := va, kind := kind, level0 := level0 }] }

def LongOp.access (o : LongOp) : Access :=
  match o.kind with
  | .atom _ _ | .cas _ _ | .ctradd _ => .write
  | .load _ | .ldnr _ _ | .reservoir | .ready _ | .grow _ | .texf _ _ _ _ | .hgrid _ _ _ _ _ => .read

def LongOp.isLdnr (o : LongOp) : Bool := match o.kind with | .ldnr _ _ => true | _ => false


/-- Where the lanes of an access resume when it is given up: at the instruction, with its guard state (R195, R89). -/
def resumes (lanes : Lanes) (origin : Dword) (grd : BitVec 5) : List Resume :=
  (lanesOf lanes).map fun l => ⟨l, origin, grd⟩

/-- An access given up: PAGEFAULT or NOFRAME becomes pending for its lanes (R195, R196). -/
def State.giveUp (s : State) (b j : Nat) (c : Cause) (lanes : Lanes) (origin : Dword) (grd : BitVec 5) (va : Dword)
    (kind : BitVec 4) : State :=
  s.addCause b j { cause := c, lanes := lanes, resume := resumes lanes origin grd, va := va, kind := kind }

/-- A translated operation: `LDNR` learns that its page is resident. -/
def LongOp.placed (o : LongOp) (pa : Nat) : LongOp := { o with pa := some pa }

/-- `LDNR` of a page that is not valid: zero, and a false predicate (R198). -/
def LongOp.absent (o : LongOp) : LongOp :=
  match o.kind with
  | .ldnr size _ => { o with kind := .ldnr size false, val := some [0, 0] }
  | _ => o

/-- The lanes of an operation's instruction whose addresses lie in its page (R223). -/
def LongOp.sharers (o : LongOp) (all : List LongOp) : Lanes :=
  all.foldl (fun m x => if x.tag = o.tag ∧ x.va.toNat / 4096 = o.va.toNat / 4096 then m ||| x.lanes else m) o.lanes

/-- Translates the operations of a jet that have no physical address yet. An offered fault waits; one that is not offered
traps PAGEFAULT for the lanes concerned, and a `CTRADD` is dropped (R188, R192, R194, R211, log 13). One whose walk meets a line
of the irrevocable lane is tried again later (R268). Every lane goes by the TLB entries at the start, and the lanes of one
instruction share the translation of a page, that of the irrevocable lane where it is among them (R223): `all` are the operations
that are translated together. -/
def State.translateOps (s : State) (tlb : List TlbEntry) (b j : Nat) (all : List LongOp) : List LongOp → State × List LongOp
  | [] => (s, [])
  | o :: rest =>
    if o.addressed = false ∨ o.pa.isSome = true ∨ o.val.isSome = true then
      let r := s.translateOps tlb b j all rest
      (r.1, o :: r.2)
    else
      let ctx := s.ctxOf b
      match s.translateOwn tlb (s.holderAmong b j (o.sharers all)) (corePlace (s.coreOf b)) ctx o.sys o.va.toNat o.access with
      | (s, .ok pa) =>
        let r := s.translateOps tlb b j all rest
        (r.1, o.placed pa :: r.2)
      | (s, .held) =>
        let r := s.translateOps tlb b j all rest
        (r.1, o :: r.2)
      | (s, .fault k z) =>
        if o.isLdnr = true ∧ k = 1 then
          let r := s.translateOps tlb b j all rest
          (r.1, o.absent :: r.2)
        else if offered k then
          let r := (s.raiseFault (.access b j) ctx o.va k z).translateOps tlb b j all rest
          (r.1, o :: r.2)
        else if o.isCtradd then (s.logError 0x11 4 0 ctx).translateOps tlb b j all rest
        else (s.giveUp b j .pagefault o.lanes o.origin o.grd o.va k).translateOps tlb b j all rest

/-- The address that the lowest lane of a store request writes (R193, R195). -/
def StoreReq.faultVa (q : StoreReq) : Dword :=
  q.va + BitVec.ofNat 64 (((q.data.find? fun e => e.2.lanes.getLsbD (lowLane q.lanes)).map (·.1)).getD 0)

/-- Translates the store requests of a jet that have no physical address yet (R194). -/
def State.translateStores (s : State) (tlb : List TlbEntry) (b j : Nat) : List StoreReq → State × List StoreReq
  | [] => (s, [])
  | o :: rest =>
    if o.pa.isSome then
      let r := s.translateStores tlb b j rest
      (r.1, o :: r.2)
    else
      let ctx := s.ctxOf b
      match s.translateOwn tlb (s.holderAmong b j o.lanes) (corePlace (s.coreOf b)) ctx o.sys o.va.toNat .write with
      | (s, .ok pa) =>
        let r := s.translateStores tlb b j rest
        (r.1, { o with pa := some pa } :: r.2)
      | (s, .held) =>
        let r := s.translateStores tlb b j rest
        (r.1, o :: r.2)
      | (s, .fault k z) =>
        if offered k then
          let r := (s.raiseFault (.access b j) ctx o.faultVa k z).translateStores tlb b j rest
          (r.1, o :: r.2)
        else (s.giveUp b j .pagefault o.lanes o.origin o.grd o.faultVa k).translateStores tlb b j rest

/-- New operations enter their jet in program order, after a translation by the given TLB entries (R175, R194). -/
def State.enterOpsBy (s : State) (tlb : List TlbEntry) (b j : Nat) (ops : List LongOp) : State :=
  let r := s.translateOps tlb b j ops ops
  r.1.withJet b j fun J => { J with longs := J.longs ++ r.2 }

def State.enterOps (s : State) (b j : Nat) (ops : List LongOp) : State := s.enterOpsBy s.tlb b j ops

/-- New store requests enter the jet's store queue: those that are translated before those that wait (R194, R227). -/
def State.enterStores (s : State) (b j : Nat) (reqs : List StoreReq) : State :=
  let r := s.translateStores s.tlb b j reqs
  r.1.withJet b j fun J =>
    { J with storeQ := J.storeQ ++ (r.2.filter fun q => q.pa.isSome) ++ (r.2.filter fun q => q.pa.isNone) }

/-- The accesses of a jet that have no translation are translated again (R194). -/
def State.retryAccess (s : State) (b j : Nat) : State :=
  match s.jet? b j with
  | none => s
  | some J =>
    let r := s.translateOps s.tlb b j J.longs J.longs
    let q := r.1.translateStores s.tlb b j J.storeQ
    q.1.withJet b j fun J => { J with longs := r.2.filter fun o => !o.finished, storeQ := q.2 }

/-- An access of a jet waits for a replayable fault. -/
def State.accessFaulted (s : State) (b j : Nat) : Bool :=
  s.faults.any fun f => decide (f.owner = .access b j)

/-- The accesses of a jet whose walk waited for the irrevocable lane alone are translated again (R268). -/
def State.retryHeld (s : State) (b j : Nat) : State := if s.accessFaulted b j then s else s.retryAccess b j

/-- The guard state of a lane before the instruction in hand. -/
def Jet.grdOf (J : Jet) (l : Nat) : BitVec 5 := ((J.threads.get? l).map Thread.guardState).getD 0

/-- A lane's new operation. Only `LD.g`, `LDNR` and the atomics take part in an irrevocable transaction (R270). -/
def State.newOp (s : State) (J : Jet) (l shadow : Nat) (dests : List Dest) (kind : LongKind) (va : Dword) : LongOp :=
  { lane := l, lanes := laneBit l, tag := s.tick, shadow := shadow, since := s.cycle
    urgent := (match kind with | .load _ | .ldnr _ _ => s.urgentNow | _ => false)
    dests := (List.range dests.length).zip dests, kind := kind, va := va, sys := J.sys, origin := s.cur.pc
    grd := J.grdOf l
    irr := (match kind with
      | .load _ | .ldnr _ _ | .atom _ _ | .cas _ _ => ((J.threads.get? l).map Thread.inIrr).getD false
      | _ => false) }

/-- The destinations of a load of a size in a register of a jet, as mapped at issue (R81). -/
def Jet.loadDests (J : Jet) (d : Reg) (sz : Size) : List Dest :=
  (block d (Size.regs sz)).map fun r => .word (mapReg J.wb r)

/-! ### Transactional accesses (R252 to R254, R272) -/

/-- What becomes of a transactional access: it may have to wait before it reads memory. -/
inductive TxResult where
  | ok (t : Tx) (words : List Word)
  | abort (code fkind : Nat)
  | wait (u : Until)
  deriving DecidableEq, Repr

/-- The bytes a write log puts over a word. -/
def LogWord.over (e : LogWord) (w : Word) : Word :=
  [0, 1, 2, 3].foldl (fun w i =>
    if e.mask.getLsbD i then (w &&& ~~~ (0xFF#32 <<< (8 * i))) ||| (e.val &&& (0xFF#32 <<< (8 * i))) else w) w

/-- A word is served from the logs without a memory read (R252). -/
def Tx.covered (t : Tx) (pa : Nat) : Bool :=
  (match t.wlog.get? pa with | some e => decide (e.mask = 15) | none => false) || (t.rlog.get? pa).isSome

/-- What a transactional read of some words of memory by a lane waits for: the irrevocable lane, the earlier stores of the jet and
those of its core on their way, the lane's earlier accesses to the words, and the mesh (R23, R226, R227, R228, R268). -/
def State.txReadHold (s : State) (core : Nat) (J : Jet) (l : Nat) (ws : List Nat) : Option Until :=
  if ws.any s.lineHeld then some (.lines s.token.holder)
  else if s.storesAhead core J ws then some (.stores ws)
  else if J.wordsAhead s.tick (laneBit l) ws then some (.words ws)
  else
    match ws.find? fun w => s.meshWaits core (homeNode w) s.tick with
    | some w => some (.mesh (homeNode w) s.tick)
    | none => none

/-- A transactional read of the words at a translated address (R252, R272): all its new entries or none. It looks for room in the
read log first, and reads memory at the home place, which takes any older copy from the core's later loads (R226). -/
def State.txRead (s : State) (ctx core : Nat) (J : Jet) (l : Nat) (t : Tx) (ws : List Nat) : State × TxResult :=
  let fresh := ws.filter fun w => !t.covered w
  if 32 < t.rlog.length + fresh.length then (s, .abort 2 0)
  else
    match s.txReadHold core J l fresh with
    | some u => (s, .wait u)
    | none =>
    let r := fresh.foldl (fun (r : State × Bool) w =>
      let c := r.1.homeCheck w 4 ctx
      ((if r.1.poisoned w then c.1.logError 0x11 1 (w / 32 * 32) ctx else c.1).dropL1Line core (w / 128), r.2 || c.2)) (s, false)
    if r.2 then (r.1, .abort 4 15)
    else
      let t' := fresh.foldl (fun (t : Tx) w => { t with rlog := t.rlog.put w (BitVec.ofNat 32 (r.1.homeNat w 4)) }) t
      let value := fun w =>
        let base := (t'.rlog.get? w).getD 0
        match t'.wlog.get? w with
        | some e => e.over base
        | none => base
      (r.1, .ok t' (ws.map value))

/-- A transactional write of bytes of words (R253, R272): all its new entries or none. -/
def Tx.write (t : Tx) (ws : List (Nat × LogWord)) : TxResult :=
  let fresh := ws.filter fun e => (t.wlog.get? e.1).isNone
  if 16 < t.wlog.length + fresh.length then .abort 3 0
  else
    .ok (ws.foldl (fun t e =>
      let old := (t.wlog.get? e.1).getD ⟨0, 0⟩
      { t with wlog := t.wlog.put e.1 ⟨e.2.over old.val, old.mask ||| e.2.mask⟩ }) t) []

/-- The pages that a core has asked for. -/
def State.pagesAsked (s : State) (core : Nat) : Nat := (s.pageReqs.filter fun r => decide (r.core = core)).length

/-- Asks for a page as `PGREQ` does, in the mode of the issuing jet (R199, R421). -/
def State.requestPage (s : State) (core ctx vpn : Nat) (sys : Bool) : State :=
  if (s.pageReqs.any fun r => decide (r.core = core ∧ r.ctx = ctx ∧ r.vpn = vpn))
      || (match s.look ctx sys (4096 * vpn) .read with | .ok _ => true | .fault _ _ | .held => false) then s
  else { s with pageReqs := s.pageReqs ++ [⟨core, ctx, vpn, sys⟩] }

/-- A transactional access that meets NOTVALID asks for its page (R265); where the core holds 64 distinct pages already the
request is dropped: a transactional access cannot be held back once its lane aborts (DESIGN CHOICE, log 63). -/
def State.requestTx (s : State) (core ctx vpn : Nat) (sys : Bool) : State :=
  if s.pagesAsked core < 64 then s.requestPage core ctx vpn sys else s

/-- Aborts a lane of the issue in hand, which has fetched its word; it leaves the issue (R85, R257, R265). -/
def State.abortLane (s : State) (l code fkind : Nat) : State :=
  let s := s.withJet s.cur.basin s.cur.jet fun J =>
    Jet.releaseSlot (J.withThread l fun t => t.fetched.abort code 0 fkind)
  { s with cur := { s.cur with exec := s.cur.exec &&& ~~~ laneBit l, group := s.cur.group &&& ~~~ laneBit l } }

/-- The words of a transaction's log were translated through a page, for the first time at a tick (R191). -/
def Tx.through (t : Tx) (page tick : Nat) : Tx :=
  { t with pages := if (t.pages.get? page).isSome then t.pages else t.pages.put page tick }

/-- What one lane's transactional access comes to: its words; a page that is not valid, for `LDNR` (R198); its lane has aborted;
or it has to wait (R226, R268). -/
inductive TxAccess where
  | words (ws : List Word)
  | absent | gone
  | held (u : Until)

/-- One lane's transactional access: translation by the TLB entries at the start of the instruction, as an access of the irrevocable
lane where that shares it (R223), and the checks of R254, then the access (R265). -/
def State.txAccess (s : State) (tlb : List TlbEntry) (own : Bool) (l : Nat) (ea : Dword) (size : Nat) (acc : Access) (ldnr : Bool)
    (run : State → Nat → Tx → State × TxResult) : State × TxAccess :=
  match s.jet? s.cur.basin s.cur.jet, s.thread? s.cur.basin s.cur.jet l with
  | some J, some t =>
    match globalFault ea size with
    | some k => (s.abortLane l 4 k.toNat, .gone)
    | none =>
      let ctx := ((s.basin? s.cur.basin).map (·.ctx)).getD 0
      let core := s.coreOf s.cur.basin
      match s.translateOwn tlb own (corePlace core) ctx J.sys ea.toNat acc with
      | (s, .held) => (s, .held (.lines s.token.holder))
      | (s, .fault k _) =>
        if ldnr = true ∧ k = 1 then (s, .absent)
        else
          let s := if k = 1 then s.requestTx core ctx (ea.toNat / 4096) J.sys else s
          (s.abortLane l 4 k.toNat, .gone)
      | (s, .ok pa) =>
        if inWindow pa || inControl pa then (s.abortLane l 8 0, .gone)
        else
          match run s pa t.tx with
          | (s, .wait u) => (s, .held u)
          | (s, .abort c f) => (s.abortLane l c f, .gone)
          | (s, .ok tx ws) =>
            (s.withThread s.cur.basin s.cur.jet l fun t => { t with tx := tx.through (ea.toNat / 4096) s.tick }, .words ws)
  | _, _ => (s, .gone)

/-- The transactional accesses of the lanes of an issue, in ascending order, and what each comes to. -/
def txLanesRun (run : State → Nat → State × TxAccess) : State → List Nat → State × List (Nat × TxAccess)
  | s, [] => (s, [])
  | s, l :: rest =>
    let r := run s l
    let e := txLanesRun run r.1 rest
    (e.1, (l, r.2) :: e.2)

/-- What the first of some transactional accesses that have to wait waits for. -/
def txWait (rs : List (Nat × TxAccess)) : Option Until := rs.findSome? fun e => match e.2 with | .held u => some u | _ => none

/-- The lanes whose transactional accesses abort them do so at once, also where another lane's access has to wait and the rest of the
issue with it (R257, R272). -/
def txAborts (run : State → Nat → State × TxAccess) (s : State) (lanes : List Nat) : State :=
  lanes.foldl (fun s l => match run s l with | (t, .gone) => t | _ => s) s

/-- The transactional lanes of an issue act: what follows, by the state and what each access came to, unless one has to wait. -/
def State.txRun (s : State) (run : State → Nat → State × TxAccess) (lanes : Lanes)
    (andThen : State → List (Nat × TxAccess) → State) : State :=
  let r := txLanesRun run s (lanesOf lanes)
  match txWait r.2 with
  | some u => (txAborts run s (lanesOf lanes)).hold (.short u)
  | none => andThen r.1 r.2

/-! ### Global loads -/

/-- Executing lanes of a jet inside an ordinary transaction, and the others. -/
def State.txLanes (s : State) (J : Jet) : Lanes := s.cur.exec &&& J.lanesWith Thread.inTx

/-- The result words of a load from the aligned words it covers. -/
def loadWords (ws : List Word) (pa size : Nat) : List Word :=
  if size = 8 then ws else ws.map fun w => subWord w pa size

/-- The pending operation of a transactional lane that has read its words, or found its page absent; it has only to land. -/
def State.txOp (s : State) (J : Jet) (size shadow : Nat) (dests : List Dest) (ldnr : Bool) (ea : Dword) (l : Nat) :
    TxAccess → List LongOp
  | .words ws =>
    [{ s.newOp J l shadow dests (if ldnr then .ldnr size true else .ready size) ea with
      val := some (loadWords ws ea.toNat size) }]
  | .absent => [{ s.newOp J l shadow dests (.ldnr size false) ea with val := some [0, 0] }]
  | .gone | .held _ => []

/-- The issue of `LD.g` or `LDNR` (R172 to R175, R190, R193, R198, R252): transactional lanes read now, after the acquires and the
released stores that precede them (R183, R228), and only land later; the others become pending loads. -/
def State.loadIssue (s : State) (J : Jet) (size shadow : Nat) (ea : Nat → Dword) (dests : List Dest)
    (kind : LongKind) (ldnr : Bool) : State :=
  let tx := s.txLanes J
  let plain := s.cur.exec &&& ~~~ tx
  match firstFault (lanesOf plain) (fun l => globalFault (ea l) size) ea with
  | some (m, va, k) => s.trapFault m va k
  | none =>
    if s.full (lineCount ((lanesOf s.cur.exec).map ea)) then s.hold .held
    else if tx ≠ 0 ∧ (J.acquirePending s.tick tx || s.releaseOpen s.cur.basin s.cur.jet J s.tick tx false) = true then
      s.hold (.short (.ordered false))
    else
      let ctx := s.ctxOf s.cur.basin
      let core := s.coreOf s.cur.basin
      let own := fun l => (lanesOf plain).any fun k =>
        s.holdsToken s.cur.basin s.cur.jet k && decide ((ea k).toNat / 4096 = (ea l).toNat / 4096)
      s.txRun (fun s' l => s'.txAccess s.tlb (own l) l (ea l) size .read ldnr fun s pa t =>
          s.txRead ctx core J l t (wordsAt pa size)) tx fun s' rs =>
        s'.retire.enterOpsBy s.tlb s.cur.basin s.cur.jet
          ((rs.flatMap fun e => s.txOp J size shadow dests ldnr (ea e.1) e.1 e.2)
            ++ (lanesOf plain).map fun l => s.newOp J l shadow dests kind (ea l))

/-- `LD.g` (R174, R175). -/
def execLdG (d a off : Reg) (sz : Size) (la : BitVec 2) (s : State) : Host.Outcome State Fault Refusal :=
  .next (s.issue { named := block d (Size.regs sz) ++ block a 2, reads := block a 2 } fun _ J =>
    s.loadIssue J (Size.bytes sz) la.toNat (fun l => globalEa (J.vpair l a.toNat) off (Size.bytes sz))
      (J.loadDests d sz) (.load (Size.bytes sz)) false)

/-- `LDNR` (R198): the data and the residency predicate land together. -/
def execLdnr (d a p : Reg) (sz : Size) (la : BitVec 2) (s : State) : Host.Outcome State Fault Refusal :=
  .next (s.issue { named := block d (Size.regs sz) ++ block a 2, reads := block a 2 } fun _ J =>
    s.loadIssue J (Size.bytes sz) la.toNat (fun l => J.vpair l a.toNat)
      (J.loadDests d sz ++ [.pred p.toNat]) (.ldnr (Size.bytes sz) true) true)

/-- `SLD` (R174, R175): performed once for the issue (R61). -/
def execSld (d a off : Reg) (sz : Size) (la : BitVec 2) (s : State) : Host.Outcome State Fault Refusal :=
  .next (s.issue { ureads := block a 2 } fun _ J =>
    s.unsupp fun s =>
      let ea := globalEa (J.spair a.toNat) off (Size.bytes sz)
      match globalFault ea (Size.bytes sz) with
      | some k => s.trapFault s.cur.exec ea k
      | none =>
        if s.full 1 then s.hold .held
        else
          let o := s.newOp J (lowLane s.cur.exec) la.toNat ((block d (Size.regs sz)).map .ureg)
            (.load (Size.bytes sz)) ea
          s.retire.enterOps s.cur.basin s.cur.jet [{ o with lane := 32, lanes := s.cur.exec, irr := false }])

/-! ### Global stores -/

/-- The bytes that a lane stores. -/
def storeBytes (v : Dword) (n : Nat) : List Byte := (List.range n).map fun i => (v >>> (8 * i)).truncate 8

/-- One lane's bytes put into the requests of an instruction, one request for each 128-byte line; of several lanes that
write one byte the highest stands (R176, R190). The stores of an irrevocable lane are requests of their own, since they are
performed in place (R270). -/
def putStore (s : State) (J : Jet) (irr : Bool) (l : Nat) (va : Nat) (bs : List Byte) (reqs : List StoreReq) :
    List StoreReq :=
  let line := va / 128 * 128
  let offs := (List.range bs.length).map fun i => va % 128 + i
  let fresh := fun (old : Cells StoreByte) =>
    ((List.range bs.length).zip bs).foldl (fun (d : Cells StoreByte) e =>
      let off := va % 128 + e.1
      Cells.put d off ⟨e.2, laneBit l ||| ((Cells.get? d off).map (·.lanes)).getD 0⟩) old
  let others := reqs.map fun q =>
    if q.va.toNat = line ∧ q.irr ≠ irr then { q with data := q.data.filter fun e => !offs.contains e.1 } else q
  if others.any fun q => decide (q.va.toNat = line ∧ q.irr = irr) then
    others.map fun q =>
      if q.va.toNat = line ∧ q.irr = irr then { q with data := fresh q.data, lanes := q.lanes ||| laneBit l } else q
  else
    others ++ [{ tag := s.tick, va := BitVec.ofNat 64 line, pa := none, data := fresh [], sys := J.sys,
                 irr := irr, lanes := laneBit l, origin := s.cur.pc, grd := J.grdOf l }]

/-- A lane is inside an irrevocable transaction. -/
def Jet.irrLane (J : Jet) (l : Nat) : Bool := ((J.threads.get? l).map Thread.inIrr).getD false

/-- The requests of a store instruction of the given lanes; `irr` tells which of them are performed in place. -/
def storeReqs (s : State) (J : Jet) (irr : Nat → Bool) (lanes : List Nat) (ea : Nat → Dword) (bs : Nat → List Byte) :
    List StoreReq :=
  (lanes.foldl (fun q l => putStore s J (irr l) l (ea l).toNat (bs l) q) []).filter fun q => !q.data.isEmpty

/-- The write-log words of a store (R253). -/
def logWords (pa : Nat) (bs : List Byte) : List (Nat × LogWord) :=
  (wordsAt pa bs.length).map fun w =>
    (w, ((List.range bs.length).zip bs).foldl (fun (e : LogWord) b =>
      if (pa + b.1) / 4 = w / 4 then
        ⟨e.val ||| (BitVec.ofNat 32 (b.2.toNat * 256 ^ ((pa + b.1) % 4))), e.mask ||| BitVec.twoPow 4 ((pa + b.1) % 4)⟩
      else e) ⟨0, 0⟩)

/-- The issue of `ST.g` (R172 to R176, R193, R194, R227, R253). -/
def State.storeIssue (s : State) (J : Jet) (size : Nat) (ea : Nat → Dword) (bs : Nat → List Byte) : State :=
  let tx := s.txLanes J
  let plain := s.cur.exec &&& ~~~ tx
  match firstFault (lanesOf plain) (fun l => globalFault (ea l) size) ea with
  | some (m, va, k) => s.trapFault m va k
  | none =>
    let reqs := storeReqs s J J.irrLane (lanesOf plain) ea bs
    if s.full reqs.length then s.hold .held
    else
      s.txRun (fun s' l => s'.txAccess s.tlb false l (ea l) size .write false fun s pa t =>
          (s, t.write (logWords pa (bs l)))) tx fun s' _ =>
        s'.retire.enterStores s.cur.basin s.cur.jet reqs

/-- `ST.g` (R174, R175). -/
def execStG (d a off : Reg) (sz : Size) (s : State) : Host.Outcome State Fault Refusal :=
  .next (s.issue
    { named := block d (Size.regs sz) ++ block a 2, reads := block d (Size.regs sz) ++ block a 2 } fun _ J =>
    s.storeIssue J (Size.bytes sz) (fun l => globalEa (J.vpair l a.toNat) off (Size.bytes sz))
      (fun l => storeBytes (if sz = .b64 then J.vpair l d.toNat else (J.vreg l d.toNat).zeroExtend 64)
        (Size.bytes sz)))

/-! ### Scratchpad -/

/-- A byte of a basin's scratchpad. -/
def Basin.scr (B : Basin) (off : Nat) : Byte := Cells.get 0 B.scratch off

def Basin.scrNat (B : Basin) (off : Nat) : Nat → Nat
  | 0 => 0
  | n + 1 => (B.scr off).toNat + 256 * B.scrNat (off + 1) n

/-- Writes bytes to the scratchpad, keeping its canonical form. -/
def Basin.putScr (B : Basin) (off : Nat) : List Byte → Basin
  | [] => B
  | b :: rest => ({ B with scratch := Cells.set 0 B.scratch off b }).putScr (off + 1) rest

/-- A scratchpad write of one request, bytes by offset (R217, R219): a word written whole loses its poison; a narrower write on
poison is not performed and is logged. -/
def State.scrWrite (s : State) (b : Nat) (data : Cells Byte) : State :=
  let ws := data.foldl (fun l e => insertKey l (e.1 / 4)) []
  ws.foldl (fun s w =>
    match s.basin? b with
    | none => s
    | some B =>
      let mine := data.filter fun e => decide (e.1 / 4 = w)
      let put := fun (B : Basin) => mine.foldl (fun B e => { B with scratch := Cells.set 0 B.scratch e.1 e.2 }) B
      if mine.length = 4 then
        s.withBasin b fun B => { put B with scratchPoison := removeKey B.scratchPoison w }
      else if B.scratchPoison.contains w then s.logError 0x11 5 0 B.ctx
      else s.withBasin b put) s

/-- The bytes of some stores, each at its offset; where they overlap the last stands (R176). -/
def bytesOf (l : List (Nat × List Byte)) : Cells Byte :=
  l.foldl (fun d e => ((List.range e.2.length).zip e.2).foldl (fun d x => Cells.put d (e.1 + x.1) x.2) d) []

/-- Whether a scratchpad access reads poison. -/
def Basin.scrPoisoned (B : Basin) (off size : Nat) : Bool :=
  (wordsAt off size).any fun w => B.scratchPoison.contains (w / 4)

/-- POISON of some lanes, taken at their next instruction (R218). -/
def State.poisonLanes (s : State) (b j : Nat) (lanes : Lanes) (va : Dword) : State :=
  if lanes = 0 then s else s.addCause b j { cause := .poison, lanes := lanes, va := va, kind := 15 }

/-- `LDS` (R174, R178): the scratchpad is read now, in program order; the words land later. -/
def execLds (d a off : Reg) (sz : Size) (la : BitVec 2) (s : State) : Host.Outcome State Fault Refusal :=
  .next (s.issue { named := block d (Size.regs sz) ++ [a.toNat], reads := [a.toNat] } fun B J =>
    let size := Size.bytes sz
    let ea := fun l => scratchEa (J.vreg l a.toNat) off size
    let va := fun l => (ea l).zeroExtend 64
    match firstFault (lanesOf s.cur.exec) (fun l => scratchFault (ea l) size B.shape.scr) va with
    | some (m, x, k) => s.trapFault m x k
    | none =>
      if J.scratchWaits s.tick s.cur.exec then s.hold (.short .scratch)
      else
      let good := (lanesOf s.cur.exec).filter fun l => !B.scrPoisoned (ea l).toNat size
      let bad := (lanesOf s.cur.exec).filter fun l => B.scrPoisoned (ea l).toNat size
      let ops := good.map fun l =>
        let n := B.scrNat (ea l).toNat size
        { s.newOp J l la.toNat (J.loadDests d sz) (.ready size) (va l) with
          val := some (if size = 8 then [BitVec.ofNat 32 n, BitVec.ofNat 32 (n / 4294967296)]
            else [BitVec.ofNat 32 n]) }
      ((s.retire).enterOps s.cur.basin s.cur.jet ops).poisonLanes s.cur.basin s.cur.jet (maskOf bad)
        (va (bad.headD 0)))

/-- `STS` (R174, R176, R178). -/
def execSts (d a off : Reg) (sz : Size) (s : State) : Host.Outcome State Fault Refusal :=
  .next (s.issue
    { named := block d (Size.regs sz) ++ [a.toNat], reads := block d (Size.regs sz) ++ [a.toNat] } fun B J =>
    let size := Size.bytes sz
    let ea := fun l => scratchEa (J.vreg l a.toNat) off size
    match firstFault (lanesOf s.cur.exec) (fun l => scratchFault (ea l) size B.shape.scr)
        (fun l => (ea l).zeroExtend 64) with
    | some (m, x, k) => s.trapFault m x k
    | none =>
      if J.scratchWaits s.tick s.cur.exec then s.hold (.short .scratch)
      else
        (s.scrWrite s.cur.basin (bytesOf ((lanesOf s.cur.exec).map fun l =>
          ((ea l).toNat, storeBytes (if sz = .b64 then J.vpair l d.toNat else (J.vreg l d.toNat).zeroExtend 64) size)))).retire)

/-! ### Atomics -/

/-- The new word of an atomic (R180). -/
def atomResult (op : AtomOp) (old v : Word) : Word :=
  match op with
  | .add => old + v
  | .fadd => BitVec.ofNat 32 (quantise (exactSum [value .f32 old.toNat, value .f32 v.toNat] .rn) .f32 .rn false)
  | .umin => if old.toNat ≤ v.toNat then old else v
  | .umax => if old.toNat ≤ v.toNat then v else old
  | .and => old &&& v
  | .or => old ||| v
  | .xor => old ^^^ v
  | .exch => v

/-- Whether an order releases or acquires (Table 5.4). -/
def releases (o : MemOrder) : Bool := decide (o = .rel ∨ o = .ar)
def acquires (o : MemOrder) : Bool := decide (o = .acq ∨ o = .ar)

/-- The issue of `ATOM` or `CAS` (R180 to R183, R193): one pending operation for each lane. -/
def State.atomIssue (s : State) (J : Jet) (ea : Nat → Dword) (dests : List Dest) (sc : Scope) (ord : MemOrder)
    (la : Nat) (kind : Nat → LongKind) : State :=
  s.unsupp fun s =>
    match firstFault (lanesOf s.cur.exec) (fun l => globalFault (ea l) 4) ea with
    | some (m, va, k) => s.trapFault m va k
    | none =>
      if s.full (lineCount ((lanesOf s.cur.exec).map ea)) then s.hold .held
      else
        (s.retire).enterOps s.cur.basin s.cur.jet
          ((lanesOf s.cur.exec).map fun l =>
            { s.newOp J l la dests (kind l) (ea l) with
              irr := J.irrLane l && decide (sc ≠ .bsn), scope := sc, release := releases ord, acquire := acquires ord })

/-- `ATOM` (R180). -/
def execAtom (d a : Reg) (op : AtomOp) (sc : Scope) (ord : MemOrder) (la : BitVec 4) (s : State) :
    Host.Outcome State Fault Refusal :=
  .next (s.issue { named := [d.toNat] ++ block a 2, reads := [d.toNat] ++ block a 2 } fun _ J =>
    s.atomIssue J (fun l => J.vpair l a.toNat) [.word (mapReg J.wb d.toNat)] sc ord la.toNat
      fun l => .atom op (J.vreg l d.toNat))

/-- `CAS` (R182): expected in d, new in d + 1, the old word returned in d. -/
def execCas (d a : Reg) (sc : Scope) (ord : MemOrder) (la : BitVec 4) (s : State) :
    Host.Outcome State Fault Refusal :=
  .next (s.issue { named := block d 2 ++ block a 2, reads := block d 2 ++ block a 2 } fun _ J =>
    s.atomIssue J (fun l => J.vpair l a.toNat) [.word (mapReg J.wb d.toNat)] sc ord la.toNat
      fun l => .cas (J.vreg l d.toNat) (J.vreg l (d.toNat + 1)))

/-- `ATOMS` (R180, R181): performed now at the scratchpad bank, lane by lane; the old words land later. -/
def execAtoms (d a : Reg) (op : AtomOp) (_sc : Scope) (ord : MemOrder) (la : BitVec 4) (s : State) :
    Host.Outcome State Fault Refusal :=
  .next (s.issue { named := [d.toNat, a.toNat], reads := [d.toNat, a.toNat] } fun B J =>
    let ea := fun l => J.vreg l a.toNat
    let va := fun l => (ea l).zeroExtend 64
    match firstFault (lanesOf s.cur.exec) (fun l => scratchFault (ea l) 4 B.shape.scr) va with
    | some (m, x, k) => s.trapFault m x k
    | none =>
      if releases ord = true ∧ J.drained .bsn = false then s.hold (.drain false)
      else if J.scratchWaits s.tick s.cur.exec then s.hold (.short .scratch)
      else if releases ord = true ∧ J.readsDone s.tick s.cur.exec = false then s.hold (.short .reads)
      else
        let r := (lanesOf s.cur.exec).foldl (fun (r : State × List LongOp × List Nat) l =>
          match r.1.basin? s.cur.basin with
          | none => r
          | some B =>
            if B.scrPoisoned (ea l).toNat 4 then (r.1, r.2.1, r.2.2 ++ [l])
            else
              let old := BitVec.ofNat 32 (B.scrNat (ea l).toNat 4)
              let new := atomResult op old (J.vreg l d.toNat)
              (r.1.scrWrite s.cur.basin (bytesOf [((ea l).toNat, storeBytes (new.zeroExtend 64) 4)]),
                r.2.1 ++ [{ s.newOp J l la.toNat [.word (mapReg J.wb d.toNat)] (.ready 4) (va l) with val := some [old] }],
                r.2.2)) (s, [], [])
        ((r.1.retire).enterOps s.cur.basin s.cur.jet r.2.1).poisonLanes s.cur.basin s.cur.jet (maskOf r.2.2)
          (va (r.2.2.headD 0)))

/-! ### Fences, counters, page requests -/

/-- `FENCE` (R200, R246). An acquire at package or system scope comes after the earlier reads of its lanes, those of atomics whose
destinations have been overwritten among them (R233, R247). -/
def execFence (sc : Scope) (ord : MemOrder) (s : State) : Host.Outcome State Fault Refusal :=
  .next (s.issue { ends := true } fun _ J =>
    s.unsupp fun s =>
      if releases ord = true ∧ J.drained sc = false then s.hold (.drain (decide (sc ≠ .bsn)))
      else if acquires ord = true ∧ sc ≠ .bsn ∧ J.readsDone s.tick s.cur.exec = false then s.hold (.short .reads)
      else
        let s := if acquires ord = true ∧ sc ≠ .bsn then s.dropL1 (s.coreOf s.cur.basin) else s
        s.retire)

/-- The value of a counter as `WAITGE` reads it at a scope: none where it is poisoned, whatever copy an L1 holds (R210, R220). A
relaxed read at the home place takes any older copy of the line from the thread's later loads (R226). -/
def State.readCounter (s : State) (ctx core pa : Nat) (sc : Scope) : State × Option Dword :=
  let r := s.homeCheck pa 8 ctx
  if r.2 then (r.1, none)
  else if sc = .bsn then
    match r.1.coreWord ctx core pa with
    | (s, none) => (s, none)
    | (s, some lo) =>
      match s.coreWord ctx core (pa + 4) with
      | (s, none) => (s, none)
      | (s, some hi) => (s, some (pair64 lo hi))
  else (r.1.dropL1Line core (pa / 128), some (BitVec.ofNat 64 (r.1.homeNat pa 8)))

/-- What the counter of a `WAITGE` waits for before it is read: the irrevocable lane that holds its line, unless the L1 serves the
read; writes of the core to it, and the lanes' earlier accesses; with an acquire, the earlier reads of the lanes; earlier acquires
and released stores; and, where it is read at the home place, earlier requests on the same way (R23, R183, R226, R228, R247,
R268). -/
def State.counterHold (s : State) (b j : Nat) (J : Jet) (core pa : Nat) (lanes : Lanes) (acquire : Bool) (sc : Scope) :
    Option Until :=
  let hit := decide (sc = .bsn) && s.l1Hit core pa && s.l1Hit core (pa + 4)
  if !hit && !s.mayTouch b j lanes pa then some (.lines s.token.holder)
  else if s.storesAhead core J [pa, pa + 4] then some (.stores [pa, pa + 4])
  else if J.wordsAhead s.tick lanes [pa, pa + 4] then some (.words [pa, pa + 4])
  else if acquire && !J.readsDone s.tick lanes then some .reads
  else if J.acquirePending s.tick lanes || s.releaseOpen b j J s.tick lanes false then some (.ordered false)
  else if !hit && s.meshWaits core (homeNode pa) s.tick then some (.mesh (homeNode pa) s.tick)
  else none

/-- `WAITGE` (R210, R220): executes once for the issue. -/
def execWaitge (a b : Reg) (sc : Scope) (ord : MemOrder) (s : State) : Host.Outcome State Fault Refusal :=
  .next (s.issue { ureads := block a 2 ++ block b 2 } fun B J =>
    s.unsupp fun s =>
      let va := J.spair a.toNat
      match globalFault va 8 with
      | some k => s.trapFault s.cur.exec va k
      | none =>
        match s.translateFor (s.holderAmong s.cur.basin s.cur.jet s.cur.exec) (corePlace B.core) B.ctx J.sys va.toNat .read with
        | (s, .held) => s.hold (.short (.lines s.token.holder))
        | (s, .fault k z) =>
          if offered k then
            (s.hold .fault).raiseFault (.group s.cur.basin s.cur.jet s.cur.exec false) B.ctx va k z
          else s.retire.giveUp s.cur.basin s.cur.jet .pagefault s.cur.exec s.cur.pc (J.grdOf (lowLane s.cur.exec)) va k
        | (s, .ok pa) =>
          if s.full 1 then s.hold .held
          else
          match s.counterHold s.cur.basin s.cur.jet J B.core pa s.cur.exec (acquires ord) sc with
          | some u => s.hold (.short u)
          | none =>
            match s.readCounter B.ctx B.core pa sc with
            | (s, none) => s.retire.poisonLanes s.cur.basin s.cur.jet s.cur.exec va
            | (s, some v) =>
              if (J.spair b.toNat).toNat ≤ v.toNat then
                let s := if acquires ord = true ∧ sc ≠ .bsn then s.dropL1 B.core else s
                s.retire
              else s.await (.counter pa va (J.spair b.toNat) (acquires ord) sc))

/-- `CTRADD` (R211): the jet does not wait for the addition. -/
def execCtradd (a b : Reg) (sc : Scope) (ord : MemOrder) (s : State) : Host.Outcome State Fault Refusal :=
  .next (s.issue { ureads := block a 2 ++ block b 2 } fun _ J =>
    s.unsupp fun s =>
      let va := J.spair a.toNat
      match globalFault va 8 with
      | some k => s.trapFault s.cur.exec va k
      | none =>
        if s.full 1 then s.hold .held
        else
          let o := s.newOp J (lowLane s.cur.exec) 0 [] (.ctradd (J.spair b.toNat)) va
          s.retire.enterOps s.cur.basin s.cur.jet
            [{ o with lane := 32, lanes := s.cur.exec, irr := false, scope := sc, release := releases ord }])

/-- `PGREQ` (R24, R199): never waits for the page, never faults; a core holds 64 distinct requests. -/
def execPgreq (a : Reg) (s : State) : Host.Outcome State Fault Refusal :=
  .next (s.issue { named := block a 2, reads := block a 2 } fun B J =>
    let pages := ((lanesOf s.cur.exec).map fun l => (J.vpair l a.toNat).toNat).filter fun va => decide (va < 2 ^ 48)
    let s' := pages.foldl (fun s va => s.requestPage B.core B.ctx (va / 4096) J.sys) s
    if s.full 1 || decide (64 < s'.pagesAsked B.core) then s.hold .held else s'.retire)

/-- `PREF` (R24, R179): `.l1` may bring the line into the core's L1, and finds the errors that wait in it (R217); nothing else can
be seen of a prefetch. -/
def execPref (a off : Reg) (l1 : Bool) (s : State) : Host.Outcome State Fault Refusal :=
  .next (s.issue { named := block a 2, reads := block a 2 } fun B J =>
    if s.full 1 then s.hold .held
    else
    State.retire
      (if l1 then
        (lanesOf s.cur.exec).foldl (fun s l =>
          let va := (globalEa (J.vpair l a.toNat) off 128).toNat
          if 2 ^ 48 ≤ va then s
          else
            match s.peek B.ctx va with
            | none => s
            | some pa =>
              let line := pa / 128
              if inControl pa || (s.l1Line B.core line).isSome || s.lineHeld pa
                  || s.meshWaits B.core (homeNode pa) s.tick then s
              else
                let r := s.homeCheck (128 * line) 128 B.ctx
                if r.2 then r.1 else r.1.setL1 B.core line (r.1.filledLine B.core line)) s
      else s))

end Sys2Proof.Machine
end

