-- ==== Sys2Proof/Machine/Filter.lean ====
section
/-! DEFINITION. Engine reads beside memory, and the filter unit: opcodes 0x7A and 0x7B and the lookup they send (R240, R274
to R288). -/

namespace Sys2Proof.Machine

/-! ### Reads by engines -/

/-- What an engine's read of memory gives. -/
inductive Fetch (α : Type) where
  | ok (x : α)
  /-- The irrevocable lane holds the line: the read waits (R268). -/
  | held
  | fault (va : Dword) (kind : BitVec 4) (level0 : Bool)
  | poison (va : Dword)
  deriving DecidableEq, Repr

/-- A read at package scope, at the home copy, of up to 32 aligned bytes by an engine at a place (R240, R241, R268). -/
def State.engineRead (s : State) (place ctx : Nat) (sys : Bool) (va size : Nat) : State × Fetch Nat :=
  if 2 ^ 48 ≤ va then (s, .fault (BitVec.ofNat 64 va) 7 false)
  else
    match s.translate place ctx sys va .read with
    | (s, .held) => (s, .held)
    | (s, .fault k z) => (s, .fault (BitVec.ofNat 64 va) k z)
    | (s, .ok pa) =>
      if s.lineHeld pa then (s, .held)
      else
        let r := s.homeCheck pa size ctx
        (r.1, if r.2 then .poison (BitVec.ofNat 64 va) else .ok (r.1.homeNat pa size))

/-- The stack of a physical address in HBM. -/
def State.stackAt (s : State) (pa : Nat) : Option Nat := match s.region pa with | .hbm st => some st | _ => none

/-- The stack to which the unit of a stack forwards a lookup, by its own translation of an address: the stack of an HBM address,
or its own. A fault found here is none (R285). -/
def State.forwardStack (s : State) (st ctx : Nat) (sys : Bool) (va : Nat) : State × Nat :=
  if 2 ^ 48 ≤ va then (s, st)
  else
    match s.translate (stackPlace st) ctx sys va .read with
    | (s, .ok pa) => (s, (s.stackAt pa).getD st)
    | (s, .fault _ _) | (s, .held) => (s, st)

/-- The stack whose unit serves a routing address (R285): by the core's own TLB, or else by that of stack 2k, which forwards. -/
def State.routeStack (s : State) (core ctx : Nat) (sys : Bool) (va : Nat) : State × Nat :=
  match (if va < 2 ^ 48 then tlbHit s.tlb s.tick (corePlace core) ctx va .read else none) with
  | some e =>
    (s, (s.stackAt (pteFrame e.leaf.toNat / 2 ^ e.bits * 2 ^ e.bits + va % 2 ^ e.bits)).getD (2 * dieOf core))
  | none => s.forwardStack (2 * dieOf core) ctx sys va

/-! ### Textures (R276 to R279) -/

/-- A texture descriptor (Table 17.2). -/
structure TexDesc where
  base : Nat
  fmt : Nat
  trilinear : Bool
  au : Nat
  av : Nat
  w : Nat
  h : Nat
  mips : Nat
  deriving DecidableEq, Repr

def descWord (ws : List Word) (i : Nat) : Nat := ((ws[i]?).getD 0).toNat

def texDesc (ws : List Word) : TexDesc :=
  let w1 := descWord ws 1
  { base := descWord ws 0 + 4294967296 * (w1 % 65536), fmt := w1 / 65536 % 16, trilinear := w1.testBit 20
    au := w1 / 2097152 % 4, av := w1 / 8388608 % 4, w := descWord ws 2 % 65536 + 1, h := descWord ws 2 / 65536 + 1
    mips := descWord ws 3 % 16 + 1 }

/-- A descriptor that keeps Table 17.2. -/
def texDescOk (ws : List Word) : Bool :=
  decide (descWord ws 0 % 256 = 0 ∧ descWord ws 1 / 33554432 = 0 ∧ descWord ws 1 / 65536 % 16 ≤ 4)
    && decide (descWord ws 3 / 16 = 0) && ([4, 5, 6, 7].all fun i => decide (descWord ws i = 0))

/-- Bytes of a texel (Table 17.3). -/
def texelSize (fmt : Nat) : Nat :=
  match fmt with
  | 0 => 4
  | 1 => 8
  | 2 => 2
  | 3 => 4
  | _ => 4

def levelWidth (t : TexDesc) (m : Nat) : Nat := Nat.max 1 (t.w / 2 ^ m)
def levelHeight (t : TexDesc) (m : Nat) : Nat := Nat.max 1 (t.h / 2 ^ m)

/-- LOFF(m) of R276. -/
def levelOffset (t : TexDesc) : Nat → Nat
  | 0 => 0
  | m + 1 => levelOffset t m + (levelWidth t m * levelHeight t m * texelSize t.fmt + 255) / 256 * 256

/-- The four channels of a texel (Table 17.3). -/
def texelChannels (fmt n : Nat) : List FV :=
  let half := fun k => value .f16 (n / 65536 ^ k % 65536)
  let unorm := fun k => FV.ofQ ⟨((n / 256 ^ k % 256 : Nat) : Int), 255⟩
  let zero := FV.zero false
  let one := FV.fin (Q.ofNat 1)
  match fmt with
  | 0 => [unorm 0, unorm 1, unorm 2, unorm 3]
  | 1 => [half 0, half 1, half 2, half 3]
  | 2 => [half 0, zero, zero, one]
  | 3 => [value .f32 n, zero, zero, one]
  | _ => [half 0, half 1, zero, one]

/-- Addr(i, n, mode) of Table 17.4: none for BORDER. -/
def texAddr (i : Int) (n mode : Nat) : Option Nat :=
  match mode with
  | 0 => some (i % (n : Int)).toNat
  | 1 => some (clampInt i 0 ((n : Int) - 1)).toNat
  | 2 =>
    let p := (i % (2 * n : Nat)).toNat
    some (if p < n then p else 2 * n - 1 - p)
  | _ => if 0 ≤ i ∧ i < (n : Int) then some i.toNat else none

/-- acc[c] := RoundNE32(ExactSum([acc[c], Product(wt, C[c])], rn)) for every channel (R279, R283). -/
def addWeighted (acc : List Word) (wt : Q) (c : List FV) : List Word :=
  (acc.zip c).map fun e => ne32 (exactSum [value .f32 e.1.toNat, product (FV.ofQ wt) e.2] .rn)

/-- Position on a level: the integer part and the 12-bit fraction of u × w − 1/2 (R279). -/
def texPosition (u : Q) (n : Nat) : Int × Int :=
  let x := Q.sub (Q.mul u (Q.ofNat n)) ⟨1, 2⟩
  (Q.floor x, Q.floor (Q.mul (Q.sub x (Q.ofInt (Q.floor x))) (Q.ofNat 4096)))

/-- The corners of a bilinear sample that carry weight, in order: the weight, and the texel's address, none for BORDER. -/
def texCorners (t : TexDesc) (m : Nat) (u v : Q) : List (Q × Option Nat) :=
  let w := levelWidth t m
  let h := levelHeight t m
  let x := texPosition u w
  let y := texPosition v h
  ([((0 : Int), (0 : Int)), (1, 0), (0, 1), (1, 1)].map fun d =>
    let wx := if d.1 = 1 then x.2 else 4096 - x.2
    let wy := if d.2 = 1 then y.2 else 4096 - y.2
    ((⟨wx * wy, 16777216⟩ : Q),
      match texAddr (x.1 + d.1) w t.au, texAddr (y.1 + d.2) h t.av with
      | some X, some Y => some (t.base + levelOffset t m + (Y * w + X) * texelSize t.fmt)
      | _, _ => none)).filter fun e => !Q.isZero e.1

/-- What a lookup has read so far: a number of up to 8 bytes, by the number of its first read (R288). -/
def gotNat (g : Cells (Option Word)) (k size : Nat) : Nat :=
  let w := fun i => (((Cells.get? g i).join).getD 0).toNat
  if size = 8 then w k + 4294967296 * w (k + 1) else w k

/-- The reads of one texel or entry, each of one word or of part of one: number, address, bytes (R288). -/
def splitRead (k a size : Nat) : List (Nat × Nat × Nat) :=
  if size = 8 then [(k, a, 4), (k + 1, a + 4, 4)] else [(k, a, size)]

/-- The reads of corners, in order, numbered from a first number; every corner reads for itself (R284). -/
def cornerReads (size : Nat) : Nat → List (Q × Option Nat) → List (Nat × Nat × Nat)
  | _, [] => []
  | k, (_, none) :: rest => cornerReads size (k + 2) rest
  | k, (_, some a) :: rest => splitRead k a size ++ cornerReads size (k + 2) rest

/-- Adds corners in order, by what has been read for each (R279, R283). -/
def sumCorners (size : Nat) (decode : Nat → List FV) (border : List FV) (g : Cells (Option Word)) :
    Nat → List (Q × Option Nat) → List Word → List Word
  | _, [], acc => acc
  | k, (wt, a) :: rest, acc =>
    sumCorners size decode border g (k + 2) rest
      (addWeighted acc wt (if a.isSome then decode (gotNat g k size) else border))

/-- The level of detail that a lookup uses: the first level and the 12-bit weight of the next (R279). -/
def texLevel (t : TexDesc) (lod : Word) : Nat × Int :=
  let x := match value .f32 lod.toNat with
    | .nan => Q.ofNat 0
    | .inf true => Q.ofNat 0
    | .inf false => Q.ofNat (t.mips - 1)
    | .zero _ => Q.ofNat 0
    | .fin q => q
  if t.trilinear then
    let lc := Q.max (Q.ofNat 0) (Q.min x (Q.ofNat (t.mips - 1)))
    ((Q.floor lc).toNat, Q.floor (Q.mul (Q.sub lc (Q.ofInt (Q.floor lc))) (Q.ofNat 4096)))
  else ((clampInt (roundInt x .rn) 0 ((t.mips : Int) - 1)).toNat, 0)

/-- The corners of one level of a `TEXF` lookup, by their first read number, and the value of Bilinear(m, u, v) of R279. -/
def texSum (t : TexDesc) (u v : Q) (g : Cells (Option Word)) (m k : Nat) : List Word :=
  sumCorners (texelSize t.fmt) (texelChannels t.fmt) (List.replicate 4 (.zero false)) g k (texCorners t m u v) [0, 0, 0, 0]

/-- The reads of one `TEXF` lookup (R279, R284): its levels' corners. -/
def texReads (t : TexDesc) (u v : Q) (lod : Word) : List (Nat × Nat × Nat) :=
  let m := texLevel t lod
  cornerReads (texelSize t.fmt) 0 (texCorners t m.1 u v)
    ++ (if m.2 = 0 then [] else cornerReads (texelSize t.fmt) 8 (texCorners t (m.1 + 1) u v))

/-- The result of one `TEXF` lookup whose coordinates are finite (R279). -/
def texResult (t : TexDesc) (u v : Q) (lod : Word) (g : Cells (Option Word)) : List Word :=
  let m := texLevel t lod
  let b0 := texSum t u v g m.1 0
  if m.2 = 0 then b0
  else
    (b0.zip (texSum t u v g (m.1 + 1) 8)).map fun e =>
      ne32 (exactSum [product (FV.ofQ ⟨4096 - m.2, 4096⟩) (value .f32 e.1.toNat),
        product (FV.ofQ ⟨m.2, 4096⟩) (value .f32 e.2.toNat)] .rn)

/-- The routing address of a `TEXF` lookup (R285). -/
def texRoute (t : TexDesc) (u v : Q) (lod : Word) : Nat :=
  let m := (texLevel t lod).1
  ((texCorners t m u v).findSome? fun e => e.2).getD (t.base + levelOffset t m)

/-! ### Hash grids (R280 to R283) -/

/-- A hash-grid descriptor that keeps Table 17.5. -/
def gridDescOk (ws : List Word) : Bool :=
  decide (descWord ws 0 % 16 = 0 ∧ descWord ws 1 / 2097152 = 0) && ([2, 3, 4, 5, 6, 7].all fun i => decide (descWord ws i = 0))

/-- F and LEVELS of a descriptor's word 1. -/
def gridFeatures (w1 : Nat) : Nat := if w1.testBit 20 then 4 else 2
def gridLevels (w1 : Nat) : Nat := w1 / 65536 % 16 + 1

/-- The address of the record of a level (R282). -/
def gridRecord (ws : List Word) (level : Nat) : Nat :=
  descWord ws 0 + 4294967296 * (descWord ws 1 % 65536) + 16 * level

/-- A good level record: TBASE, SCALE and T (R282). -/
def gridLevel (n : Nat) : Option (Nat × Q × Nat) :=
  let tbase := n % 2 ^ 64
  let t := n / 2 ^ 96
  match value .f32 (n / 2 ^ 64 % 2 ^ 32) with
  | .fin q =>
    if tbase % 256 = 0 ∧ tbase < 2 ^ 48 ∧ 0 < q.num ∧ 4 ≤ t ∧ t ≤ 24 then some (tbase, q, t) else none
  | .nan | .inf _ | .zero _ => none

/-- The hash of a corner (R283). -/
def gridHash (X Y Z : Nat) (t : Nat) : Nat :=
  Nat.xor (Nat.xor X (0x9E3779B1 * Y % 2 ^ 32)) (0xC2B2AE3D * Z % 2 ^ 32) % 2 ^ t

/-- The corners of a level that carry weight, in order, with their entries' addresses (R283). -/
def gridCorners (tbase : Nat) (scale : Q) (t feat : Nat) (p : List Q) : List (Q × Option Nat) :=
  let ax := p.map fun x =>
    let q := Q.mul x scale
    (Q.floor q, Q.floor (Q.mul (Q.sub q (Q.ofInt (Q.floor q))) (Q.ofNat 65536)))
  let get := fun k => (ax[k]?).getD (0, 0)
  ((List.range 8).map fun c =>
    let d := fun k : Nat => ((c / 2 ^ k % 2 : Nat) : Int)
    let wt := fun k => if d k = 1 then (get k).2 else 65536 - (get k).2
    let co := fun k => (((get k).1 + d k) % 4294967296).toNat
    ((⟨wt 0 * wt 1 * wt 2, 2 ^ 48⟩ : Q),
      some (tbase + 2 * feat * gridHash (co 0) (co 1) (co 2) t))).filter fun e => !Q.isZero e.1

/-- The features of an entry. -/
def gridEntry (feat n : Nat) : List FV := (List.range feat).map fun k => value .f16 (n / 65536 ^ k % 65536)

/-- The canonical NaN for every result of a lookup. -/
def nanWords (n : Nat) : List Word := List.replicate n 0x7FC00000

/-- The four words of the level record that a lookup has read, as one number, once it has all of them. -/
def gridGot (g : Cells (Option Word)) : Option Nat :=
  if [0, 1, 2, 3].all fun i => (Cells.get? g i).isSome then
    some (gotNat g 0 8 + 2 ^ 64 * gotNat g 2 8)
  else none

/-- The reads of one level of `HGRID` for a lane: the words of the record and then, where it is good, the entries (R283). -/
def gridReads (ws : List Word) (level : Nat) (p : List Q) (g : Cells (Option Word)) : List (Nat × Nat × Nat) :=
  let feat := gridFeatures (descWord ws 1)
  ((List.range 4).map fun i => (i, gridRecord ws level + 4 * i, 4))
    ++ (match (gridGot g).bind gridLevel with
      | some (tbase, scale, t) => cornerReads (2 * feat) 4 (gridCorners tbase scale t feat p)
      | none => [])

/-- The result of one level of `HGRID` for a lane whose position is finite (R283). -/
def gridResult (ws : List Word) (p : List Q) (g : Cells (Option Word)) : List Word :=
  let feat := gridFeatures (descWord ws 1)
  match (gridGot g).bind gridLevel with
  | some (tbase, scale, t) =>
    sumCorners (2 * feat) (gridEntry feat) [] g 4 (gridCorners tbase scale t feat p) (List.replicate feat 0)
  | none => nanWords feat

/-! ### Meanings -/

def FV.real? (x : FV) : Option Q := if x.isFinite then some x.toQ else none

/-- Both, or all three, values of a list are finite. -/
def finiteAll : List Word → Option (List Q)
  | [] => some []
  | w :: rest =>
    match FV.real? (value .f32 w.toNat), finiteAll rest with
    | some q, some l => some (q :: l)
    | _, _ => none

/-- An operation that waits for no address yet. -/
def noAddress : Dword := BitVec.allOnes 64

/-- `TEXF` (R274, R275, R279, R286). -/
def execTexf (d a b : Reg) (la : BitVec 4) (s : State) : Host.Outcome State Fault Refusal :=
  .next (s.issue { named := block d 4 ++ block a 3, reads := block a 3, ureads := block b 8 } fun _ J =>
    let ws := (block b 8).map J.sreg
    if texDescOk ws = false then s.trapFault s.cur.exec 0 0xA
    else
      s.unsupp fun s =>
        let op := fun l =>
          let v := fun i => J.vreg l (a.toNat + i)
          let o := s.newOp J l la.toNat ((block d 4).map fun r => .word (mapReg J.wb r))
            (.texf ws (v 0) (v 1) (v 2)) noAddress
          if (finiteAll [v 0, v 1]).isNone then { o with val := some (nanWords 4) } else o
        let ops := (lanesOf s.cur.exec).map op
        if s.full (ops.filter fun o => o.val.isNone).length then s.hold .held
        else (s.retire).enterOps s.cur.basin s.cur.jet ops)

/-- `HGRID` (R274, R275, R281, R283, R286): the check of the result block is made whatever the guard. -/
def execHgrid (d a b : Reg) (la : BitVec 4) (s : State) : Host.Outcome State Fault Refusal :=
  .next
    (match s.jet? s.cur.basin s.cur.jet with
    | none => s
    | some K =>
      if operandsPending K.longs 0 [] [.ureg (b.toNat + 1)] then s.hold (.operand [.ureg (b.toNat + 1)])
      else if uniformSeen K.longs s.cur.group [b.toNat + 1] then s.hold (.short (.uniform [b.toNat + 1]))
      else
        let w1 := (K.sreg (b.toNat + 1)).toNat
        let feat := gridFeatures w1
        let n := feat * gridLevels w1
        if 127 < d.toNat + n - 1 then s.trapGroup .illegal
        else
          s.issue { named := block d n ++ block a 3, reads := block a 3, ureads := block b 8 } fun _ J =>
            let ws := (block b 8).map J.sreg
            if gridDescOk ws = false then s.trapFault s.cur.exec 0 0xA
            else
              s.unsupp fun s =>
                let op := fun l level =>
                  let v := fun i => J.vreg l (a.toNat + i)
                  let o := s.newOp J l la.toNat
                    ((List.range feat).map fun f => .word (mapReg J.wb (d.toNat + feat * level + f)))
                    (.hgrid ws level (v 0) (v 1) (v 2)) noAddress
                  if (finiteAll [v 0, v 1, v 2]).isNone then { o with val := some (nanWords feat) } else o
                let ops := (lanesOf s.cur.exec).flatMap fun l => (List.range (gridLevels w1)).map (op l)
                if s.full (ops.filter fun o => o.val.isNone).length then s.hold .held
                else (s.retire).enterOps s.cur.basin s.cur.jet ops)

/-- A fault of this jet and page is already with the controller. -/
def State.awaitsFault (s : State) (b j : Nat) (va : Dword) : Bool :=
  s.faults.any fun f => decide (f.owner = .access b j ∧ f.va.toNat / 4096 = va.toNat / 4096)

/-- The reads of a lookup whose addresses are known by now, and its result once all of them are done. -/
def LongOp.lookupReads (o : LongOp) : List (Nat × Nat × Nat) :=
  match o.kind with
  | .texf ws u v lod =>
    match finiteAll [u, v] with
    | some [x, y] => texReads (texDesc ws) x y lod
    | _ => []
  | .hgrid ws level x y z =>
    match finiteAll [x, y, z] with
    | some p => gridReads ws level p o.got
    | none => []
  | .load _ | .ldnr _ _ | .reservoir | .ready _ | .atom _ _ | .cas _ _ | .ctradd _ | .grow _ => []

def LongOp.lookupResult (o : LongOp) : List Word :=
  match o.kind with
  | .texf ws u v lod =>
    match finiteAll [u, v] with
    | some [x, y] => texResult (texDesc ws) x y lod o.got
    | _ => nanWords 4
  | .hgrid ws _ x y z =>
    match finiteAll [x, y, z] with
    | some p => gridResult ws p o.got
    | none => nanWords (gridFeatures (descWord ws 1))
  | .load _ | .ldnr _ _ | .reservoir | .ready _ | .atom _ _ | .cas _ _ | .ctradd _ | .grow _ => []

/-- The reads of a lookup that are still to be done. -/
def LongOp.lookupLeft (o : LongOp) : List (Nat × Nat × Nat) :=
  o.lookupReads.filter fun e => (Cells.get? o.got e.1).isNone

/-- The routing address of a lookup (R285). -/
def LongOp.routeVa (o : LongOp) : Nat :=
  match o.kind with
  | .texf ws u v lod =>
    match finiteAll [u, v] with
    | some [x, y] => texRoute (texDesc ws) x y lod
    | _ => 0
  | .hgrid ws level _ _ _ => gridRecord ws level
  | .load _ | .ldnr _ _ | .reservoir | .ready _ | .atom _ _ | .cas _ _ | .ctradd _ | .grow _ => 0

/-- Where the entries of an `HGRID` level lie, once its record has been read whole and is good (R285). -/
def LongOp.entriesVa (o : LongOp) : Option Nat :=
  match o.kind with
  | .hgrid _ _ _ _ _ => ((gridGot o.got).bind gridLevel).map (·.1)
  | .texf _ _ _ _ | .load _ | .ldnr _ _ | .reservoir | .ready _ | .atom _ _ | .cas _ _ | .ctradd _ | .grow _ => none

/-- The unit that serves the next read of a lookup: the one it was sent to, and, from the record of an `HGRID` level on, the one of
its entries' stack (R285). `LongOp.pa` holds the stack. -/
def State.lookupStack (s : State) (core ctx : Nat) (o : LongOp) : State × Nat :=
  match o.pa with
  | none => s.routeStack core ctx o.sys o.routeVa
  | some st =>
    match o.entriesVa with
    | some va => if o.lookupReads.length - o.lookupLeft.length = 4 then s.forwardStack st ctx o.sys va else (s, st)
    | none => (s, st)

/-- A lookup as its next read finds it: one that was sent back by a fault is replayed whole (R287). -/
def LongOp.replayed (o : LongOp) : LongOp := if o.pa.isNone then { o with got := [] } else o

/-- One read of a lookup, any of those left (R286, R288): the operation with what has been read, and with its result after the
last one. -/
def State.lookup (s : State) (core ctx : Nat) (o0 : LongOp) : State × Fetch LongOp :=
  let o := o0.replayed
  match o.lookupLeft[(s.free 930000).toNat % o.lookupLeft.length]? with
  | none => (s, .ok { o with val := some o.lookupResult })
  | some (k, va, size) =>
    let r := s.lookupStack core ctx o
    match r.1.engineRead (stackPlace r.2) ctx o.sys va size with
    | (s, .ok n) =>
      let o1 := { o with pa := some r.2, got := o.got.put k (some (BitVec.ofNat 32 n)) }
      (s, .ok (if o1.lookupLeft.isEmpty then { o1 with val := some o1.lookupResult } else o1))
    | (s, .held) => (s, .held)
    | (s, .fault v k z) => (s, .fault v k z)
    | (s, .poison v) => (s, .poison v)

/-- Removes the lookups of a lane for one instruction: the lane keeps its destinations (R287). -/
def Jet.dropLookups (J : Jet) (tag lane : Nat) : Jet :=
  { J with longs := J.longs.filter fun o => !decide (o.tag = tag ∧ o.lane = lane) }

/-- FILTER_LOOKUP (R240, R285, R287, R288): one read of a lookup, after the acquires that precede it, and after the stores that a
release of package scope before it covers. A lookup that meets an
offered fault waits with what it has read, by which its pages are known (R196), and is replayed whole. -/
def execFilterLookup (b j k : Nat) (s : State) : Host.Outcome State Fault Refusal :=
  .next
    (match s.basin? b, s.jet? b j with
    | some B, some J =>
      match J.longs[k]? with
      | none => s
      | some o =>
        if o.val.isSome ∨ s.awaitsFault b j o.va = true ∨ J.acquirePending o.tag o.lanes = true
            ∨ s.releaseOpen b j J o.tag o.lanes true = true then s
        else
          match s.lookup B.core B.ctx o with
          | (_, .held) => s
          | (s1, .ok o1) => s1.withJet b j fun J => { J with longs := J.longs.set k o1 }
          | (s1, .poison va) => (s1.withJet b j fun J => J.dropLookups o.tag o.lane).poisonLanes b j o.lanes va
          | (s1, .fault va kind z) =>
            if offered kind then
              (s1.withJet b j fun J => { J with longs := J.longs.set k { o with va := va, pa := none } }).raiseFault
                (.access b j) B.ctx va kind z
            else
              (s1.withJet b j fun J => J.dropLookups o.tag o.lane).giveUp b j .pagefault o.lanes o.origin o.grd va kind
    | _, _ => s)

end Sys2Proof.Machine
end

