-- ==== Sys2Proof/Machine/Matrix.lean ====
section
/-! DEFINITION. The matrix engine and the tile store, opcodes 0x6C to 0x73, with the completion of an operation (R239, R289
to R318). -/

namespace Sys2Proof.Machine

/-! ### Formats (R289 to R291) -/

/-- Bits per element of a format code (Table 19.1). -/
def codeBits (f : Nat) : Nat :=
  if f = 0 then 32 else if f ≤ 2 then 16 else if f ≤ 5 then 8 else if f ≤ 7 then 6 else 4

/-- Group size G (Table 19.2). -/
def groupSize (cls : Nat) : Nat := if cls = 0 then 8 else if cls = 1 then 16 else 32

/-- The value of an element of a code; an INT8 as an integer (R289). -/
def elementValue (f bits : Nat) : FV :=
  match f with
  | 0 => value .f32 bits
  | 1 => value .f16 bits
  | 2 => value .bf16 bits
  | 3 => value .e4m3 bits
  | 4 => value .e5m2 bits
  | 5 => FV.ofQ (Q.ofInt (if bits % 256 < 128 then ((bits % 256 : Nat) : Int) else ((bits % 256 : Nat) : Int) - 256))
  | 6 => value .e3m2 bits
  | 7 => value .e2m3 bits
  | _ => value .e2m1 bits

/-- Element `k` of a byte string (R291). -/
def elementBits (f : Nat) (bytes : Nat → Byte) (k : Nat) : Nat :=
  let b := codeBits f
  bytesNat bytes (b * k / 8) 5 / 2 ^ (b * k % 8) % 2 ^ b

/-- A byte of a row of registers, lowest register first (R291). -/
def regByte (ws : List Word) (i : Nat) : Byte := ((ws[i / 4]?).getD 0 >>> (8 * (i % 4))).truncate 8

/-- Accumulate(c, L) of R304. -/
def accumulate (cls : Nat) (c : Word) (l : List FV) : Word :=
  if cls = 2 then BitVec.ofInt 32 (c.toInt + Q.floor (sumQ l))
  else ne32 (exactSum (l ++ [value .f32 c.toNat]) .rn)

/-! ### Tiles (R294 to R297) -/

/-- A field of a tile handle (Table 19.4). -/
def handleField (h : Dword) (lo n : Nat) : Nat := h.toNat / 2 ^ lo % 2 ^ n

def tileFmt (h : Dword) : Nat := handleField h 60 4
def tileStride (h : Dword) : Nat := handleField h 50 10
def tileCols (h : Dword) : Nat := handleField h 40 10 + 1
def tileRows (h : Dword) : Nat := handleField h 30 10 + 1
def tileFirstRow (h : Dword) : Nat := handleField h 10 10
def tileFirstCol (h : Dword) : Nat := handleField h 0 10

/-- The place in the region of byte (r, c) of a tile (R294). -/
def tileByte (h : Dword) (r c : Nat) : Nat := 1024 * (tileFirstRow h + r) + tileFirstCol h + c

def Basin.regionByte (B : Basin) (k : Nat) : Byte := Cells.get 0 B.region k

/-- The word of the region at a byte place, a multiple of four. -/
def Basin.regionWord (B : Basin) (k : Nat) : Word := BitVec.ofNat 32 (bytesNat B.regionByte k 4)

/-- Writes one byte of the region, keeping its canonical form. -/
def Basin.putRegion (B : Basin) (k : Nat) (v : Byte) : Basin := { B with region := Cells.set 0 B.region k v }

def Basin.putRegionBytes (B : Basin) (k : Nat) : List Byte → Basin
  | [] => B
  | b :: rest => (B.putRegion k b).putRegionBytes (k + 1) rest

/-- Writes a whole word of the region: its poison is cleared (R299). -/
def Basin.putRegionWord (B : Basin) (k : Nat) (w : Word) : Basin :=
  { B.putRegionBytes k (storeBytes (w.zeroExtend 64) 4) with regionPoison := removeKey B.regionPoison (k / 4) }

/-- Two rectangles share a byte. -/
def tilesOverlap (g h : Dword) : Bool :=
  decide (tileFirstRow g < tileFirstRow h + tileRows h) && decide (tileFirstRow h < tileFirstRow g + tileRows g)
    && decide (tileFirstCol g < tileFirstCol h + tileCols h) && decide (tileFirstCol h < tileFirstCol g + tileCols g)

/-- A handle that `TMOV.def` accepts for a basin (R297). -/
def Basin.handleOk (B : Basin) (h : Dword) : Bool :=
  let f := tileFmt h
  decide (handleField h 20 10 = 0) && (decide (f ≤ 8) || decide (f = 12 ∨ f = 13 ∨ f = 15))
    && decide (tileFirstCol h % 4 = 0 ∧ tileCols h % 4 = 0 ∧ tileStride h % 4 = 0)
    && decide (tileFirstCol h + tileCols h ≤ 1024)
    && decide (tileFirstRow h + tileRows h ≤ B.shape.tile / 1024)
    && (B.tiles.all fun e => !tilesOverlap h e.2.handle)

/-- A handle fault (R296): PAGEFAULT with kind DESC and address zero, for the executing set. -/
def State.handleFault (s : State) : State := s.trapFault s.cur.exec 0 0xA

/-- An issue that needs a tile (R295, R296): EMPTY is a handle fault, FILLING and DRAINING hold it back. -/
def State.withTile (s : State) (B : Basin) (t : Nat) (body : Dword → State) : State :=
  match B.tiles.get? t with
  | none => s.handleFault
  | some x => if x.state = .ready then body x.handle else s.hold (.short (.tiles [t]))

/-! ### Touches (R239) -/

def MatOp.cls (o : MatOp) : Nat := codeClass (o.mode.toNat % 16)

/-- Marks the operations that satisfy a test as touched, in the whole interval from their issue to the `MWAIT` that reports
their completion. -/
def Basin.touch (B : Basin) (p : MatOp → Bool) : Basin :=
  let f := fun o : MatOp => if p o then { o with touched := true } else o
  { B with matQ := B.matQ.map f, matDone := B.matDone.map f }

/-- A write to a tile, or a change of its handle, touches the operations that name it. -/
def Basin.touchTile (B : Basin) (t : Nat) : Basin := B.touch fun o => (o.kind.tiles o.cls).contains t

/-- A write to an accumulator, or a read of it, touches the operations on it. -/
def Basin.touchAcc (B : Basin) (a : Nat) : Basin := B.touch fun o => decide (o.acc = a)

/-- The interval of an operation on the accumulator has not ended. -/
def Basin.accBusy (B : Basin) (a : Nat) : Bool := (B.matQ ++ B.matDone).any fun o => decide (o.acc = a)

def Jet.soil (J : Jet) (d : Dirty) : Jet := if J.dirty.contains d then J else { J with dirty := d :: J.dirty }

/-! ### Accumulators -/

def accKey (a i j : Nat) : Nat := 4096 * a + 64 * i + j

def Basin.acc (B : Basin) (a i j : Nat) : Word := Cells.get 0 B.accs (accKey a i j)

/-- Writes an accumulator element, keeping the canonical form; its poison is set or cleared. -/
def Basin.putAcc (B : Basin) (a i j : Nat) (v : Word) (poisoned : Bool) : Basin :=
  { B with
    accs := Cells.set 0 B.accs (accKey a i j) v
    accPoison := if poisoned then insertKey B.accPoison (accKey a i j) else removeKey B.accPoison (accKey a i j) }

def Basin.accPoisoned (B : Basin) (a i j : Nat) : Bool := B.accPoison.contains (accKey a i j)

/-! ### Tile and accumulator moves (R297 to R303) -/

/-- The selector of `TMOV.rd` and `TMOV.wr` is good for a tile (R299). -/
def tileSelector (h : Dword) (sel : Word) : Bool :=
  decide (sel.toNat % 1024 < tileRows h) && decide (sel.toNat / 65536 % 4 = 0)
    && decide (sel.toNat / 1024 % 64 = 0 ∧ sel.toNat / 67108864 = 0)

/-- `TMOV.def` (R297). -/
def execTmovDef (t a : Reg) (s : State) : Host.Outcome State Fault Refusal :=
  .next (s.issue { ureads := block a 2 } fun B J =>
    match B.tiles.get? t.toNat with
    | some x => if x.state = .ready then s.handleFault else s.hold (.short (.tiles [t.toNat]))
    | none =>
      if B.handleOk (J.spair a.toNat) then
        State.retire (s.withBasin s.cur.basin fun B =>
          ({ B with tiles := B.tiles.put t.toNat ⟨J.spair a.toNat, .ready⟩ }.touchTile t.toNat).withJet s.cur.jet
            fun J => J.soil (.tile t.toNat))
      else s.handleFault)

/-- `TMOV.rel` (R301): the bytes are unchanged. -/
def execTmovRel (t : Reg) (s : State) : Host.Outcome State Fault Refusal :=
  .next (s.issue {} fun B _ =>
    s.withTile B t.toNat fun _ =>
      State.retire (s.withBasin s.cur.basin fun B =>
        ({ B with tiles := B.tiles.del t.toNat }.touchTile t.toNat).withJet s.cur.jet fun J => J.soil (.tile t.toNat)))

/-- `TMOV.rd` (R299). -/
def execTmovRd (d t b : Reg) (s : State) : Host.Outcome State Fault Refusal :=
  .next (s.issue { named := [d.toNat], ureads := [b.toNat] } fun B J =>
    s.withTile B t.toNat fun h =>
      let sel := J.sreg b.toNat
      if tileSelector h sel = false then s.handleFault
      else
        let col := fun l => sel.toNat / 65536 % 1024 + 4 * l
        let place := fun l => tileByte h (sel.toNat % 1024) (col l)
        let bad := maskOf ((lanesOf s.cur.exec).filter fun l =>
          decide (col l < tileCols h) && B.regionPoison.contains (place l / 4))
        let s1 := s.withBasin s.cur.basin fun K =>
          K.laneWrite s.cur.jet (s.cur.exec &&& ~~~ bad) [mapReg J.wb d.toNat] [] fun l x =>
            x.setWord (mapReg J.wb d.toNat) (if col l < tileCols h then B.regionWord (place l) else 0)
        s1.retire.poisonLanes s.cur.basin s.cur.jet bad 0)

/-- `TMOV.wr` (R299); where no thread's column lies in the tile it writes nothing of it. -/
def execTmovWr (t a b : Reg) (s : State) : Host.Outcome State Fault Refusal :=
  .next (s.issue { named := [a.toNat], reads := [a.toNat], ureads := [b.toNat] } fun B J =>
    s.withTile B t.toNat fun h =>
      let sel := J.sreg b.toNat
      if tileSelector h sel = false then s.handleFault
      else
        let col := fun l => sel.toNat / 65536 % 1024 + 4 * l
        let inside := (lanesOf s.cur.exec).filter fun l => decide (col l < tileCols h)
        State.retire (s.withBasin s.cur.basin fun B =>
          if inside.isEmpty then B
          else
            ((inside.foldl (fun (B : Basin) l =>
              B.putRegionWord (tileByte h (sel.toNat % 1024) (col l)) (J.vreg l a.toNat)) B).touchTile t.toNat).withJet
                s.cur.jet fun J => J.soil (.tile t.toNat)))

/-- The selector of `AMOV.rd` and `AMOV.wr` is good (R300). -/
def accSelector (sel : Word) : Bool := decide (sel.toNat < 128)

/-- `AMOV.rd` (R300); in the interval of an operation what is read is undefined (R239). -/
def execAmovRd (d c b : Reg) (s : State) : Host.Outcome State Fault Refusal :=
  .next (s.issue { named := [d.toNat], acc := [c.toNat], ureads := [b.toNat] } fun B J =>
    let sel := J.sreg b.toNat
    if accSelector sel = false then s.handleFault
    else
      let i := sel.toNat % 64
      let col := fun l => 32 * (sel.toNat / 64) + l
      let busy := B.accBusy c.toNat
      let bad := if busy then 0 else maskOf ((lanesOf s.cur.exec).filter fun l => B.accPoisoned c.toNat i (col l))
      let s1 := s.withBasin s.cur.basin fun K =>
        (K.laneWrite s.cur.jet (s.cur.exec &&& ~~~ bad) [mapReg J.wb d.toNat] [] fun l x =>
          x.setWord (mapReg J.wb d.toNat) (if busy then s.free l else B.acc c.toNat i (col l))).touchAcc c.toNat
      s1.retire.poisonLanes s.cur.basin s.cur.jet bad 0)

/-- `AMOV.wr` (R300): the bits unchanged; poison is cleared. -/
def execAmovWr (c a b : Reg) (s : State) : Host.Outcome State Fault Refusal :=
  .next (s.issue { named := [a.toNat], reads := [a.toNat], acc := [c.toNat], ureads := [b.toNat] } fun _ J =>
    let sel := J.sreg b.toNat
    if accSelector sel = false then s.handleFault
    else
      State.retire (s.withBasin s.cur.basin fun B =>
        let B := (lanesOf s.cur.exec).foldl (fun (B : Basin) l =>
          B.putAcc c.toNat (sel.toNat % 64) (32 * (sel.toNat / 64) + l) (J.vreg l a.toNat) false) B
        (B.touchAcc c.toNat).withJet s.cur.jet fun J => J.soil (.acc c.toNat)))

/-- `AMOV.zero` (R301). -/
def execAmovZero (c : Reg) (s : State) : Host.Outcome State Fault Refusal :=
  .next (s.issue { acc := [c.toNat] } fun _ _ =>
    State.retire (s.withBasin s.cur.basin fun B =>
      ({ B with
          accs := B.accs.filter fun e => !decide (e.1 / 4096 = c.toNat)
          accPoison := B.accPoison.filter fun k => !decide (k / 4096 = c.toNat) }.touchAcc c.toNat).withJet s.cur.jet
        fun J => J.soil (.acc c.toNat)))

/-- Conv(C) of Table 19.7, as the bits of one element. -/
def convTile (f : Nat) (c : Word) : Nat :=
  match f with
  | 0 => c.toNat
  | 1 => quantise (value .f32 c.toNat) .f16 .rn false
  | 2 => quantise (value .f32 c.toNat) .bf16 .rn false
  | 3 => quantise (value .f32 c.toNat) .e4m3 .rn true
  | 4 => quantise (value .f32 c.toNat) .e5m2 .rn true
  | _ => (clampInt c.toInt (-128) 127 % 256).toNat

/-- One word of a row of the tile that `AMOV.tile` writes: `per` elements of the row, from column `w × per`. -/
def convWord (f : Nat) (per w : Nat) (row : Nat → Word) : Word :=
  BitVec.ofNat 32 ((List.range per).foldl (fun n k => n + convTile f (row (w * per + k)) * 2 ^ (codeBits f * k)) 0)

/-- `AMOV.tile` (R302). -/
def execAmovTile (t c : Reg) (s : State) : Host.Outcome State Fault Refusal :=
  .next (s.issue { acc := [c.toNat] } fun B _ =>
    s.withTile B t.toNat fun h =>
      let f := tileFmt h
      let per := 32 / codeBits f
      if 5 < f ∨ 64 < tileRows h ∨ 64 < tileCols h * 8 / codeBits f then s.handleFault
      else
        let busy := B.accBusy c.toNat
        let t := s.withBasin s.cur.basin fun K =>
          let K := (List.range (tileRows h)).foldl (fun (K : Basin) i =>
            (List.range (tileCols h / 4)).foldl (fun (K : Basin) w =>
              let k := tileByte h i (4 * w)
              let v := if busy then s.free (256 * i + w) else convWord f per w fun j => B.acc c.toNat i j
              let bad := !busy && (List.range per).any fun j => B.accPoisoned c.toNat i (w * per + j)
              let K := K.putRegionWord k v
              if bad then { K with regionPoison := insertKey K.regionPoison (k / 4) } else K) K) K
          ((K.touchAcc c.toNat).touchTile t.toNat).withJet s.cur.jet fun J => J.soil (.tile t.toNat)
        let poisons := (List.range (tileRows h)).flatMap fun i => (List.range (tileCols h / 4)).filter fun w =>
          !busy && (List.range per).any fun j => B.accPoisoned c.toNat i (w * per + j)
        (poisons.foldl (fun s _ => s.logError B.core 0x17 0 B.ctx) t).retire)

/-- `TSTAT` (R303). -/
def execTstat (d t : Reg) (s : State) : Host.Outcome State Fault Refusal :=
  .next (s.issue {} fun B _ =>
    State.retire (s.withJet s.cur.basin s.cur.jet fun J => J.setSreg d.toNat (BitVec.ofNat 32 (B.tileState t.toNat))))

/-! ### Issue of operations -/

/-- `SETFMT` (R293). -/
def execSetfmt (imm : BitVec 18) (s : State) : Host.Outcome State Fault Refusal :=
  .next (s.issue {} fun _ _ => State.retire (s.withJet s.cur.basin s.cur.jet fun J => { J with fmode := imm }))

/-- Operations that a core's engine holds (R313). -/
def State.matrixLoad (s : State) (core : Nat) : Nat :=
  s.basins.foldl (fun n e => if e.2.core = core then n + e.2.matQ.length else n) 0

/-- The operation enters the engine, or is held back while the engine holds 64 (R24, R313). -/
def State.enterMatrix (s : State) (B : Basin) (o : MatOp) : State :=
  if 64 ≤ s.matrixLoad B.core then s.hold .held
  else State.retire (s.withBasin s.cur.basin fun B => { B with matQ := B.matQ ++ [o] })

/-- A fragment of vector registers: eight words for each lane, zero for a lane outside the executing set (R305, R306). -/
def fragment (J : Jet) (m : Lanes) (r : Reg) : List (List Word) :=
  (List.range 32).map fun l =>
    if m.getLsbD l then (block r 8).map fun k => J.vreg l k else List.replicate 8 0

/-- The registers that the fragments of an issue lie in. -/
def fragmentRegs (J : Jet) (m : Lanes) (r : Reg) : List (Nat × Nat) :=
  (lanesOf m).flatMap fun l => (block r 8).map fun k => (l, mapReg J.wb k)

/-- `MMAV.vv` (R305 to R307). -/
def execMmavVv (c a b : Reg) (s : State) : Host.Outcome State Fault Refusal :=
  .next (s.issue { named := block a 8 ++ block b 8, reads := block a 8 ++ block b 8, acc := [c.toNat] } fun B J =>
    if codeClass (J.fmode.toNat % 16) = 4 then s.trapGroup .illegal
    else
      s.enterMatrix B
        { tag := s.tick, jet := s.cur.jet, acc := c.toNat, mode := J.fmode
          kind := .vv (fragment J s.cur.exec a) (fragment J s.cur.exec b)
          regs := fragmentRegs J s.cur.exec a ++ fragmentRegs J s.cur.exec b })

/-- `MMAV.vt` (R305 to R307). -/
def execMmavVt (c a t : Reg) (s : State) : Host.Outcome State Fault Refusal :=
  .next (s.issue { named := block a 8, reads := block a 8, acc := [c.toNat] } fun B J =>
    if codeClass (J.fmode.toNat % 16) = 4 then s.trapGroup .illegal
    else
      s.withTile B t.toNat fun h =>
        if tileFmt h ≠ J.fmode.toNat / 16 % 16 ∨ tileCols h ≠ 32 ∨ 64 < tileRows h then s.handleFault
        else
          s.enterMatrix B
            { tag := s.tick, jet := s.cur.jet, acc := c.toNat, mode := J.fmode
              kind := .vt (fragment J s.cur.exec a) t.toNat (tileRows h), regs := fragmentRegs J s.cur.exec a })

/-- The fields of the parameter block of `MLOOP` (Table 19.8). -/
structure LoopParams where
  m : Nat
  n : Nat
  k : Nat
  steps : Nat
  za : Bool
  /-- Kept elements of every 48, or none when dense. -/
  sp : Option Nat
  mdt : Nat
  asc : Nat
  bsc : Nat
  deriving DecidableEq, Repr

def loopParams (ps : List Word) : LoopParams :=
  let w := fun i => ((ps[i]?).getD 0).toNat
  { m := w 0 % 256, n := w 0 / 256 % 256, k := w 0 / 65536, steps := w 1 % 65536, za := (w 2).testBit 0
    sp := match w 2 / 2 % 4 with | 0 => none | 1 => some 24 | 2 => some 16 | _ => some 12
    mdt := w 3 % 64, asc := w 3 / 256 % 64, bsc := w 3 / 65536 % 64 }

/-- The reserved fields of the block are zero, and its unused tile fields (R310). -/
def loopReserved (ps : List Word) (cls : Nat) : Bool :=
  let w := fun i => ((ps[i]?).getD 0).toNat
  decide (w 1 / 65536 = 0 ∧ w 2 / 8 = 0 ∧ w 3 / 4194304 = 0 ∧ w 3 / 16384 % 4 = 0 ∧ w 3 / 64 % 4 = 0)
    && decide (w 4 = 0 ∧ w 5 = 0 ∧ w 6 = 0 ∧ w 7 = 0)
    && (decide (cls = 4) || decide (w 3 / 256 = 0))
    && (decide (w 2 / 2 % 4 ≠ 0) || decide (w 3 % 64 = 0))

/-- Bytes that one step reads of each row (Table 19.9). -/
def windowA (p : LoopParams) (fa : Nat) : Nat :=
  match p.sp with
  | none => p.k * codeBits fa / 8
  | some c => p.k / 48 * c * codeBits fa / 8

/-- The named tiles of an `MLOOP`: tile, format, rows and window (Table 19.9). -/
def loopTiles (p : LoopParams) (cls fa fb ta tb : Nat) : List (Nat × Nat × Nat × Nat) :=
  [(ta, fa, p.m, windowA p fa), (tb, fb, p.n, p.k * codeBits fb / 8)]
    ++ (if p.sp.isSome then [(p.mdt, 0xD, p.m, p.k / 48 * 6)] else [])
    ++ (if cls = 4 then [(p.asc, 0xC, p.m, p.k / 32), (p.bsc, 0xC, p.n, p.k / 32)] else [])

/-- The checks of R310 that do not look at the tiles. -/
def loopRanges (p : LoopParams) (ps : List Word) (cls : Nat) : Bool :=
  loopReserved ps cls && decide (1 ≤ p.m ∧ p.m ≤ 64 ∧ 1 ≤ p.n ∧ p.n ≤ 64 ∧ 1 ≤ p.k ∧ p.k ≤ 2048)
    && decide (1 ≤ p.steps ∧ p.steps ≤ 1024)
    && (decide (cls ≠ 4) || (decide (p.k % 32 = 0) && p.sp.isNone))
    && (p.sp.isNone || (decide (cls = 1 ∨ cls = 2 ∨ cls = 3) && decide (p.k % 48 = 0)))

/-- A named tile passes the checks of R310. -/
def loopTileOk (steps : Nat) (h : Dword) (e : Nat × Nat × Nat × Nat) : Bool :=
  decide (tileFmt h = e.2.1) && decide (e.2.2.1 ≤ tileRows h)
    && decide ((steps - 1) * tileStride h + e.2.2.2 ≤ tileCols h)

/-- `MLOOP` (R308 to R312): checks its block and enters the engine. The order of the faults and of the hold at a tile that a copy
fills or drains (R295) is not said: the block and EMPTY tiles are checked before the hold, the rest after it (DESIGN CHOICE,
log 67). -/
def execMloop (c a b : Reg) (k : BitVec 4) (s : State) : Host.Outcome State Fault Refusal :=
  .next
    (let blk := (List.range 8).map fun i => 8 * k.toNat + i
    s.issue { acc := [c.toNat], ureads := blk } fun B J =>
      let ps := blk.map J.sreg
      let p := loopParams ps
      let fa := J.fmode.toNat % 16
      let fb := J.fmode.toNat / 16 % 16
      let cls := codeClass fa
      let tiles := loopTiles p cls fa fb a.toNat b.toNat
      if loopRanges p ps cls = false ∨ (tiles.any fun e => (B.tiles.get? e.1).isNone) = true then s.handleFault
      else if tiles.any fun e => decide (B.tileState e.1 ≠ 2) then s.hold (.short (.tiles (tiles.map (·.1))))
      else if (tiles.all fun e =>
          match B.tiles.get? e.1 with | some x => loopTileOk p.steps x.handle e | none => false) = false then
        s.handleFault
      else
        s.enterMatrix B
          { tag := s.tick, jet := s.cur.jet, acc := c.toNat, mode := J.fmode, kind := .loop a.toNat b.toNat ps
            stale := J.dirty.any fun d =>
              match d with
              | .tile t => tiles.any fun e => decide (e.1 = t)
              | .acc x => decide (x = c.toNat) })

/-- `MRDY` (R315): the jet's tile and accumulator writes have been performed. -/
def execMrdy (s : State) : Host.Outcome State Fault Refusal :=
  .next (s.issue { ends := true } fun _ _ =>
    State.retire (s.withJet s.cur.basin s.cur.jet fun J => { J with dirty := [] }))

/-- The tick at which the `MWAIT` of a lane was accepted (R316): now, where the lane has not issued it before. -/
def Jet.accMark (J : Jet) (l a now : Nat) : Nat :=
  match J.threads.get? l with
  | none => now
  | some t =>
    match t.wait with
    | .acc b k => if b = a then k else now
    | _ => now

/-- `MWAIT` reports the operations on an accumulator that entered before a tick: where one was touched in its interval, every
element of the accumulator is undefined from now on (R239). -/
def Basin.reportAcc (B : Basin) (a mark : Nat) (undef : Nat → Word) : Basin :=
  let mine := fun o : MatOp => decide (o.acc = a ∧ o.tag < mark)
  let B1 := { B with matDone := B.matDone.filter fun o => !mine o }
  if B.matDone.any fun o => mine o && o.touched then
    (List.range 4096).foldl (fun (B : Basin) k => { B with accs := Cells.set 0 B.accs (4096 * a + k) (undef k) }) B1
  else B1

/-- The lanes for which an operation that entered before their `MWAIT` was accepted has still to complete (R316). -/
def Basin.accLate (B : Basin) (J : Jet) (a now : Nat) (m : Lanes) : Lanes :=
  maskOf ((lanesOf m).filter fun l => B.matQ.any fun o => decide (o.acc = a ∧ o.tag < J.accMark l a now))

/-- `MWAIT` goes on in some lanes (R316, R317): the results of every operation that any of them waited for are seen from now on; a
poisoned accumulator traps POISON. -/
def State.seeAcc (s : State) (B : Basin) (J : Jet) (a now : Nat) (m : Lanes) : State :=
  let t := s.withBasin s.cur.basin fun B =>
    B.reportAcc a (((lanesOf m).map fun l => J.accMark l a now).foldl Nat.max 0) s.free
  if B.accPoison.any fun k => decide (k / 4096 = a) then t.poisonLanes s.cur.basin s.cur.jet m 0 else t

/-- `MWAIT` (R316, R317): each lane waits for the operations accepted before its own `MWAIT`; those that have joined the group since,
for the later ones too. -/
def execMwait (c : Reg) (s : State) : Host.Outcome State Fault Refusal :=
  .next (s.issue { acc := [c.toNat] } fun B J =>
    let late := B.accLate J c.toNat s.tick s.cur.exec
    if late = 0 then s.retire.seeAcc B J c.toNat s.tick s.cur.exec
    else
      let done := s.cur.exec &&& ~~~ late
      let t := State.withLanes (State.retire { s with cur := { s.cur with group := done } }) s.cur.basin s.cur.jet late
        fun l th => { th with wait := .acc c.toNat (J.accMark l c.toNat s.tick) }
      if done = 0 then t else t.seeAcc B J c.toNat s.tick done)

/-! ### The effect of an operation (R304 to R312) -/

/-- A group input: the products and whether any byte read is poisoned. -/
abbrev Group := List FV × Bool

/-- Folds groups into an element in ascending K; a mask of the wrong count replaces the result (R311, R312). -/
def addGroups (cls : Nat) (c : Word × Bool) (gs : List (Option Group × Bool)) : Word × Bool :=
  gs.foldl (fun c g =>
    match g.1 with
    | some l => (accumulate cls c.1 l.1, c.2 || l.2)
    | none => (if cls = 2 then 0x80000000 else 0x7FC00000, c.2 || g.2)) c

/-- Element `k` of a tile row from a byte column, with its poison. -/
def Basin.tileElem (B : Basin) (h : Dword) (f r col k : Nat) : FV × Bool :=
  let b := codeBits f
  let byte := fun i => B.regionByte (tileByte h r (col + i))
  (elementValue f (elementBits f byte k),
    B.regionPoison.contains (tileByte h r (col + b * k / 8) / 4)
      || B.regionPoison.contains (tileByte h r (col + (b * k + b - 1) / 8) / 4))

/-- The scale byte of a block, with its poison (R309). -/
def Basin.tileScale (B : Basin) (h : Dword) (r col q : Nat) : FV × Bool :=
  (valueE8M0 (B.regionByte (tileByte h r (col + q))).toNat, B.regionPoison.contains (tileByte h r (col + q) / 4))

/-- The K indices present in a mask of 48 (R311). -/
def maskBits (m : Nat) : List Nat := (List.range 48).filter fun k => m.testBit k

/-- One group of one element of an `MLOOP` (R311, R312): none where the mask's count is wrong. -/
def Basin.loopGroup (B : Basin) (p : LoopParams) (cls fa fb : Nat) (ha hb hm hsa hsb : Dword) (i j s q : Nat) :
    Option Group × Bool :=
  let ca := s * tileStride ha
  let cb := s * tileStride hb
  match p.sp with
  | none =>
    let G := groupSize cls
    let ks := (List.range (Nat.min ((q + 1) * G) p.k - q * G)).map fun k => q * G + k
    let terms := ks.map fun k =>
      let x := B.tileElem ha fa i ca k
      let y := B.tileElem hb fb j cb k
      if cls = 4 then
        let sx := B.tileScale hsa i (s * tileStride hsa) q
        let sy := B.tileScale hsb j (s * tileStride hsb) q
        (product (product sx.1 x.1) (product sy.1 y.1), x.2 || y.2 || sx.2 || sy.2)
      else (product x.1 y.1, x.2 || y.2)
    (some (terms.map (·.1), terms.any (·.2)), false)
  | some c =>
    let cm := s * tileStride hm + 6 * q
    let m := bytesNat (fun n => B.regionByte (tileByte hm i n)) cm 6
    let bad := (List.range 6).any fun n => B.regionPoison.contains (tileByte hm i (cm + n) / 4)
    let ks := maskBits m
    if ks.length ≠ c then (none, bad)
    else
      let terms := ((List.range c).zip ks).map fun e =>
        let x := B.tileElem ha fa i ca (q * c + e.1)
        let y := B.tileElem hb fb j cb (48 * q + e.2)
        (product x.1 y.1, x.2 || y.2)
      (some (terms.map (·.1), bad || terms.any (·.2)), false)

/-- The groups of one element, in the order of R311. -/
def Basin.loopGroups (B : Basin) (p : LoopParams) (cls fa fb : Nat) (h : Nat → Dword) (ta tb i j : Nat) :
    List (Option Group × Bool) :=
  let n := match p.sp with | none => (p.k + groupSize cls - 1) / groupSize cls | some _ => p.k / 48
  (List.range p.steps).flatMap fun s =>
    (List.range n).map fun q => B.loopGroup p cls fa fb (h ta) (h tb) (h p.mdt) (h p.asc) (h p.bsc) i j s q

/-- The elements that an operation computes: row, column, and new value with its poison (R305, R311). -/
def Basin.matrixResult (B : Basin) (o : MatOp) : List (Nat × Nat × Word × Bool) :=
  let fa := o.mode.toNat % 16
  let fb := o.mode.toNat / 16 % 16
  let cls := o.cls
  let h := fun t => ((B.tiles.get? t).map (·.handle)).getD 0
  match o.kind with
  | .vv a b =>
    let r0 := if o.mode.getLsbD 8 then 32 else 0
    let c0 := if o.mode.getLsbD 9 then 32 else 0
    (List.range 32).flatMap fun i => (List.range 32).map fun j =>
      let l := (List.range (groupSize cls)).map fun k =>
        product (elementValue fa (elementBits fa (regByte ((a[i]?).getD [])) k))
          (elementValue fb (elementBits fb (regByte ((b[j]?).getD [])) k))
      let r := addGroups cls (B.acc o.acc (r0 + i) (c0 + j), B.accPoisoned o.acc (r0 + i) (c0 + j)) [(some (l, false), false)]
      (r0 + i, c0 + j, r.1, r.2)
  | .vt a t rows =>
    let r0 := if o.mode.getLsbD 8 then 32 else 0
    (List.range 32).flatMap fun i => (List.range rows).map fun j =>
      let ts := (List.range (groupSize cls)).map fun k =>
        let y := B.tileElem (h t) fb j 0 k
        (product (elementValue fa (elementBits fa (regByte ((a[i]?).getD [])) k)) y.1, y.2)
      let r := addGroups cls (B.acc o.acc (r0 + i) j, B.accPoisoned o.acc (r0 + i) j)
        [(some (ts.map (·.1), ts.any (·.2)), false)]
      (r0 + i, j, r.1, r.2)
  | .loop ta tb ps =>
    let p := loopParams ps
    (List.range p.m).flatMap fun i => (List.range p.n).map fun j =>
      let old := if p.za then (0, false) else (B.acc o.acc i j, B.accPoisoned o.acc i j)
      let r := addGroups cls old (B.loopGroups p cls fa fb h ta tb i j)
      (i, j, r.1, r.2)

/-- Writes the results of an operation, undefined values where it is stale (R239); it waits for the `MWAIT` that reports it. -/
def Basin.completeMatrix (B : Basin) (o : MatOp) (undef : Nat → Word) : Basin :=
  let B1 := (B.matrixResult o).foldl (fun (B : Basin) e =>
    B.putAcc o.acc e.1 e.2.1 (if o.stale then undef (64 * e.1 + e.2.1) else e.2.2.1) e.2.2.2) B
  { B1 with matDone := B1.matDone ++ [o] }

/-- MATRIX_OP_COMPLETE (R313): operations on one accumulator are performed one after another, in the order in which they entered. The
order in which those of different jets enter is not promised (R313, Table 8.6): the model has them enter in the order of their issue
(DESIGN CHOICE, log 69). -/
def execMatrixOpComplete (b k : Nat) (s : State) : Host.Outcome State Fault Refusal :=
  .next
    (match s.basin? b with
    | none => s
    | some B =>
      match B.matQ[k]? with
      | none => s
      | some o =>
        if (B.matQ.take k).any fun x => decide (x.acc = o.acc) then s
        else
          let s1 := s.withBasin b fun B =>
            { B.completeMatrix o s.free with matQ := B.matQ.eraseIdx k }
          (if (B.matrixResult o).any fun e => e.2.2.2 then s1.logError B.core 0x17 0 B.ctx else s1).trySaved b)

end Sys2Proof.Machine
end

