-- ==== Sys2Proof/Machine/Copies.lean ====
section
/-! DEFINITION. Copies: opcode 0x59 and the events of the copy engines (R201 to R208, R222, R238, R295). -/

namespace Sys2Proof.Machine

/-! ### Descriptors (Table 11.7) -/

/-- The checks of a side that name the kind DESC (R203). -/
def CopySide.ok (d : CopySide) (B : Option Basin) (rows width : Nat) : Bool :=
  match d.kind with
  | 0 => decide (d.addr % 4 = 0 ∧ d.stride % 4 = 0)
  | 1 =>
    match B with
    | none => false
    | some B =>
      decide (d.addr % 4 = 0 ∧ d.stride % 4 = 0)
        && decide (d.addr + (rows - 1) * d.stride + width ≤ B.shape.scr)
  | 2 =>
    match B with
    | none => false
    | some B =>
      decide (d.addr < 64)
        && (match B.tiles.get? d.addr with
            | some x => decide (tileRows x.handle = rows ∧ tileCols x.handle = width)
            | none => false)
  | _ => false

/-- A descriptor that raises no DESC (R203, R295); a packet has no basin, so only global sides pass (R212). -/
def copyDescOk (ws : List Word) (B : Option Basin) : Bool :=
  let w := fun i => ((ws[i]?).getD 0).toNat
  let d := copyDesc ws
  decide (w 3 % 8 = 0 ∧ w 7 / 268435456 = 0) && decide (d.width % 4 = 0)
    && d.src.ok B d.rows d.width && d.dst.ok B d.rows d.width
    && !(decide (d.src.kind = 2 ∧ d.dst.kind = 2 ∧ d.src.addr = d.dst.addr))

/-- The start of the first row of a global side that reaches 2^48 (R203). -/
def CopySide.range (d : CopySide) (rows width : Nat) : Option Nat :=
  if d.kind = 0 then
    ((List.range rows).find? fun r => decide (2 ^ 48 < d.addr + r * d.stride + width)).map fun r => d.addr + r * d.stride
  else none

def copyRange (d : CopyDesc) : Option Nat :=
  match d.src.range d.rows d.width with
  | some a => some a
  | none => d.dst.range d.rows d.width

/-! ### Issue -/

/-- Sets the state of a tile. -/
def Basin.setTile (B : Basin) (t : Nat) (st : TileState) : Basin :=
  { B with tiles := B.tiles.modify t fun x => { x with state := st } }

/-- Marks the tile sides of a copy that has passed its checks (Table 19.5). -/
def Basin.startCopy (B : Basin) (d : CopyDesc) : Basin :=
  let B := if d.src.kind = 2 then B.setTile d.src.addr .draining else B
  if d.dst.kind = 2 then B.setTile d.dst.addr .filling else B

/-- Returns the tile sides of a copy to READY (R295). -/
def Basin.endCopy (B : Basin) (d : CopyDesc) : Basin :=
  let B := if d.src.kind = 2 then B.setTile d.src.addr .ready else B
  if d.dst.kind = 2 then B.setTile d.dst.addr .ready else B

/-- A copy is queued, with its deadline (R205). -/
def State.queueCopy (s : State) (core : Option Nat) (ctx : Nat) (sys : Bool) (owner : Option (Nat × Nat))
    (ws : List Word) (release : Bool) (packet : Option Nat) (threads : List (Nat × Lanes)) : State :=
  { s with
    copies := s.copies ++ [{ id := s.nextCopy, core := core, ctx := ctx, sys := sys, owner := owner, desc := ws,
                             release := release, tag := s.tick, threads := threads, since := s.cycle, deadline := s.time + microseconds (copyDesc ws).slack,
                             packet := packet }]
    nextCopy := s.nextCopy + 1 }

/-- `COPY` (R201, R203, R295). -/
def execCopy (a : Reg) (_sc : Scope) (ord : MemOrder) (s : State) : Host.Outcome State Fault Refusal :=
  .next (s.issue { ureads := block a 8 } fun B J =>
    let ws := (block a 8).map J.sreg
    let d := copyDesc ws
    if copyDescOk ws (some B) = false then s.trapFault s.cur.exec 0 0xA
    else
      match copyRange d with
      | some va => s.trapFault s.cur.exec (BitVec.ofNat 64 va) 7
      | none =>
        s.unsupp fun s =>
          let busy := fun x : CopySide => decide (x.kind = 2 ∧ B.tileState x.addr ≠ 2)
          if busy d.src || busy d.dst then
            s.hold (.short (.tiles ((if d.src.kind = 2 then [d.src.addr] else []) ++ if d.dst.kind = 2 then [d.dst.addr] else [])))
          else if 64 ≤ (s.copies.filter fun c => decide (c.core = some B.core)).length then s.hold .held
          else
            (s.withBasin s.cur.basin fun B => B.startCopy d).retire.queueCopy (some B.core) B.ctx J.sys
              (some (s.cur.basin, s.cur.jet)) ws (releases ord) none [(s.cur.jet, s.cur.exec)])

/-! ### Service -/

/-- The requests of a row: from each column, the bytes that lie in one 32-byte granule of the destination. -/
def rowRequests (start : Nat) : Nat → Nat → List (Nat × Nat)
  | 0, _ => []
  | fuel + 1, left =>
    if left = 0 then []
    else
      let n := Nat.min left (32 - start % 32)
      (start, n) :: rowRequests (start + n) fuel (left - n)

/-- The requests of a copy, row by row: row, column, bytes. Each destination word lies in exactly one (R204), but where rows of the
destination overlap: the spec does not say whose value stands there, and the model writes such a word once for each row, the last
one performed standing (DESIGN CHOICE, log 69). -/
def copyRequests (d : CopyDesc) : List (Nat × Nat × Nat) :=
  (List.range d.rows).flatMap fun r =>
    let start := if d.dst.kind = 2 then 0 else d.dst.addr + r * d.dst.stride
    (rowRequests start (d.width / 4 + 1) d.width).map fun e => (r, e.1 - start, e.2)

/-- The address of a byte of a global or scratchpad side. -/
def CopySide.at (d : CopySide) (r c : Nat) : Nat := d.addr + r * d.stride + c

/-- A word read by a copy: its value, or none where it is poisoned. -/
abbrev CopyWord := Option Word

/-- Reads one source word (R204, R208). -/
def State.copyRead (s : State) (c : Copy) (d : CopyDesc) (r col : Nat) : State × Fetch CopyWord :=
  match d.src.kind with
  | 0 =>
    match s.engineRead ioPlace c.ctx c.sys (d.src.at r col) 4 with
    | (s, .ok n) => (s, .ok (some (BitVec.ofNat 32 n)))
    | (s, .poison _) => (s, .ok none)
    | (s, .held) => (s, .held)
    | (s, .fault v k z) => (s, .fault v k z)
  | 1 =>
    match c.owner.bind fun o => s.basin? o.1 with
    | none => (s, .ok none)
    | some B =>
      (s, .ok (if B.scratchPoison.contains (d.src.at r col / 4) then none
        else some (BitVec.ofNat 32 (B.scrNat (d.src.at r col) 4))))
  | _ =>
    match c.owner.bind fun o => s.basin? o.1 with
    | none => (s, .ok none)
    | some B =>
      let k := tileByte (((B.tiles.get? d.src.addr).map (·.handle)).getD 0) r col
      (s, .ok (if B.regionPoison.contains (k / 4) then none else some (B.regionWord k)))

/-- Reads the words of a request in order, until one meets a fault. -/
def copyReads (c : Copy) (d : CopyDesc) (r : Nat) : List Nat → State → State × Fetch (List CopyWord)
  | [], s => (s, .ok [])
  | col :: rest, s =>
    match s.copyRead c d r col with
    | (s, .ok w) =>
      match copyReads c d r rest s with
      | (s, .ok l) => (s, .ok (w :: l))
      | x => x
    | (s, .held) => (s, .held)
    | (s, .fault v k z) => (s, .fault v k z)
    | (s, .poison v) => (s, .poison v)

/-- A destination word that some source word of the same copy shares: it ends undefined (R204). -/
def State.copyOverlap (s : State) (c : Copy) (d : CopyDesc) (r col : Nat) : Bool :=
  if d.src.kind ≠ d.dst.kind then false
  else
    match d.dst.kind with
    | 0 =>
      match s.peek c.ctx (d.dst.at r col) with
      | none => false
      | some pa => (List.range d.rows).any fun q => (List.range (d.width / 4)).any fun k =>
          decide (s.peek c.ctx (d.src.at q (4 * k)) = some pa)
    | 1 => (List.range d.rows).any fun q => (List.range (d.width / 4)).any fun k =>
        decide (d.src.at q (4 * k) = d.dst.at r col)
    | _ => false

/-- The bytes of words as request data at an offset. -/
def wordsData : Nat → List Word → Cells Byte
  | _, [] => []
  | off, w :: rest => numData off w.toNat 4 ++ wordsData (off + 4) rest

/-- Performs a request at a translated global destination: a poisoned source word poisons the granule (R208, R219). -/
def State.copyPerform (s : State) (ctx pa : Nat) (ws : List CopyWord) : State :=
  let s := (s.homeWrite (pa / 128 * 128) (wordsData (pa % 128) (ws.map fun w => w.getD 0)) ctx).1
  if ws.any fun w => w.isNone then (if s.isHbm pa then s.poisonGranule (pa / 32) ctx else s.logError 0x11 1 pa ctx) else s

/-- Performs the words of a request in the scratchpad or in a tile (R208). -/
def Basin.copyWords (B : Basin) (d : CopyDesc) (r : Nat) : Nat → List CopyWord → Basin
  | _, [] => B
  | col, w :: rest =>
    let B1 :=
      if d.dst.kind = 1 then
        let a := d.dst.at r col
        match w with
        | some v => { B.putScr a (storeBytes (v.zeroExtend 64) 4) with scratchPoison := removeKey B.scratchPoison (a / 4) }
        | none => { B with scratchPoison := insertKey B.scratchPoison (a / 4) }
      else
        let k := tileByte (((B.tiles.get? d.dst.addr).map (·.handle)).getD 0) r col
        match w with
        | some v => B.putRegionWord k v
        | none => { B with regionPoison := insertKey B.regionPoison (k / 4) }
    B1.copyWords d r (col + 4) rest

/-- Changes the copy with an identifier. -/
def State.withCopy (s : State) (id : Nat) (f : Copy → Copy) : State :=
  { s with copies := s.copies.map fun c => if c.id = id then f c else c }

/-- A fault of a copy (R208): offered, it waits; not offered, it counts as unresolvable. -/
def State.copyFault (s : State) (c : Copy) (va : Dword) (k : BitVec 4) (z : Bool) (counter : Bool) : State :=
  if offered k then
    (s.withCopy c.id fun c => { c with faulted := true }).raiseFault (.copy c.id) c.ctx va k z
  else s.withCopy c.id fun c => if counter then { c with lost := true } else { c with failed := true }

/-- The release by which a jet starts an engine's work, at a tick and for some threads, has been reached: the stores of the jet and the
reads of the threads that precede it have been performed. Once a `REORD` has moved the threads it is the writes that the release
covered then that must be acknowledged: nothing else was left (R163, R165, R231, R233). -/
def State.workReleased (s : State) (owner : Option (Nat × Nat)) (tag : Nat) (threads : List (Nat × Lanes))
    (covers : Option (List (Nat × Nat × Nat × Bool))) : Bool :=
  match covers with
  | some rs => s.writes.all fun w => !rs.contains w.request
  | none =>
    match owner.bind fun o => s.jet? o.1 o.2 with
    | some J => J.released .pkg tag (threads.foldl (fun m e => m ||| e.2) 0)
    | none => true

/-- The release of a copy issued with `.rel` has been reached (R201, R233, R238). -/
def State.copyReleased (s : State) (c : Copy) : Bool := !c.release || s.workReleased c.owner c.tag c.threads c.covers

/-- Every request of a copy has been performed. -/
def Copy.allDone (c : Copy) : Bool := decide ((copyRequests (copyDesc c.desc)).length ≤ c.done.length)

/-- A copy that an engine could work on now. -/
def State.copyReady (s : State) (c : Copy) : Bool := !c.faulted && !c.failed && !c.allDone && s.copyReleased c

/-- Copies served before `c`: earlier deadline, or the same and issued earlier (R205). -/
def State.copiesBefore (s : State) (c : Copy) : Nat :=
  (s.copies.filter fun x =>
    s.copyReady x && decide (x.deadline < c.deadline ∨ (x.deadline = c.deadline ∧ x.id < c.id))).length

/-- COPY_SERVICE (R204, R205, R207, R222): one of the four engines performs request `w` of copy `k`. -/
def execCopyService (k w : Nat) (s : State) : Host.Outcome State Fault Refusal :=
  .next
    (match s.copies[k]? with
    | none => s
    | some c =>
      let d := copyDesc c.desc
      match (copyRequests d)[w]? with
      | none => s
      | some q =>
        if s.copyReady c = false ∨ c.done.contains w = true ∨ 4 ≤ s.copiesBefore c then s
        else
          let cols := (List.range (q.2.2 / 4)).map fun i => q.2.1 + 4 * i
          match copyReads c d q.1 cols s with
          | (_, .held) => s
          | (s1, .poison _) => s1
          | (s1, .fault va kind z) => s1.copyFault c va kind z false
          | (s1, .ok raw) =>
            let ws := (cols.zip raw).map fun e =>
              if s.copyOverlap c d q.1 e.1 then some (s.free (64 * w + e.1 % 64 / 4)) else e.2
            let finish := fun s : State => s.withCopy c.id fun c => { c with done := w :: c.done, release := false }
            if d.dst.kind = 0 then
              match s1.translate ioPlace c.ctx c.sys (d.dst.at q.1 q.2.1) .write with
              | (_, .held) => s
              | (s2, .fault kind z) => s2.copyFault c (BitVec.ofNat 64 (d.dst.at q.1 q.2.1)) kind z false
              | (s2, .ok pa) => if s2.lineHeld pa || s2.servedLater pa c.rank then s else finish (s2.copyPerform c.ctx pa ws)
            else
              match c.owner with
              | none => s
              | some o =>
                -- every poisoned word that it writes is logged (R217)
                let s2 := (ws.filter Option.isNone).foldl (fun (s : State) _ => s.logError 0x7D1 5 0 c.ctx) s1
                finish (s2.withBasin o.1 fun B =>
                  let B := B.copyWords d q.1 q.2.1 ws
                  if d.dst.kind = 2 then B.touchTile d.dst.addr else B))

/-! ### Completion -/

/-- No range of Table 1.4 that the controller may use without translation holds the address (R409). -/
def State.badPlace (s : State) (pa : Nat) : Bool :=
  match s.region pa with
  | .unpopulated | .control _ => true
  | .hbm _ | .host | .peer _ => false

/-- The controller can reach an untranslated address now (R401, R403). -/
def State.reachable (s : State) (pa : Nat) : Bool := !s.badPlace pa && s.routed (s.region pa)

/-- An untranslated write of the controller for a context; one whose link is down is lost, and logged (R403, R404). -/
def State.controllerPut (s : State) (ctx pa v n : Nat) : State :=
  if s.reachable pa then (s.homePut pa v n ctx).1 else s.logError 0x7D0 8 pa ctx

/-- Writes the STATUS of a packet of a context (Table 3.3). -/
def State.putStatus (s : State) (ctx packet st : Nat) : State := s.controllerPut ctx (packet + 0x78) st 4

/-- The irrevocable lane holds the line in which the status of a packet lies: its write waits (R268). -/
def State.statusHeld (s : State) (packet : Nat) : Bool := s.lineHeld (packet + 0x78)

/-- The tiles of a copy return to READY, once (R295). -/
def State.returnTiles (s : State) (c : Copy) : State :=
  if c.tilesBack then s
  else
    match c.owner with
    | none => s.withCopy c.id fun c => { c with tilesBack := true }
    | some o =>
      (s.withBasin o.1 fun B => B.endCopy (copyDesc c.desc)).withCopy c.id fun c => { c with tilesBack := true }

/-- The copy is over: it leaves the engines, and its packet has its status. -/
def State.retireCopy (s : State) (c : Copy) (status : Nat) : State :=
  let s := match c.packet with | some p => s.putStatus c.ctx p status | none => s
  { s with copies := s.copies.filter fun x => !decide (x.id = c.id) }

/-- COPY_COMPLETE (R206, R212, R220, R295): after every word, the tiles and then the counter. -/
def execCopyComplete (k : Nat) (s : State) : Host.Outcome State Fault Refusal :=
  .next
    (match s.copies[k]? with
    | none => s
    | some c =>
      if c.allDone = false ∨ c.failed = true ∨ c.faulted = true ∨ c.packet.any s.statusHeld = true then s
      else
        let s := s.returnTiles c
        let d := copyDesc c.desc
        if c.lost then (s.logError 0x7D1 4 0 c.ctx).retireCopy c 0x14
        else
          match s.translate ioPlace c.ctx c.sys d.ctr .write with
          | (_, .held) => s
          | (s1, .fault kind z) => s1.copyFault c (BitVec.ofNat 64 d.ctr) kind z true
          | (s1, .ok pa) =>
            if s1.lineHeld pa then s
            else
              let r := s1.addCounter pa c.ctx (BitVec.ofNat 64 d.inc)
              r.1.retireCopy c (if r.2 then 3 else 0x13))

/-- COPY_FAULT_END (R208, R212): a copy that cannot be carried out poisons its counter's granule and logs a record. -/
def execCopyFaultEnd (k : Nat) (s : State) : Host.Outcome State Fault Refusal :=
  .next
    (match s.copies[k]? with
    | none => s
    | some c =>
      if c.failed = false ∨ c.faulted = true ∨ c.packet.any s.statusHeld = true then s
      else
        let s := s.returnTiles c
        let d := copyDesc c.desc
        if c.lost then (s.logError 0x7D1 5 0 c.ctx).retireCopy c 0x14
        else
          match s.translate ioPlace c.ctx c.sys d.ctr .write with
          | (_, .held) => s
          | (s1, .fault kind z) => s1.copyFault c (BitVec.ofNat 64 d.ctr) kind z true
          | (s1, .ok pa) =>
            if s1.lineHeld pa then s else ((s1.poisonCounter pa c.ctx).logError 0x7D1 5 pa c.ctx).retireCopy c 0x13)

end Sys2Proof.Machine
end

