-- ==== Sys2Proof/Machine/Perform.lean ====
section
/-! DEFINITION. The events that perform accesses: the landing of long writes, read-modify-writes, stores on their way to the
home places, acknowledgements, counters and scrubbing (R80, R175 to R185, R210, R211, R217 to R221, R227, R235, R236, R245,
R247, R268, R270). -/

namespace Sys2Proof.Machine

/-- The irrevocable lane holds the line that it touches (R270). -/
def State.holdFor (s : State) (b j : Nat) (irr : Bool) (lanes : Lanes) (pa : Nat) : State :=
  if irr && s.holderAmong b j lanes then s.holdLine pa else s

/-! ### Landing (R78 to R80) -/

/-- Writes one result word to its destination. -/
def Jet.landOne (J : Jet) (lane : Nat) (d : Dest) (v : Word) : Jet :=
  match d with
  | .word w => J.withThread lane fun t => t.setWord w v
  | .pred p => J.withThread lane fun t => t.setPred p (decide (v ≠ 0))
  | .ureg r => { J with sregs := J.sregs.put r v }

/-- The pending operations after operation `i` has landed some destinations: earlier pending writes to them are discarded
(R80), and a finished operation leaves. -/
def landedOps (ops : List LongOp) (i lane : Nat) (ds : List Dest) : List LongOp :=
  (ops.mapIdx fun k (o : LongOp) =>
    if o.lane = lane ∧ k ≤ i then { o with dests := o.dests.filter fun e => !ds.contains e.2 } else o).filter
    fun o => !o.finished

/-- The allocation words among some destinations. -/
def landedWords (rs : List (Dest × Word)) : List Nat :=
  rs.filterMap fun e => match e.1 with | .word w => some w | .pred _ | .ureg _ => none

/-- Result words land; matrix operations that read the registers notice (R239). -/
def Basin.land (B : Basin) (j i lane : Nat) (rs : List (Dest × Word)) : Basin :=
  { B with
    jets := B.jets.modify j fun J =>
      let J := rs.foldl (fun (J : Jet) e => J.landOne lane e.1 e.2) J
      { J with longs := landedOps J.longs i lane (rs.map (·.1)) }
    matQ := touchRegs B.matQ j (fun l => decide (l = lane)) (landedWords rs)
    matDone := touchRegs B.matDone j (fun l => decide (l = lane)) (landedWords rs) }

/-- The result words of an `LDNR`: the data and the residency predicate (R198). -/
def ldnrResults (dests : List (Nat × Dest)) (resident : Bool) (ws : List Word) : List (Dest × Word) :=
  dests.map fun e =>
    (e.2, match e.2 with
      | .pred _ => if resident then 1 else 0
      | .word _ | .ureg _ => (ws[e.1]?).getD 0)

/-- Removes the operation `i` of a jet: its destinations keep their values (R218). -/
def Jet.dropOp (J : Jet) (i : Nat) : Jet := { J with longs := J.longs.eraseIdx i }

/-! ### Reading (R175 to R177, R218, R222 to R228, R270, R373, R374) -/

/-- What the words of a load come to, of a size at a physical address. -/
def LongOp.results (o : LongOp) (ws : List Word) : List Word :=
  match o.kind, o.pa with
  | .load n, some pa | .ldnr n _, some pa => loadWords ws pa n
  | _, _ => ws

/-- A word has been read, or met poison: after its last word, an operation has its results, where no word met poison. -/
def LongOp.record (o : LongOp) (w : Nat) (v : Option Word) : LongOp :=
  let o1 := { o with got := o.got.put w v }
  if o1.wordsLeft.isEmpty then
    match o1.words.mapM fun k => (Cells.get? o1.got k).join with
    | some ws => { o1 with val := some (o1.results ws) }
    | none => o1
  else o1

/-- Every word has been read, and one met poison. -/
def LongOp.spoilt (o : LongOp) : Bool := o.val.isNone && !o.words.isEmpty && o.wordsLeft.isEmpty && o.unperformed

/-- Records a word in some operations of a jet. Those that met poison leave: their destinations keep their values (R218); so do
those whose results have all been discarded (R80). -/
def Jet.recordAt (J : Jet) (is : List Nat) (w : Nat) (v : Option Word) : Jet × List LongOp :=
  let ops := J.longs.mapIdx fun i (o : LongOp) => if is.contains i then o.record w v else o
  ({ J with longs := ops.filter fun o => !o.spoilt && !o.finished }, ops.filter LongOp.spoilt)

/-- Records a word; POISON becomes pending for the lanes that met poison (R218). -/
def State.recordWord (s : State) (b j : Nat) (J : Jet) (is : List Nat) (w : Nat) (v : Option Word) : State :=
  let r := J.recordAt is w v
  r.2.foldl (fun s o => s.poisonLanes b j o.lanes o.va) (s.withJet b j fun _ => r.1)

/-- Nothing holds back the read of a word now: nothing in its core and, where no L1 serves it, neither the mesh nor the memory
controller (R23, R25, R226, R228, R268). -/
def State.mayRead (s : State) (b j core : Nat) (J : Jet) (is : List Nat) (o : LongOp) (w : Nat) : Bool :=
  s.readFree b j core J is (J.lanesAt is) o w
    && ((!o.irr && s.l1Hit core w) || !(s.meshWaits core (homeNode w) o.tag || s.servedLater w o.rank))

/-- The word that a load reads: through the L1 and under the jet's earlier stores, or in place for the irrevocable lane, which takes
any older copy from the core's later loads; none where it meets poison (R177, R218, R226, R228, R270). -/
def State.readWord (s : State) (b j core : Nat) (J : Jet) (lanes : Lanes) (o : LongOp) (w : Nat) : State × Option Word :=
  if o.irr then
    let c := (s.holdFor b j true o.lanes w).homeCheck w 4 (s.ctxOf b)
    (c.1.dropL1Line core (w / 128), if c.2 then none else some (BitVec.ofNat 32 (c.1.homeNat w 4)))
  else
    let c := s.coreBytes (s.ctxOf b) core w
    (c.1, wordFrom fun i => forward lanes w (J.storeQ.filter fun q => decide (q.tag < o.tag)) i (c.2 i))

/-- One word of a pending read is performed, for every lane of its instruction that reads it. -/
def State.performWord (s : State) (b j : Nat) (B : Basin) (J : Jet) (o : LongOp) (w : Nat) : State :=
  let is := J.readers o w
  if o.scratch then
    s.recordWord b j J is w (if B.scratchPoison.contains (w / 4) then none else some (BitVec.ofNat 32 (B.scrNat w 4)))
  else if s.mayRead b j B.core J is o w = false then s
  else
    let r := s.readWord b j B.core J (J.lanesAt is) o w
    r.1.recordWord b j J is w r.2

/-- One word of a reservoir store is written to the scratchpad (R374). -/
def State.performScr (s : State) (b j i : Nat) (e : Nat × Word) : State :=
  (s.scrWrite b (bytesOf [(e.1, storeBytes (e.2.zeroExtend 64) 4)])).withJet b j fun J =>
    { J with longs := (J.longs.modify i fun o => { o with scr := Cells.del o.scr e.1 }).filter fun o => !o.finished }

/-- Every lookup of a `TEXF` or `HGRID` has its result: they land together (R286). -/
def Jet.lookupsDone (J : Jet) (o : LongOp) : Bool :=
  match o.kind with
  | .texf _ _ _ _ | .hgrid _ _ _ _ _ => J.longs.all fun x => !decide (x.tag = o.tag) || x.val.isSome
  | .load _ | .ldnr _ _ | .reservoir | .ready _ | .atom _ _ | .cas _ _ | .ctradd _ | .grow _ => true

/-- What lands with a destination: the whole of an `LDNR`, one result word of any other (R78, R198). -/
def LongOp.landing (o : LongOp) (e : Nat × Dest) (ws : List Word) : List (Dest × Word) :=
  match o.kind with
  | .ldnr _ r => ldnrResults o.dests r ws
  | .load _ | .reservoir | .ready _ | .atom _ _ | .cas _ _ | .ctradd _ | .grow _ | .texf _ _ _ _
  | .hgrid _ _ _ _ _ => [(e.2, (ws[e.1]?).getD 0)]

/-- Operation `i` of a jet has been performed: its destination `d` lands. -/
def State.landDest (s : State) (b j i d : Nat) (J : Jet) (o : LongOp) (ws : List Word) : State :=
  match o.dests[d]? with
  | none => s
  | some e => if J.lookupsDone o then s.withBasin b fun B => B.land j i o.lane (o.landing e ws) else s

/-- LONG_WRITE_LANDS (R78 to R80, R177, R198, R218): item `k % 128` of pending operation `k / 128` of a jet. Of an operation that
has been performed, a destination lands; of one that has not, a word is read, or written to the scratchpad, or a walk that waited
is tried again. -/
def execLongWriteLands (b j k : Nat) (s : State) : Host.Outcome State Fault Refusal :=
  .next
    (match s.basin? b, s.jet? b j with
    | some B, some J =>
      match J.longs[k / 128]? with
      | none => s
      | some o =>
        match o.scr[k % 128]? with
        | some e => s.performScr b j (k / 128) e
        | none =>
          match o.val with
          | some ws => s.landDest b j (k / 128) (k % 128) J o ws
          | none =>
            if o.addressed && o.pa.isNone then s.retryHeld b j
            else
              match o.wordsLeft[k % 128]? with
              | some w => if o.unperformed then s.performWord b j B J o w else s
              | none => s
    | _, _ => s)

/-! ### `BCAST` (R139) -/

/-- The pending writes of a jet to a uniform register, oldest first, by their places among its operations (R139). -/
def Jet.uregWrites (J : Jet) (r : Nat) : List Nat :=
  (List.range J.longs.length).filter fun i =>
    match J.longs[i]? with
    | some o => decide (o.lane = 32) && o.dests.any fun e => decide (e.2 = .ureg r)
    | none => false

/-- The value that pending write `i` will give a uniform register, where it is known already. -/
def Jet.pendingUreg (J : Jet) (i r : Nat) : Option Word :=
  match J.longs[i]? with
  | none => none
  | some o =>
    match o.val, o.dests.find? fun e => decide (e.2 = .ureg r) with
    | some ws, some e => some ((ws[e.1]?).getD 0)
    | _, _ => none

/-- A lane receives the value of pending write `i` to a uniform register: by a free choice, and always where it has received it, or
that of a later write, before (R79, R139, log 38). -/
def Jet.bcastTakes (J : Jet) (tick i r l : Nat) : Bool :=
  (J.pendingUreg i r).isSome
    && (((J.longs[i]?).map fun o => (Cells.get 0 o.seen r).getLsbD l).getD false || Config.keeps tick (4000000 + 64 * i + l))

/-- What a lane receives of a uniform register: its value, or that of a pending write (R139). -/
def Jet.bcastValue (J : Jet) (tick r l : Nat) : Word :=
  (J.uregWrites r).foldl (fun v i => if J.bcastTakes tick i r l then (J.pendingUreg i r).getD v else v) (J.sreg r)

/-- The lanes that have received the value of a pending write note it (R79). -/
def Jet.noteSeen (J : Jet) (tick r : Nat) (m : Lanes) : Jet :=
  { J with longs := J.longs.mapIdx fun i (o : LongOp) =>
      let took := maskOf ((lanesOf m).filter fun l => (J.uregWrites r).contains i && J.bcastTakes tick i r l)
      if took = 0 then o else { o with seen := o.seen.put r (took ||| Cells.get 0 o.seen r) } }

/-- `BCAST` (R139). -/
def execBcast (d a : Reg) (s : State) : Host.Outcome State Fault Refusal :=
  .next (s.issue { named := [d.toNat], ureads := [a.toNat], perLane := true } fun _ J =>
    State.retire ((s.withBasin s.cur.basin fun B =>
      B.laneWrite s.cur.jet s.cur.exec [mapReg J.wb d.toNat] [] fun l t =>
        t.setWord (mapReg J.wb d.toNat) (J.bcastValue s.tick a.toNat l)).withJet s.cur.basin s.cur.jet fun K =>
          K.noteSeen s.tick a.toNat s.cur.exec))

/-! ### Read-modify-writes (R180 to R185, R211) -/

/-- Sets the result of a pending operation; a finished operation leaves. -/
def Jet.setVal (J : Jet) (i : Nat) (ws : List Word) : Jet :=
  { J with longs := (J.longs.modify i fun o => { o with val := some ws }).filter fun o => !o.finished }

/-- Updates the bytes of a line that an L1 holds (R177). -/
def State.updateL1 (s : State) (core line : Nat) (data : Cells Byte) : State :=
  { s with l1 := s.l1.modify core fun c => Cells.modify c line fun d =>
      data.foldl (fun (d : Cells Byte) e => if (Cells.get? d e.1).isSome then Cells.put d e.1 e.2 else d) d }

/-- A write passes the store point of its core: the L1 copy of its line changes, and it is on its way (R227, R236). That of the
irrevocable lane is performed in place, and the L1 does not show it before (R243, R270; DEDUCED, log 69). The jet counts one more request, unless
other lanes of its instruction have sent a part of it already (R190, R236). -/
def State.sendWrite (s : State) (b j core tag : Nat) (lanes : Lanes) (irr : Bool) (base : Nat) (data : Cells Byte)
    (single : Bool := false) : State :=
  let s := if irr then s else s.updateL1 core (base / 128) data
  let w : Write := { core := core, basin := b, jet := j, tag := tag, sent := s.tick, lanes := lanes, irr := irr, pa := base,
                     data := data, since := s.cycle, single := single }
  State.withJet { s with writes := s.writes ++ [w] } b j fun J =>
    { J with unacked := J.unacked + if s.writes.any fun x => decide (x.request = w.request) && x.countedBy b j then 0 else 1 }

/-- The new word of an operation, where it writes one (R180, R182). -/
def LongKind.newWord (k : LongKind) (old : Word) : Option Word :=
  match k with
  | .atom op v => some (atomResult op old v)
  | .cas expected new => if old = expected then some new else none
  | .load _ | .ldnr _ _ | .reservoir | .ready _ | .ctradd _ | .grow _ | .texf _ _ _ _ | .hgrid _ _ _ _ _ => none

/-- The poisoned lane of an atomic: memory is not changed and the destination keeps its value (R218). -/
def State.atomPoisoned (s : State) (b j i : Nat) (o : LongOp) : State :=
  (s.withJet b j fun J => J.dropOp i).poisonLanes b j o.lanes o.va

/-- An atomic at the L1 atomic unit of its core (Table 11.3). -/
def State.atomCore (s : State) (b j core i : Nat) (o : LongOp) (pa : Nat) : State :=
  match s.coreWord (s.ctxOf b) core pa with
  | (s, none) => s.atomPoisoned b j i o
  | (s, some old) =>
    let s := s.withJet b j fun J => J.setVal i [old]
    match o.kind.newWord old with
    | none => s
    | some new => s.sendWrite b j core o.tag o.lanes false (pa / 128 * 128) (numData (pa % 128) new.toNat 4)

/-- An atomic at its home slice or Vinil port (Table 11.3, R183, R235, R270). -/
def State.atomHome (s : State) (b j core i : Nat) (o : LongOp) (pa : Nat) : State :=
  let s := s.holdFor b j o.irr o.lanes pa
  let r := s.homeCheck pa 4 (s.ctxOf b)
  if r.2 then (r.1.dropL1Line core (pa / 128)).atomPoisoned b j i o
  else
    let old := BitVec.ofNat 32 (r.1.homeNat pa 4)
    let s := match o.kind.newWord old with
      | none => r.1
      | some new => (r.1.homePut pa new.toNat 4 (s.ctxOf b)).1
    let s := s.dropL1Line core (pa / 128)
    (if o.acquire then s.dropL1 core else s).withJet b j fun J => J.setVal i [old]

/-- A counter addition at the L1 atomic unit (R211): one whose counter is poisoned is not performed, whatever copy the L1 holds, and
is logged (R220). -/
def State.addCore (s : State) (b j core ctx i : Nat) (o : LongOp) (inc : Dword) (pa : Nat) : State :=
  let lost := fun s : State => (s.logError 0x11 3 pa ctx).withJet b j fun J => J.setVal i []
  let h := s.homeCheck pa 8 ctx
  if h.2 then lost h.1
  else
    match h.1.coreWord ctx core pa with
    | (s, none) => lost s
    | (s, some lo) =>
      match s.coreWord ctx core (pa + 4) with
      | (s, none) => lost s
      | (s, some hi) =>
        (s.sendWrite b j core o.tag o.lanes false (pa / 128 * 128)
          (numData (pa % 128) (pair64 lo hi + inc).toNat 8) true).withJet b j fun J => J.setVal i []

/-- ATOMIC_PERFORM (R180 to R185, R211, R218, R220, R237, R270): pending operation `k` of a jet. -/
def execAtomicPerform (b j k : Nat) (s : State) : Host.Outcome State Fault Refusal :=
  .next
    (match s.basin? b, s.jet? b j with
    | some B, some J =>
      match J.longs[k]? with
      | none => s
      | some o =>
        match o.pa with
        | none => s.retryHeld b j
        | some pa =>
          if o.counted = false ∨ J.comesFirst k o o.pendingWords = true ∨ s.atomWaits b j B.core J o pa = true then s
          else
            match o.kind with
            | .ctradd inc =>
              if o.scope = .bsn then s.addCore b j B.core B.ctx k o inc pa
              else
                ((s.addCounter pa B.ctx inc).1.dropL1Line B.core (pa / 128)).withJet b j fun J => J.setVal k []
            | .atom _ _ | .cas _ _ | .load _ | .ldnr _ _ | .reservoir | .ready _ | .grow _ | .texf _ _ _ _
            | .hgrid _ _ _ _ _ =>
              if o.scope = .bsn then s.atomCore b j B.core k o pa else s.atomHome b j B.core k o pa
    | _, _ => s)

/-! ### Stores on their way (R227, R236, R247) -/

/-- A store of the jet must wait for an earlier access: an acquire of its lanes, or one of a common lane to a word that it
writes (R226, R233). -/
def Jet.storeWaits (J : Jet) (q : StoreReq) : Bool :=
  J.longs.any fun x =>
    x.unperformed && decide (x.tag < q.tag ∧ x.lanes &&& q.lanes ≠ 0) && (x.acquire || x.pendingWords.any q.covers)

/-- STORE_POINT_PASSED (R227): the head of a jet's store queue, once it has its translation. The jet's count of unacknowledged
writes stays at 512 at most (R236). -/
def execStorePointPassed (b j : Nat) (s : State) : Host.Outcome State Fault Refusal :=
  .next
    (match s.basin? b, s.jet? b j with
    | some B, some J =>
      match J.storeQ with
      | [] => s
      | q :: rest =>
        match q.pa with
        | none => s.retryHeld b j
        | some base =>
          if J.storeWaits q || decide (512 ≤ J.unacked) then s
          else
            (s.withJet b j fun J => { J with storeQ := rest }).sendWrite b j B.core q.tag q.lanes q.irr base
              (q.data.map fun e => (e.1, e.2.val))
    | _, _ => s)

/-- Other requests come first: earlier writes of the same core to a common word, unless the irrevocable lane holds them back; those on
the same way before it; and what the memory controller serves first (R23, R25, R227, R268). -/
def State.writeWaits (s : State) (k : Nat) (w : Write) : Bool :=
  ((s.writes.take k).any fun x =>
    decide (x.stage = .sent ∧ x.core = w.core) && !s.writeHeld x && x.data.any fun e => w.covers (x.pa + e.1))
    || s.meshWaits w.core (homeNode w.pa) w.sent || s.servedLater w.pa w.rank

/-- The words of a write. -/
def Write.words (w : Write) : List Nat := w.data.foldl (fun l e => insertKey l ((w.pa + e.1) / 4)) []

/-- A word of a write may be performed by itself: its words are events of their own, in no order (R224). That of a counter addition
is one event, a write to the control space acts whole, and where a granule is poisoned its part of the request decides (R219). -/
def State.divisible (s : State) (w : Write) (word : Nat) : Bool :=
  !w.single && !w.irr && decide (1 < w.words.length) && !inControl w.pa && !s.poison.contains (word / 8)
    && !s.latent.contains (word / 8)

/-- One word of write `k` is performed, and the rest is still on its way (R224). -/
def State.performPart (s : State) (k i : Nat) : State :=
  match s.writes[k]? with
  | none => s
  | some w =>
    match w.words[i]? with
    | none => s
    | some x =>
      if w.stage ≠ .sent ∨ s.writeWaits k w = true ∨ s.writeHeld w = true ∨ s.divisible w x = false then s
      else
        let mine := fun e : Nat × Byte => decide ((w.pa + e.1) / 4 = x)
        { (s.homeWrite w.pa (w.data.filter mine) (s.ctxOf w.basin)).1 with
          writes := s.writes.set k { w with data := w.data.filter fun e => !mine e } }

/-- STORE_PERFORMED (R219, R224, R245, R247, R268): the home place performs write `k`; that of the irrevocable lane holds its line
from then on, and the core drops its own copy (R270). A number past the writes stands for one word of a write: of `n` writes, word
`k / n - 1` of write `k % n`. -/
def execStorePerformed (k : Nat) (s : State) : Host.Outcome State Fault Refusal :=
  .next
    (match s.writes[k]? with
    | none => s.performPart (k % s.writes.length) (k / s.writes.length - 1)
    | some w =>
      if w.stage ≠ .sent ∨ s.writeWaits k w = true ∨ s.writeHeld w = true
          ∨ (w.irr = true ∧ s.holdReady w.core w.pa = false) then s
      else
        let s := if w.irr then (s.holdFor w.basin w.jet true w.lanes w.pa).dropL1Line w.core (w.pa / 128) else s
        let r := s.homeWrite w.pa w.data (s.ctxOf w.basin)
        { r.1 with writes := r.1.writes.set k { w with stage := if r.2 then .dropped else .performed } })

/-- A write is acknowledged: each jet that counts its request counts one fewer, unless other parts of the request are still on
their way (R190, R236). -/
def State.acknowledge (s : State) (k : Nat) (w : Write) : State :=
  let s := { s with writes := s.writes.eraseIdx k }
  ((w.writers.map (·.1)).foldl (fun s j =>
    s.withJet w.basin j fun J =>
      { J with unacked := J.unacked - if s.writes.any fun x => decide (x.request = w.request) && x.countedBy w.basin j then 0 else 1 })
    s).trySaved w.basin

/-- STORE_ACK (R236). -/
def execStoreAck (k : Nat) (s : State) : Host.Outcome State Fault Refusal :=
  .next
    (match s.writes[k]? with
    | none => s
    | some w => if w.stage = .performed then s.acknowledge k w else s)

/-- WRITE_DROP_REPORT (R221): the core drops its copy of the line, and the write counts as acknowledged. -/
def execWriteDropReport (k : Nat) (s : State) : Host.Outcome State Fault Refusal :=
  .next
    (match s.writes[k]? with
    | none => s
    | some w => if w.stage = .dropped then (s.dropL1Line w.core (w.pa / 128)).acknowledge k w else s)

/-! ### Counters, urgency and scrubbing -/

/-- WAITGE_SATISFIED (R210, R220): the counter of a waiting thread has reached the target; the threads of its issue go on. -/
def execWaitgeSatisfied (b j l : Nat) (s : State) : Host.Outcome State Fault Refusal :=
  .next
    (match s.basin? b, s.jet? b j, s.thread? b j l with
    | some B, some J, some t =>
      match t.wait with
      | .counter pa va target acq sc =>
        let lanes := J.lanesWith fun u => decide (u.wait = t.wait ∧ u.pc = t.pc)
        if (s.counterHold b j J B.core pa lanes acq sc).isSome then s
        else
          match s.readCounter B.ctx B.core pa sc with
          | (s, none) => (s.withJet b j fun J => J.moveOn lanes).poisonLanes b j lanes va
          | (s1, some v) =>
            if target.toNat ≤ v.toNat then
              (if acq ∧ sc ≠ .bsn then s1.dropL1 B.core else s1).withJet b j fun J => J.moveOn lanes
            else s1
      | _ => s
    | _, _, _ => s)

/-- A request has waited 2,048 base-die cycles of 1.2 GHz since a cycle (R25). -/
def State.aged (s : State) (since : Nat) : Bool := decide (2048 * s.coreMhz ≤ (s.cycle - since) * 1200)

/-- REQUEST_AGE_PROMOTION (R25): an unmarked request that has waited 2,048 base-die cycles of 1.2 GHz: for `k % 3 = 0`, pending
operation `k / 3` of a jet; for 1, write `k / 3` on its way; for 2, copy `k / 3`. -/
def execRequestAgePromotion (b j k : Nat) (s : State) : Host.Outcome State Fault Refusal :=
  .next
    (match k % 3 with
    | 0 =>
      (match s.jet? b j with
      | none => s
      | some J =>
        match J.longs[k / 3]? with
        | none => s
        | some o =>
          if o.unperformed = true ∧ o.urgent = false ∧ s.aged o.since = true then
            s.withJet b j fun J => { J with longs := J.longs.modify (k / 3) fun o => { o with promoted := true } }
          else s)
    | 1 =>
      (match s.writes[k / 3]? with
      | none => s
      | some w =>
        if w.stage = .sent ∧ s.aged w.since = true then { s with writes := s.writes.set (k / 3) { w with promoted := true } } else s)
    | _ =>
      (match s.copies[k / 3]? with
      | none => s
      | some c => if s.aged c.since = true then { s with copies := s.copies.set (k / 3) { c with promoted := true } } else s))

/-- ECC_SCRUBBING (R11, R217): the memory controller finds an uncorrectable error in a granule of HBM. -/
def execEccScrubbing (g : Nat) (s : State) : Host.Outcome State Fault Refusal :=
  .next (if s.isHbm (32 * g) = true ∧ s.poison.contains g = false then s.poisonGranule g else s)

end Sys2Proof.Machine
end

