-- ==== Sys2Proof/Machine/Schedule.lean ====
section
/-! DEFINITION. The active set of a spout: JET_WAKE, ROTATION_SWAP, and the moves of Table 3.6 that follow a step (R56, R57,
R66); the choice of the next issue of a spout (R58, R59, R66). -/

namespace Sys2Proof.Machine

/-! ### Admission -/

/-- Spouts are kept under 16 × core + spout. -/
def spoutKey (core sp : Nat) : Nat := 16 * core + sp

def State.spout (s : State) (core sp : Nat) : Spout := Cells.get {} s.spouts (spoutKey core sp)

def State.setSpout (s : State) (core sp : Nat) (x : Spout) : State :=
  { s with spouts := s.spouts.put (spoutKey core sp) x }

/-- The jets of a spout in a state. -/
def State.jetsIn (s : State) (core sp : Nat) (r : Run) : List (Nat × Nat × Jet) :=
  (s.spoutJets core sp).filter fun e => decide (e.2.2.run = r)

/-- A jet of the list is ready (R54). -/
def State.ready3 (s : State) (e : Nat × Nat × Jet) : Bool :=
  match s.basin? e.1 with
  | some B => s.jetReady e.1 B e.2.1 e.2.2
  | none => false

/-- A jet of the list waits long (Table 3.5). -/
def State.waitsLong3 (s : State) (e : Nat × Nat × Jet) : Bool :=
  match s.basin? e.1 with
  | some B => s.jetWaitsLong e.1 B e.2.1 e.2.2
  | none => false

/-- The entry with the smallest measure; of equals, the one that comes first. The spec says nothing of PENDING jets of equal
age, as all jets of a basin are when it is placed: the first in the order of basins and jets counts as the oldest (DESIGN
CHOICE, log 61). -/
def leastBy (f : Nat × Nat × Jet → Nat) : List (Nat × Nat × Jet) → Option (Nat × Nat × Jet)
  | [] => none
  | e :: rest =>
    match leastBy f rest with
    | none => some e
    | some x => if f x < f e then some x else some e

/-- The oldest PENDING jet: ready, and PENDING the longest (R57). -/
def State.oldestPending (s : State) (core sp : Nat) : Option (Nat × Nat × Jet) :=
  leastBy (fun e => e.2.2.since) ((s.jetsIn core sp .pending).filter s.ready3)

/-- A jet enters the active set at a position (R66). -/
def State.activate (s : State) (core sp : Nat) (e : Nat × Nat × Jet) (pos : Nat) : State :=
  (s.withJet e.1 e.2.1 fun J => { J with run := .active, position := pos, since := s.cycle }).setSpout core sp
    { s.spout core sp with admitted := s.cycle }

/-- The lowest free position of an active set (R66). -/
def State.freePosition (s : State) (core sp : Nat) : Option Nat :=
  (List.range 8).find? fun p => (s.jetsIn core sp .active).all fun e => decide (e.2.2.position ≠ p)

/-- A jet becomes PENDING, its age counted from now. -/
def Jet.pend (J : Jet) (now : Nat) : Jet := { J with run := .pending, since := now, readyAt := now }

/-- JET_WAKE (R56): a wait of a BLOCKED jet ends and one of its groups becomes ready. -/
def execJetWake (b j : Nat) (s : State) : Host.Outcome State Fault Refusal :=
  .next
    (match s.basin? b, s.jet? b j with
    | some B, some J =>
      if J.run = .blocked ∧ s.jetReady b B j J = true then s.withJet b j fun J => J.pend s.cycle else s
    | _, _ => s)

/-- The jet that a rotation removes: ACTIVE the longest, in the lowest position among equals (R66). -/
def State.longestActive (s : State) (core sp : Nat) : Option (Nat × Nat × Jet) :=
  leastBy (fun e => 8 * e.2.2.since + e.2.2.position) (s.jetsIn core sp .active)

/-- A PENDING jet has been ready for 1,024 cycles and the spout has admitted none for 128 (R57). -/
def State.rotationDue (s : State) (core sp : Nat) : Bool :=
  decide ((s.spout core sp).admitted + 128 ≤ s.cycle)
    && ((s.jetsIn core sp .pending).any fun e =>
      s.ready3 e && decide (e.2.2.since + 1024 ≤ s.cycle ∧ e.2.2.readyAt + 1024 ≤ s.cycle))

/-- ROTATION_SWAP (R57, R66). -/
def execRotationSwap (core sp : Nat) (s : State) : Host.Outcome State Fault Refusal :=
  .next
    (if s.rotationDue core sp = false then s
    else
      match s.longestActive core sp, s.oldestPending core sp with
      | some a, some p => (s.withJet a.1 a.2.1 fun J => J.pend s.cycle).activate core sp p a.2.2.position
      | _, _ => s)

/-! ### Moves that follow a step (Table 3.6) -/

/-- An ACTIVE jet with no ready group, one of them waiting long, becomes BLOCKED, and the oldest PENDING jet takes its
position. -/
def State.blockOne (s : State) (core sp : Nat) (e : Nat × Nat × Jet) : State :=
  if s.ready3 e = true ∨ s.waitsLong3 e = false then s
  else
    let s := s.withJet e.1 e.2.1 fun J => { J with run := .blocked }
    match s.oldestPending core sp with
    | some p => s.activate core sp p e.2.2.position
    | none => s

/-- Fills free positions with the oldest PENDING jets. -/
def State.fillActive (s : State) (core sp : Nat) : Nat → State
  | 0 => s
  | n + 1 =>
    match s.freePosition core sp, s.oldestPending core sp with
    | some pos, some p => (s.activate core sp p pos).fillActive core sp n
    | _, _ => s

/-- Notes the PENDING jets of a spout that are not ready (R57). -/
def State.noteReady (s : State) (core sp : Nat) : State :=
  ((s.jetsIn core sp .pending).filter fun e => !s.ready3 e).foldl
    (fun s e => s.withJet e.1 e.2.1 fun J => { J with readyAt := s.cycle }) s

/-- The moves of one spout. Where several of its ACTIVE jets become BLOCKED in one step, the spec does not say whose position the
oldest PENDING jet takes: the model goes by basin and jet (DESIGN CHOICE, log 67). -/
def State.settleSpout (s : State) (core sp : Nat) : State :=
  ((s.jetsIn core sp .active).foldl (fun s e => s.blockOne core sp e) s).fillActive core sp 8

/-- The spouts that hold a jet: core and spout. -/
def State.usedSpouts (s : State) : List (Nat × Nat) :=
  (s.basins.foldl (fun acc e => (e.2.jets.foldl (fun acc (j : Nat × Jet) =>
    insertKey acc (spoutKey e.2.core (j.2.slot % 16))) acc)) []).map fun k => (k / 16, k % 16)

/-- The moves of every spout. -/
def State.settle (s : State) : State := s.usedSpouts.foldl (fun s e => s.settleSpout e.1 e.2) s

/-- Notes, in the cycle that has come, the PENDING jets of every spout that are not ready (R57). -/
def State.noteAll (s : State) : State := s.usedSpouts.foldl (fun s e => s.noteReady e.1 e.2) s

/-! ### The next issue of a spout (R58, R59, R66) -/

/-- The first entry at or after a start of a round of numbers, wrapping. -/
def nextRound (start : Nat) (l : List Nat) : Option Nat :=
  match l.find? fun x => decide (start < x) with
  | some x => some x
  | none => l.head?

/-- Positions of the ready jets of an active set, ascending. -/
def State.readyPositions (s : State) (core sp : Nat) : List Nat :=
  ((s.jetsIn core sp .active).filter s.ready3).foldl (fun l e => insertKey l e.2.2.position) []

/-- The jet that a spout issues from next: in round order of the positions (R58, R66). -/
def State.nextJet (s : State) (core sp : Nat) : Option (Nat × Nat × Jet) :=
  match nextRound (s.spout core sp).position (s.readyPositions core sp) with
  | none => none
  | some p => (s.jetsIn core sp .active).find? fun e => decide (e.2.2.position = p)

/-- The group that a jet issues from next, by its lowest lane: the last one again, up to four in a row, while at most eight
are ready; otherwise the next in round order (R59). -/
def Jet.nextGroup (J : Jet) (ready : List Nat) : Option Nat :=
  if ready.contains J.lastLane = true ∧ J.inRow < 4 ∧ ready.length ≤ 8 then some J.lastLane
  else nextRound J.lastLane ready

end Sys2Proof.Machine
end

