-- ==== Sys2Proof/Machine/Txn.lean ====
section
/-! DEFINITION. Transactions, opcodes 0x60 to 0x63, with the grants, commits and timeouts that belong to them (R249 to
R273). -/

namespace Sys2Proof.Machine

/-! ### Slots and the token -/

/-- Transaction slots of a core that jets hold (R250). -/
def State.slotsHeld (s : State) (core : Nat) : Nat :=
  s.basins.foldl (fun n e =>
    if e.2.core = core then n + (e.2.jets.filter fun j => j.2.slotHeld).length else n) 0

/-- A thread enters its outermost transaction (R251). -/
def Thread.begin (t : Thread) (irr : Bool) (now : Nat) : Thread :=
  { t with
    tx := { t.tx with
      depth := 1, irr := irr, stat := 0, rlog := [], wlog := [], pages := [], since := if irr then none else some now } }

/-- The lane leaves the issue in hand. -/
def State.dropLane (s : State) (l : Nat) : State :=
  { s with cur := { s.cur with exec := s.cur.exec &&& ~~~ laneBit l, group := s.cur.group &&& ~~~ laneBit l } }

/-- Abort of one lane of the issue in hand, which has fetched its word (R85); a lane that holds the token releases it (R257,
log 19). The slot of the jet is looked at when the instruction has acted on every lane (R250). -/
def State.abortHere (s : State) (l code ucode : Nat) : State :=
  let s := if s.holdsToken s.cur.basin s.cur.jet l then s.publish else s
  (s.withThread s.cur.basin s.cur.jet l fun t => t.fetched.abort code ucode 0).dropLane l

/-- One lane's request of the token (R269): granted at once, refused by a full queue, or queued. -/
def State.requestToken (s : State) (l : Nat) : State :=
  let b := s.cur.basin
  let j := s.cur.jet
  if s.token.holder = none ∧ s.token.queue = [] then
    State.withThread { s with token := { s.token with holder := some ⟨b, j, l⟩, lines := [] } } b j l fun t =>
      t.begin true s.cycle
  else if 4096 ≤ s.token.queue.length then s.abortHere l 9 0
  else
    (State.withThread { s with token := { s.token with queue := s.token.queue ++ [⟨b, j, l⟩] } } b j l fun t =>
      { t with wait := .token }).dropLane l

/-- `TXB` of one lane (R251). -/
def State.beginLane (s : State) (irr : Bool) (l : Nat) : State :=
  match s.thread? s.cur.basin s.cur.jet l with
  | none => s
  | some t =>
    if t.tx.depth = 0 then
      let s := s.withThread s.cur.basin s.cur.jet l fun t => { t with tx := { t.tx with txbpc := s.cur.pc } }
      if irr then s.requestToken l else s.withThread s.cur.basin s.cur.jet l fun t => t.begin false s.cycle
    else if t.tx.depth = 7 then s.abortHere l 8 0
    else if irr = true ∧ t.tx.irr = false then s.abortHere l 9 0
    else s.withThread s.cur.basin s.cur.jet l fun t => { t with tx := { t.tx with depth := t.tx.depth + 1 } }

/-- The issue of `TXB` (R250, R251): it waits for a slot where it needs one, in the order of the waits. -/
def State.txBegin (s : State) (irr : Bool) : State :=
  s.issue { ends := true } fun B J =>
    let needs := (lanesOf s.cur.exec).any fun l => ((J.threads.get? l).map fun t => decide (t.tx.depth = 0)).getD false
    if needs && !J.slotHeld
        && (decide (8 ≤ s.slotsHeld B.core) || s.slotQ.any fun r => decide (r.1 = B.core)) then
      let s := s.hold .slot
      if s.slotQ.contains (B.core, s.cur.basin, s.cur.jet) then s
      else { s with slotQ := s.slotQ ++ [(B.core, s.cur.basin, s.cur.jet)] }
    else
      let s := if needs then
          s.withJet s.cur.basin s.cur.jet fun J => { J with slotHeld := true, slotFor := J.slotFor &&& ~~~ s.cur.exec }
        else s
      let s := ((lanesOf s.cur.exec).foldl (fun s l => s.beginLane irr l) s).retire
      s.withJet s.cur.basin s.cur.jet Jet.releaseSlot

/-- `TXB` (R251). -/
def execTxb (s : State) : Host.Outcome State Fault Refusal := .next (s.txBegin false)

/-- `TXB.irr` (R251, R269). -/
def execTxbIrr (s : State) : Host.Outcome State Fault Refusal := .next (s.txBegin true)

/-- TX_SLOT_GRANT (R250): a free slot of a core goes to the jet whose wait began first. The jet keeps it for the lanes that waited,
until their `TXB` executes or they leave the word. -/
def execTxSlotGrant (core : Nat) (s : State) : Host.Outcome State Fault Refusal :=
  .next
    (match s.slotQ.find? fun r => decide (r.1 = core) with
    | none => s
    | some r =>
      if 8 ≤ s.slotsHeld core then s
      else
        State.withJet { s with slotQ := s.slotQ.filter fun x => !decide (x = r) } r.2.1 r.2.2 fun J =>
          { J with
            slotHeld := true
            slotFor := J.lanesWith fun t => decide (t.wait = .slot)
            threads := J.threads.mapKeys fun _ t => if t.wait = .slot then { t with wait := .none } else t })

/-- TOKEN_GRANT (R269): the free token goes to the request at the head of the queue. -/
def execTokenGrant (s : State) : Host.Outcome State Fault Refusal :=
  .next
    (match s.token.holder, s.token.queue with
    | none, r :: rest =>
      State.withJet { s with token := { holder := some r, lines := [], queue := rest } } r.basin r.jet fun J =>
        (J.moveOn (laneBit r.lane)).withThread r.lane fun t => t.begin true s.cycle
    | _, _ => s)

/-! ### The end of a transaction -/

/-- The lane must commit its logs at this `TXE` (R259). -/
def Thread.mustCommit (t : Thread) : Bool := decide (t.tx.skip = 0 ∧ t.tx.depth = 1) && !t.tx.irr

/-- The lane publishes at this `TXE` (R259, R270). -/
def Thread.mustPublish (t : Thread) : Bool := decide (t.tx.skip = 0 ∧ t.tx.depth = 1) && t.tx.irr

/-- `TXE` of a lane that neither commits nor waits (R259). -/
def Thread.txEnd (t : Thread) (p : Nat) : Thread :=
  if t.tx.skip = 1 then { t with tx := { t.tx with skip := 0, passed := 0 } }.setPred p false
  else if t.tx.depth ≤ 1 then
    ({ t with tx := { t.tx with depth := 0, irr := false, rlog := [], wlog := [], pages := [], since := none } }).setPred p true
  else ({ t with tx := { t.tx with depth := t.tx.depth - 1 } }).setPred p true

/-- `TXE` (R259): the lanes that commit wait for their commits; the rest have their outcomes at once, and the group goes on
together. An irrevocable lane publishes first, which is a release and an acquire at package scope (R231, R261, R270). -/
def execTxe (p : Reg) (s : State) : Host.Outcome State Fault Refusal :=
  .next (s.issue { ends := true } fun B J =>
    let publishing := s.cur.exec &&& J.lanesWith Thread.mustPublish
    let committing := s.cur.exec &&& J.lanesWith Thread.mustCommit
    if s.unpublished s.cur.basin s.cur.jet publishing true then s.hold (.short (.published true))
    else
      let s := if publishing ≠ 0 then s.publish.dropL1 B.core else s
      let s := s.withBasin s.cur.basin fun B =>
        B.laneWrite s.cur.jet (s.cur.exec &&& ~~~ committing) [] [p.toNat] fun _ t => t.txEnd p.toNat
      let s := s.withJet s.cur.basin s.cur.jet Jet.releaseSlot
      if committing = 0 then s.retire
      else
        let rest := s.cur.group &&& ~~~ committing
        let s := ({ s with cur := { s.cur with group := rest } }).retire
        s.withJet s.cur.basin s.cur.jet fun J =>
          (J.withLanes committing fun _ t => { t with wait := .commit p.toNat s.tick }).withLanes rest
            fun _ t => { t with wait := .written })

/-- Lines of a lane's logs. -/
def Tx.lines (t : Tx) : List Nat := (t.rlog.map fun e => e.1 / 128) ++ (t.wlog.map fun e => e.1 / 128)

/-- The bytes of a write log, by address. -/
def Tx.bytes (t : Tx) : List (Nat × Byte) :=
  t.wlog.foldl (fun (c : Cells Byte) (e : Nat × LogWord) =>
    [0, 1, 2, 3].foldl (fun (c : Cells Byte) (i : Nat) =>
      if e.2.mask.getLsbD i then Cells.put c (e.1 + i) ((e.2.val >>> (8 * i)).truncate 8) else c) c) []

/-- Granules that a commit reads (R273): those of the read log, and those that the write log changes in part. -/
def Tx.readGranules (t : Tx) : List Nat :=
  let written := t.bytes
  let part := (written.map fun (e : Nat × Byte) => e.1 / 32).filter fun g =>
    decide ((written.filter fun (e : Nat × Byte) => decide (e.1 / 32 = g)).length < 32)
  ((t.rlog.map fun (e : Nat × Word) => e.1 / 32) ++ part).foldl insertKey []

/-- Reads granules at validation (R273): an error record for each that is poisoned, with the context. -/
def State.validateGranules (s : State) (ctx : Nat) : List Nat → State × Bool
  | [] => (s, false)
  | g :: rest =>
    let s1 := if s.poison.contains g then s.logError 0x11 1 (32 * g) ctx else s.scrub ctx g
    let r := s1.validateGranules ctx rest
    (r.1, s1.poison.contains g || r.2)

/-- Performs the bytes of a write log at their home slices, request by request (R260). -/
def State.applyLog (s : State) (t : Tx) (core ctx : Nat) : State :=
  let written := t.bytes
  ((written.map fun e => e.1 / 128).foldl insertKey []).foldl (fun s line =>
    let mine := (written.filter fun e => decide (e.1 / 128 = line)).map fun e => (e.1 - 128 * line, e.2)
    (s.homeWrite (128 * line) mine ctx).1.dropL1Line core line) s

/-- Commit(t) of R260 and R273, as one event (log 9): the state, and the lane's transaction with its outcome. -/
def State.commitLogs (s : State) (core ctx : Nat) (t : Thread) : State × Thread × Bool :=
  if t.tx.lines.any fun ln => s.lineHeld (128 * ln) then (s, t.abortAtCommit 1 0, false)
  else
    let r := s.validateGranules ctx t.tx.readGranules
    if r.2 then (r.1, t.abortAtCommit 4 15, false)
    else if t.tx.rlog.all fun e => decide (BitVec.ofNat 32 (r.1.homeNat e.1 4) = e.2) then
      (r.1.applyLog t.tx core ctx,
        { t with tx := { t.tx with rlog := [], wlog := [], pages := [], since := none, depth := 0, irr := false, stat := 0 } }, true)
    else (r.1, t.abortAtCommit 1 0, false)

/-- The predicate that a thread's commit writes, while it waits at its `TXE`. -/
def Thread.commitPred (t : Thread) : Option Nat := match t.wait with | .commit p _ => some p | _ => none

/-- Two threads wait for their commits at one `TXE`: they issued it together (R261). -/
def Thread.sameTxe (t u : Thread) : Bool :=
  match t.wait, u.wait with
  | .commit _ k, .commit _ k' => decide (k = k')
  | _, _ => false

/-- A lower lane of the same `TXE` that shares a line commits first (R261). -/
def Jet.commitBlocked (J : Jet) (l : Nat) (t : Thread) : Bool :=
  J.threads.any fun e =>
    decide (e.1 < l) && e.2.sameTxe t && (e.2.tx.lines.any fun ln => t.tx.lines.contains ln)

/-- The lanes of a `TXE` go on together once every outcome is written (R259). -/
def Jet.endWritten (J : Jet) : Jet :=
  if J.threads.any fun e => e.2.commitPred.isSome then J
  else { J with threads := J.threads.mapKeys fun _ t => if t.wait = .written then { t with wait := .none } else t }

/-- TX_COMMIT (R260, R261, R273): once the jet's stores are acknowledged. The `TXE` is an acquire at package scope too (Table 13.2),
so the thread's earlier reads are performed before it (R247). -/
def execTxCommit (b j l : Nat) (s : State) : Host.Outcome State Fault Refusal :=
  .next
    (match s.basin? b, s.jet? b j, s.thread? b j l with
    | some B, some J, some t =>
      match t.commitPred with
      | none => s
      | some p =>
        if J.drained .pkg = false ∨ J.readsDone s.tick (laneBit l) = false ∨ J.commitBlocked l t = true ∨ t.inTx = false then s
        else
          let r := s.commitLogs B.core B.ctx t
          let s := if r.2.2 then r.1.dropL1 B.core else r.1
          let s := s.withBasin b fun B => B.laneWrite j (laneBit l) [] [p] fun _ _ => r.2.1.setPred p r.2.2
          s.withJet b j fun J =>
            Jet.releaseSlot
              (((J.moveOn (laneBit l)).withThread l fun t => { t with wait := .written }).endWritten)
    | _, _, _ => s)

/-! ### `TXA`, `TXQ` and the timer -/

/-- `TXA` (R262): aborts the executing threads that are inside an ordinary transaction. -/
def execTxa (imm : BitVec 18) (s : State) : Host.Outcome State Fault Refusal :=
  .next (s.issue {} fun _ J =>
    (((lanesOf (s.cur.exec &&& J.lanesWith Thread.inTx)).foldl
      (fun s l => s.abortHere l 5 (imm.toNat % 256)) s).retire).withJet s.cur.basin s.cur.jet Jet.releaseSlot)

/-- `TXQ` (R263). -/
def execTxq (d : Reg) (s : State) : Host.Outcome State Fault Refusal :=
  .next (s.laneOp { named := [d.toNat] } [d.toNat] [] fun J _ t => t.setWord (mapReg J.wb d.toNat) t.tx.stat)

/-- The timer of a thread has reached 2^20 cycles before its outermost `TXE` executed (R267). -/
def Thread.timedOut (t : Thread) (now : Nat) : Bool :=
  match t.tx.since with
  | some c => t.inTx && decide (1048576 + c ≤ now) && t.commitPred.isNone
  | none => false

/-- TIMEOUT (R267): the thread aborts at that moment and leaves whatever wait it was in. The spec does not say whether the word at
which it waits, one that it has issued or fetched in a guard window, counts for its guard residue (R85): the model does not count
it (DESIGN CHOICE, log 67). -/
def execTimeout (b j l : Nat) (s : State) : Host.Outcome State Fault Refusal :=
  .next
    (match s.thread? b j l with
    | none => s
    | some t =>
      if t.timedOut s.cycle then
        s.withJet b j fun J => Jet.releaseSlot (J.withThread l fun t => t.abort 7 0 0)
      else s)

end Sys2Proof.Machine
end

