-- ==== Sys2Proof/Machine/Paging.lean ====
section
/-! DEFINITION. What the wellhead controller does with pages: the policies of R407, frames (R195, R196), requested pages
(R199) and migration (R214, R215). -/

namespace Sys2Proof.Machine

/-! ### Contexts and frames -/

/-- POLICY of a context (Table 27.4). -/
def State.policy (s : State) (c : Nat) : Nat := s.ctxField c 0 4 / 2 % 4

/-- The pool of a physical page: 16 interleaved, or that of a stack (R195). -/
def State.poolAt (s : State) (pa : Nat) : Nat :=
  if pa < 0x100000000000 then 16 else match s.region pa with | .hbm st => st | _ => 16

/-- The pool from which a page of a context takes its frame (R195, log 14). -/
def pagePool (c vpn : Nat) : Nat := Config.poolOf c vpn % 17

/-- The address of the level-0 entry of an address, where the walk reaches one (R186). -/
def State.entryAt (s : State) (va : Nat) : Nat → Nat → Option Nat
  | 0, table => if s.isHbm table then some (table + 8 * (va / 4096 % 512)) else none
  | k + 1, table =>
    if s.isHbm table = false then none
    else
      let e := s.homeNat (table + 8 * (va / 2 ^ levelBits (k + 1) % 512)) 8
      if pteBit e 0 = false ∨ badPte e (k + 1) = true ∨ pteBit e 1 = true then none else s.entryAt va k (pteFrame e)

/-- Fills bytes of memory with zero and clears their poison; no fetch finds what stood there before (R244). -/
def State.zeroFill (s : State) (pa n : Nat) : State :=
  { s with
    mem := s.mem.filter fun e => !decide (pa ≤ e.1 ∧ e.1 < pa + n)
    stale := s.stale.filter fun e => !decide (pa ≤ 4 * e.1 ∧ 4 * e.1 < pa + n)
    poison := s.poison.filter fun g => !decide (pa ≤ 32 * g ∧ 32 * g < pa + n)
    latent := s.latent.filter fun g => !decide (pa ≤ 32 * g ∧ 32 * g < pa + n) }

/-- Gives a page a zero-filled frame of its pool and a valid entry, under POLICY 00 (R407): none where no frame is free, or
no level-0 entry is reached. An entry in a poisoned granule is not written, which is logged, and the frame stays free (R219,
log 37). -/
def State.installPage (s : State) (c va : Nat) : Option State :=
  let pool := pagePool c (va / 4096)
  match s.entryAt va 3 (s.root c), (Cells.get [] s.wh.frames pool) with
  | some a, f :: rest =>
    let e := s.homeNat a 8
    let r := (s.zeroFill (4096 * f) 4096).homePut a (withFrame e f ||| 1) 8 c
    some (if r.2 then r.1 else { r.1 with wh := { r.1.wh with frames := r.1.wh.frames.put pool rest } })
  | _, _ => none

/-- The leaves that the entries of one table name: virtual address, entry and level; `next` gives those of a table below. -/
def State.tableLeaves (s : State) (level table va : Nat) (next : Nat → Nat → List (Nat × Nat × Nat)) : List (Nat × Nat × Nat) :=
  if s.isHbm table = false then []
  else
    (List.range 512).flatMap fun i =>
      let e := s.homeNat (table + 8 * i) 8
      let v := va + i * 2 ^ levelBits level
      if pteBit e 0 = false ∨ badPte e level = true then []
      else if pteBit e 1 then [(v, e, level)]
      else next (pteFrame e) v

/-- The leaves of a page table. -/
def State.leaves (s : State) : Nat → Nat → Nat → List (Nat × Nat × Nat)
  | 0, table, va => s.tableLeaves 0 table va fun _ _ => []
  | k + 1, table, va => s.tableLeaves (k + 1) table va fun t v => s.leaves k t v

/-- A 4 KiB page lies in the span of 2^bits bytes from an address. -/
def inSpan (va bits page : Nat) : Bool := decide (va ≤ 4096 * page ∧ 4096 * page < va + 2 ^ bits)

/-- The page of a leaf is pinned by its entry or by the staging of a launch (R196, R213). -/
def State.pinned (s : State) (c va bits entry : Nat) : Bool :=
  pteBit entry 8 || s.launches.any fun n => decide (n.2.ctx = c) && n.2.pinned.any (inSpan va bits)

/-- The pages of a global side of a copy. -/
def CopySide.pages (d : CopySide) (rows width : Nat) : List Nat :=
  if d.kind = 0 then
    (List.range rows).flatMap fun r =>
      let a := d.addr + r * d.stride
      (List.range ((a + width - 1) / 4096 - a / 4096 + 1)).map fun i => a / 4096 + i
  else []

/-- The pages that the instruction behind a fault needs itself: those of its addresses, those of every read of a lookup, and the
page of its word; for a copy, those of both its sides (R196, R208, R287). -/
def State.neededPages (s : State) (f : Fault0) : List Nat :=
  let page := f.va.toNat / 4096
  match f.owner with
  | .access b j =>
    match s.jet? b j with
    | none => [page]
    | some J =>
      let tags := (J.longs.filter fun o => decide (o.va.toNat / 4096 = page ∧ o.val = none)).map (·.tag)
        ++ (J.storeQ.filter fun q => decide (q.va.toNat / 4096 = page ∧ q.pa = none)).map (·.tag)
      (J.longs.filter fun o => tags.contains o.tag).flatMap (fun o =>
          [o.va.toNat / 4096, o.origin.toNat / 4096] ++ o.lookupReads.map fun e => e.2.1 / 4096)
        ++ (J.storeQ.filter fun q => tags.contains q.tag).flatMap fun q => [q.va.toNat / 4096, q.origin.toNat / 4096]
  | .group b j lanes _ =>
    match s.jet? b j with
    | none => [page]
    | some J => page :: (J.threads.filter fun e => lanes.getLsbD e.1).map fun e => e.2.pc.toNat / 4096
  | .copy id =>
    page :: (s.copies.filter fun c => decide (c.id = id)).flatMap fun c =>
      let d := copyDesc c.desc
      d.ctr / 4096 :: (d.src.pages d.rows d.width ++ d.dst.pages d.rows d.width)
  | .queue _ _ | .launch _ | .page _ _ _ _ | .sue => [page]

/-- The contexts that are resident. -/
def State.residents (s : State) : List Nat := (List.range 64).filter fun c => s.resident c

/-- NOFRAME (R196): the pool has no free frame, and every page resident in it is pinned or needed by the instruction. -/
def State.noFrame (s : State) (f : Fault0) : Bool :=
  let pool := pagePool f.ctx (f.va.toNat / 4096)
  (Cells.get [] s.wh.frames pool).isEmpty
    && s.residents.all fun c => (s.leaves 3 (s.root c) 0).all fun e =>
      decide (s.poolAt (pteFrame e.2.1) ≠ pool) || s.pinned c e.1 (levelBits e.2.2) e.2.1
        || (decide (c = f.ctx) && (s.neededPages f).any (inSpan e.1 (levelBits e.2.2)))

/-! ### Requested pages -/

/-- Removes the request of a core for a page. -/
def State.endRequest (s : State) (core c vpn : Nat) : State :=
  { s with pageReqs := s.pageReqs.filter fun r => !decide (r.core = core ∧ r.ctx = c ∧ r.vpn = vpn) }

/-- PAGE_REQUEST_SERVICED (R199, R421): the page is made resident as R195 would, for a read in the mode of the issuing jet, or the
request is dropped. -/
def execPageRequestServiced (k : Nat) (s : State) : Host.Outcome State Fault Refusal :=
  .next
    (match s.pageReqs[k]? with
    | none => s
    | some r =>
      match s.look r.ctx r.sys (4096 * r.vpn) .read with
      | .held => s
      | .ok _ => s.endRequest r.core r.ctx r.vpn
      | .fault kind level0 =>
        if s.policy r.ctx = 0 ∧ kind = 1 ∧ level0 = true then
          ((s.installPage r.ctx (4096 * r.vpn)).getD s).endRequest r.core r.ctx r.vpn
        else if s.policy r.ctx = 1 ∧ offered kind = true then
          s.raiseFault (.page r.core r.ctx r.vpn r.sys) r.ctx (BitVec.ofNat 64 (4096 * r.vpn)) kind level0
        else s.endRequest r.core r.ctx r.vpn)

/-! ### Migration -/

/-- Where an address lies after `n` bytes have moved. -/
def movedTo (old new n pa : Nat) : Nat := if old ≤ pa ∧ pa < old + n then new + (pa - old) else pa

/-- Copies bytes, and their poison, from one place to another. -/
def State.copyPage (s : State) (old new n : Nat) : State :=
  let z := s.zeroFill new n
  let mine := s.mem.filter fun e => decide (old ≤ e.1 ∧ e.1 < old + n)
  { z with
    mem := mine.foldl (fun (m : Memory) (e : Nat × Byte) => Cells.put m (new + (e.1 - old)) e.2) z.mem
    poison := ((s.poison.filter fun g => decide (old ≤ 32 * g ∧ 32 * g < old + n)).map fun g =>
      (new + (32 * g - old)) / 32).foldl insertKey z.poison
    latent := ((s.latent.filter fun g => decide (old ≤ 32 * g ∧ 32 * g < old + n)).map fun g =>
      (new + (32 * g - old)) / 32).foldl insertKey z.latent }

/-- The wait of a thread, its counter having moved. -/
def Wait.moved (f : Nat → Nat) : Wait → Wait
  | .counter pa va t a sc => .counter (f pa) va t a sc
  | w => w

/-- An ordinary transaction with a logged address in the page. -/
def Thread.logsIn (t : Thread) (old n : Nat) : Bool :=
  t.inTx && ((t.tx.rlog.any fun e => decide (old ≤ e.1 ∧ e.1 < old + n))
    || t.tx.wlog.any fun e => decide (old ≤ e.1 ∧ e.1 < old + n))

/-- A pending access goes to the new frame, with what it has read already. -/
def LongOp.moved (o : LongOp) (f : Nat → Nat) : LongOp :=
  if o.addressed then { o with pa := o.pa.map f, got := o.got.map fun e => (f e.1, e.2) } else o

/-- What migration does to a jet (R214, R215): its accesses go to the new frame, its transactions on the page abort with
CONFLICT. -/
def Jet.migrated (J : Jet) (old n : Nat) (f : Nat → Nat) : Jet :=
  Jet.endWritten (Jet.releaseSlot
    { J with
      threads := J.threads.mapKeys fun _ t =>
        if t.logsIn old n then t.abort 1 0 0 else { t with wait := t.wait.moved f }
      longs := J.longs.map fun o => o.moved f
      storeQ := J.storeQ.map fun (q : StoreReq) => { q with pa := q.pa.map f } })

/-- Sixteen contiguous level-0 entries that a TLB may hold as one (R189). -/
def State.contiguous (s : State) (a : Nat) : Bool :=
  let base := a / 128 * 128
  let e := s.homeNat base 8
  (List.range 16).all fun i =>
    let x := s.homeNat (base + 8 * i) 8
    pteBit x 7 && pteBit x 0 && decide (x % 32 = e % 32 ∧ x / 128 % 4 = e / 128 % 4)
      && decide (pteFrame x = pteFrame e + 4096 * i ∧ pteFrame e % 65536 = 0)

/-- Rewrites the frame of an entry of a context. -/
def State.setFrame (s : State) (c a frame : Nat) : State := (s.homePut a (withFrame (s.homeNat a 8) frame) 8 c).1

/-- Rewrites the frames of entries that follow one another. -/
def State.setFrames (s : State) (c a frame n : Nat) : State :=
  (List.range n).foldl (fun s i => s.setFrame c (a + 8 * i) (frame + i)) s

/-- An error stands in a granule of the entries of a page: they cannot be written (R219). -/
def State.entriesBad (s : State) (a n : Nat) : Bool :=
  (granules a (8 * n)).any fun g => s.poison.contains g || s.latent.contains g

/-- What the attempt to write such entries leaves: the poison, and a record for each granule (R219). -/
def State.dropEntries (s : State) (c a n : Nat) : State :=
  (granules a (8 * n)).foldl (fun s g => (s.writeGranule 0 [] g c).1) s

/-- The move of `n` pages from the entry at `a` (R214): copy, rewrite, invalidation, the stalled accesses at the new frame. -/
def State.migrate (s : State) (c a vpn old new n : Nat) : State :=
  let bytes := 4096 * n
  let f := movedTo old new bytes
  let pool := s.poolAt old
  let s := (s.copyPage old new bytes).setFrames c a (new / 4096) n
  { s with
    tlb := s.tlb.filter fun e => !decide (e.ctx = c ∧ e.bits ≤ 16 ∧ e.vpn * 2 ^ e.bits < 4096 * (vpn + n)
      ∧ 4096 * vpn < (e.vpn + 1) * 2 ^ e.bits)
    l1 := s.l1.mapKeys fun _ d => d.filter fun e => !decide (old ≤ 128 * e.1 ∧ 128 * e.1 < old + bytes)
    writes := s.writes.map fun (w : Write) => { w with pa := f w.pa }
    basins := s.basins.mapKeys fun _ B => { B with jets := B.jets.mapKeys fun _ J => J.migrated old bytes f }
    wh := { s.wh with
      queues := s.wh.queues.mapKeys fun _ q => { q with waitPa := q.waitPa.map f }
      frames := s.wh.frames.put pool
        (((Cells.get [] s.wh.frames pool).filter fun x => !decide (new / 4096 ≤ x ∧ x < new / 4096 + n))
          ++ (List.range n).map fun i => old / 4096 + i) } }

/-- What a migration moves: the address of its first entry, its first page, where it lies, and its pages; whether its leaf alone has
the contiguous hint. -/
structure Move where
  entry : Nat
  vpn : Nat
  old : Nat
  pages : Nat
  split : Bool
  deriving DecidableEq, Repr

/-- The move of the page of an address, 4 KiB, or 64 KiB where sixteen entries are one page (R189, R214). -/
def State.moveOf (s : State) (c va : Nat) : Option Move :=
  match s.findLeaf va 3 (s.root c) with
  | .leaf a e 0 =>
    if s.contiguous a then
      some ⟨a / 128 * 128, va / 65536 * 16, pteFrame (s.homeNat (a / 128 * 128) 8), 16, false⟩
    else some ⟨a, va / 4096, pteFrame (s.homeNat a 8), 1, pteBit e 7⟩
  | .leaf _ _ _ | .fault _ _ | .held => none

/-- The freeze of a migration waits for an irrevocable lane that holds lines of the page (R215), or of the page table (R268). -/
def State.moveWaits (s : State) (c va : Nat) : Bool :=
  match s.moveOf c va with
  | some m =>
    s.lineHeld m.entry || s.token.lines.any fun l => decide (m.old ≤ 128 * l ∧ 128 * l < m.old + 4096 * m.pages)
  | none => s.walkHeld c va

/-- MIGRATION (R214, R215): the page of address `va` in context `c` moves to free frames from `fr` on of its own pool. It is
never a pinned page. Where its entries lie in a poisoned granule, which a narrow write leaves as it is, it does not move (R219,
log 37). While the irrevocable lane holds it back it stays on the agenda (`State.moveWaits`). -/
def execMigration (c va fr : Nat) (s : State) : Host.Outcome State Fault Refusal :=
  .next
    (match s.moveOf c va with
    | some m =>
      let free := Cells.get [] s.wh.frames (s.poolAt m.old)
      if s.resident c = false ∨ m.split = true ∨ s.isHbm m.old = false ∨ s.moveWaits c va = true
          ∨ ((List.range m.pages).any fun i => s.pinned c (4096 * (m.vpn + i)) 12 (s.homeNat (m.entry + 8 * i) 8)) = true
          ∨ ((List.range m.pages).all fun i => free.contains (fr + i)) = false ∨ fr % m.pages ≠ 0 then s
      else if s.entriesBad m.entry m.pages then s.dropEntries c m.entry m.pages
      else s.migrate c m.entry m.vpn m.old (4096 * fr) m.pages
    | none => s)

end Sys2Proof.Machine
end

