-- ==== Sys2Proof/Machine/Traversal.lean ====
section
/-! DEFINITION. Traversal: opcodes 0x74 to 0x78, the structures, and the events of the traversal units (R241, R319 to R348,
R352, R357 to R363). -/

namespace Sys2Proof.Machine

/-! ### Extended reals -/

/-- A value as a point of the extended real line: −1 below every real, 0 a real, 1 above. NaN is never asked for. -/
def extOf (x : FV) : Int × Q :=
  match x with
  | .nan => (1, Q.ofNat 0)
  | .inf true => (-1, Q.ofNat 0)
  | .inf false => (1, Q.ofNat 0)
  | .zero _ => (0, Q.ofNat 0)
  | .fin q => (0, q)

abbrev Ext := Int × Q

def Ext.le (a b : Ext) : Bool := decide (a.1 < b.1) || (decide (a.1 = b.1) && (decide (a.1 ≠ 0) || Q.le a.2 b.2))
def Ext.lt (a b : Ext) : Bool := !Ext.le b a
def Ext.max (a b : Ext) : Ext := if Ext.le a b then b else a
def Ext.min (a b : Ext) : Ext := if Ext.le a b then a else b

def Ext.toFV (a : Ext) : FV := if a.1 = 0 then FV.ofQ a.2 else .inf (decide (a.1 < 0))

/-- An FP32 word as an extended real. -/
def extWord (w : Word) : Ext := extOf (value .f32 w.toNat)

/-- Quantise(te, FP32, rd, 0) of R337. -/
def roundDown (a : Ext) : Word := BitVec.ofNat 32 (quantise a.toFV .f32 .rd false)

/-- The exact values of finite words. -/
def wordQ (w : Word) : Q := (value .f32 w.toNat).toQ

def finite32 (w : Word) : Bool := (value .f32 w.toNat).isFinite

/-! ### Traversal contexts, treelets and nodes (R319 to R325) -/

/-- The record that a ray uses: that of the buffer of its CFG bit (R354). -/
def State.travRecord (s : State) (r : Ray) : Option TravRecord :=
  match s.travs.get? (256 * r.ctx + r.tctx) with
  | none => none
  | some t => if r.cfg = 0 then some t.buf0 else t.buf1

/-- What is found where a node reference leads. -/
inductive Place where
  /-- The holding stack, the node array, the record's second word. -/
  | at (stack nodes leaves : Nat)
  | bad | held
  | fault (va : Dword) (kind : BitVec 4)
  | poison (va : Dword)
  deriving DecidableEq, Repr

/-- A treelet record whose reserved bits are zero (Table 21.2, R325). -/
def treeletOk (n : Nat) : Bool :=
  decide (n % 2 ^ 64 % 128 = 0 ∧ n % 2 ^ 64 < 2 ^ 48 ∧ n / 2 ^ 64 % 64 = 0 ∧ n / 2 ^ 124 = 0)

/-- The treelet of a node reference: its record, and the stack that holds its node 0 (R320, R325). -/
def State.locate (s : State) (r : Ray) (ref : Word) : State × Place :=
  match s.travRecord r with
  | none => (s, .bad)
  | some t =>
    let k := ref.toNat / 4096
    if t.tcount ≤ k then (s, .bad)
    else
      let place := stackPlace r.place
      match s.engineRead place r.ctx r.sys (t.ttab.toNat + 16 * k) 16 with
      | (s, .held) => (s, .held)
      | (s, .fault va kind _) => (s, .fault va kind)
      | (s, .poison va) => (s, .poison va)
      | (s, .ok n) =>
        if treeletOk n = false then (s, .bad)
        else
          let nodes := n % 2 ^ 48
          match s.translate place r.ctx r.sys nodes .read with
          | (s, .held) => (s, .held)
          | (s, .fault kind _) => (s, .fault (BitVec.ofNat 64 nodes) kind)
          | (s, .ok pa) =>
            match s.region pa with
            | .hbm st => (s, .at st nodes (n / 2 ^ 64))
            | .control _ | .host | .peer _ | .unpopulated => (s, .bad)

/-- Reads words of an object at an address, by their index: each is a read of its own (R224, R248). A fault names the object's
address, poison that of the word. -/
def State.readWordsAt (s : State) (r : Ray) (va : Nat) (got : Cells Word) : List Nat → State × Fetch (Cells Word)
  | [] => (s, .ok got)
  | k :: rest =>
    match s.engineRead (stackPlace r.place) r.ctx r.sys (va + 4 * k) 4 with
    | (s, .ok v) => s.readWordsAt r va (got.put k (BitVec.ofNat 32 v)) rest
    | (s, .held) => (s, .held)
    | (s, .fault _ k z) => (s, .fault (BitVec.ofNat 64 va) k z)
    | (s, .poison v) => (s, .poison v)

/-- The words among some that have not been read. -/
def wordsMissing (got : Cells Word) (ks : List Nat) : List Nat := ks.filter fun k => (got.get? k).isNone

/-- Any one of some words, and any others of them: which words of an object one event reads, and in what order they are read,
is open (R248). -/
def State.someWords (s : State) (ks : List Nat) : List Nat :=
  let first := (ks[(s.free 5200000).toNat % ks.length]?).toList
  first ++ ks.filter fun i => !first.contains i && Config.keeps s.tick (5000000 + i)

/-- Some of the words that are missing are read. -/
def State.readSome (s : State) (r : Ray) (va : Nat) (got : Cells Word) (ks : List Nat) : State × Fetch (Cells Word) :=
  s.readWordsAt r va got (s.someWords (wordsMissing got ks))

/-- Words as one number, the word of index 0 lowest. -/
def wordsNat (got : Cells Word) (n : Nat) : Nat :=
  (List.range n).foldl (fun x k => x + 2 ^ (32 * k) * (Cells.get 0 got k).toNat) 0

/-- `len` bytes at an offset of an object read as a number. -/
def fieldAt (n off len : Nat) : Nat := n / 2 ^ (8 * off) % 2 ^ (8 * len)

def fieldWord (n off : Nat) : Word := BitVec.ofNat 32 (fieldAt n off 4)

/-- Kinds of the children of a box node (Table 21.3). -/
def childKind (n i : Nat) : Nat := fieldAt n 0x10 2 / 4 ^ i % 4

/-- The children present, ascending. -/
def childrenOf (n : Nat) : List Nat := (List.range 8).filter fun i => (fieldAt n 0x0F 1).testBit i

/-- An internal or instance child. -/
def inner (n i : Nat) : Bool := decide (childKind n i = 0 ∨ childKind n i = 3)

/-- The rank of a child among the internal and instance children (R324). -/
def childRank (n i : Nat) : Nat := ((childrenOf n).filter fun k => decide (k < i) && inner n k).length

/-- The node reference of an internal or instance child (R324). Where CHILDBASE plus its rank passes 4,095 it is one that no
treelet has, so that its read is malformed (R325, log 26). -/
def childRef (n i : Nat) : Word :=
  if fieldAt n 0x18 4 % 4096 + childRank n i ≤ 4095 then fieldWord n 0x18 + BitVec.ofNat 32 (childRank n i)
  else 0xFFFFF000 + BitVec.ofNat 32 (childRank n i)

/-- A box node that is well formed (R325). -/
def boxOk (n : Nat) : Bool :=
  decide (fieldAt n 0x12 1 = 0 ∧ fieldAt n 0x68 24 = 0)
    && ([0, 4, 8].all fun o => finite32 (fieldWord n o))

/-- The transform of an instance node: twelve words, row by row (Table 21.4). -/
def xform (n : Nat) : List Word := (List.range 12).map fun k => fieldWord n (0x20 + 4 * k)

/-- An instance node that is well formed (R325). -/
def instOk (n : Nat) : Bool :=
  let f := fieldAt n 0x50 4
  decide (fieldAt n 0 19 = 0 ∧ fieldAt n 0x54 44 = 0 ∧ f / 2 ^ 27 = 0) && (xform n).all finite32
    && !(f.testBit 24 && f.testBit 25)

def nodeType (n : Nat) : Nat := fieldAt n 0x13 1

/-- int8 exponent of an axis. -/
def boxExp (n ax : Nat) : Int :=
  let e := fieldAt n (0x0C + ax) 1
  if e < 128 then (e : Int) else (e : Int) - 256

/-- A bound of child `i` on an axis: ORIGIN + q × 2^EXP (R324). -/
def boxBound (n i ax hi : Nat) : Q :=
  Q.add (wordQ (fieldWord n (4 * ax)))
    (Q.scale (Q.ofNat (fieldAt n (0x20 + 6 * i + 3 * hi + ax) 1)) (boxExp n ax))

/-- QLO > QHI on some axis: a box never hit. -/
def boxEmpty (n i : Nat) : Bool :=
  [0, 1, 2].any fun ax => decide (fieldAt n (0x20 + 6 * i + 3 + ax) 1 < fieldAt n (0x20 + 6 * i + ax) 1)

/-! ### A ray in its space -/

/-- Origin and direction in the space where the ray is (R339). -/
def Ray.space (r : Ray) : List Q × List Q :=
  match r.inst with
  | some i => (i.org.map wordQ, i.dir.map wordQ)
  | none => (r.org.map wordQ, r.dir.map wordQ)

def qAt (l : List Q) (i : Nat) : Q := (l[i]?).getD (Q.ofNat 0)
def wAt (l : List Word) (i : Nat) : Word := (l[i]?).getD 0

/-- A row of the transform applied to a point or a direction (R336). -/
def xformRow (m : List Word) (v : List Word) (row : Nat) (point : Bool) : Word :=
  let val := fun w : Word => value .f32 w.toNat
  ne32 (exactSum
    ([product (val (wAt m (4 * row))) (val (wAt v 0)), product (val (wAt m (4 * row + 1))) (val (wAt v 1)),
      product (val (wAt m (4 * row + 2))) (val (wAt v 2))]
      ++ if point then [val (wAt m (4 * row + 3))] else []) .rn)

/-- The slabs of a child (R336): te and tx, and whether every axis without direction is met. -/
def slabs (r : Ray) (n i : Nat) : Ext × Ext × Bool :=
  let sp := r.space
  [0, 1, 2].foldl (fun (acc : Ext × Ext × Bool) ax =>
    let o := qAt sp.1 ax
    let d := qAt sp.2 ax
    let lo := boxBound n i ax 0
    let hi := boxBound n i ax 1
    if Q.isZero d then (acc.1, acc.2.1, acc.2.2 && Q.le lo o && Q.le o hi)
    else
      let a := Q.div (Q.sub lo o) d
      let b := Q.div (Q.sub hi o) d
      (Ext.max acc.1 (0, Q.min a b), Ext.min acc.2.1 (0, Q.max a b), acc.2.2))
    (extWord r.tmin, extWord r.tmax, true)

/-- A present child: te, its slot, and whether it is hit (R336). -/
structure Child where
  te : Ext
  slot : Nat
  hit : Bool
  deriving DecidableEq, Repr

/-- Ascending by te, then by slot. -/
def insertChild (c : Child) : List Child → List Child
  | [] => [c]
  | x :: rest => if Ext.lt c.te x.te then c :: x :: rest else x :: insertChild c rest

/-- The present children of a node in the order of R337. -/
def childOrder (r : Ray) (n : Nat) : List Child :=
  (childrenOf n).foldl (fun (l : List Child) i =>
    let sl := slabs r n i
    insertChild ⟨sl.1, i, !boxEmpty n i && sl.2.2 && Ext.le sl.1 sl.2.1⟩ l) []

def boundary : Word := 0xFFFFFFFF
def noNode : Word := 0xFFFFFFFF

/-- The T word of a resume entry (R327). -/
def resumeWord (i p : Nat) : Word := BitVec.ofNat 32 (0x7F800001 + 256 * i + p)

/-- The position that a T word names, where it is a resume entry. -/
def resumeOf (t : Word) : Option (Nat × Nat) :=
  let x := t.toNat
  if 0x7F800001 ≤ x ∧ x ≤ 0x7F800001 + 2047 then some ((x - 1) % 2048 / 256, (x - 1) % 256) else none

/-- The stack without its oldest entry that is not a boundary entry. -/
def dropOldest : List (Word × Word) → List (Word × Word)
  | [] => []
  | e :: rest => if e.2 = boundary then e :: dropOldest rest else rest

/-- Push of R340. -/
def Ray.push (r : Ray) (ref t : Word) : Ray :=
  if r.stk.length < 8 then { r with stk := r.stk ++ [(ref, t)] }
  else { r with stk := dropOldest r.stk ++ [(ref, t)], restart := true }

/-! ### Reports and endings -/

/-- The word that TRWAIT gives first (Table 21.10). -/
def Ray.statusWord (r : Ray) : Word :=
  BitVec.ofNat 32 (r.status + (if r.status = 3 ∧ r.restarted = true then 256 else 0)
    + (if r.restarted then 512 else 0))

/-- A ray that leaves its engine: what the engine had read for it is lost, an odd version among it (R352). -/
def Ray.idle (r : Ray) : Ray := { r with read := none, visit := none, inst := none, oddSince := none }

/-- Ends or parks a ray with a status code and the words 1 to 6 of its report. -/
def Ray.park (r : Ray) (st : RayState) (code : Nat) (report : List Word) : Ray :=
  { r.idle with state := st, status := code, report := report }

/-- FAULT or POISONED at an address (Table 21.10). -/
def Ray.parkAt (r : Ray) (st : RayState) (code : Nat) (va : Dword) (kind : Nat) : Ray :=
  r.park st code [0, 0, 0, 0, lo32 va, BitVec.ofNat 32 (va.toNat / 2 ^ 32 % 65536 + 65536 * kind)]

/-- BADNODE (6) or BADRAY (7). -/
def Ray.fail (r : Ray) (code : Nat) : Ray := r.park .done code [0, 0, 0, 0, 0, 0]

/-- Finish of R338: HIT, MISS, or BADREC where the hit's index lies beyond the table. -/
def State.finish (s : State) (r : Ray) : Ray :=
  match r.bestIdx with
  | none => r.park .done 1 [r.tmax, r.bestPrim, r.bestIG, r.bary, 0, 0]
  | some idx =>
    let limit := ((s.travRecord r).map (·.sbtCount)).getD 0
    r.park .done (if limit ≤ idx then 5 else 2) [r.bestT, r.bestPrim, r.bestIG, r.bary, BitVec.ofNat 32 idx, 0]

/-- Acceptance of a hit (R338). -/
def Ray.accept (r : Ray) (t prim ig bary : Word) (idx : Nat) : Ray :=
  { r with tmax := t, bestT := t, bestPrim := prim, bestIG := ig, bary := bary, bestIdx := some idx }

/-- A ray flag. -/
def Ray.flag (r : Ray) (k : Nat) : Bool := r.rflags.getLsbD k

/-! ### Primitives (R336, R338, R342) -/

def qSub3 (a b : List Q) : List Q := [0, 1, 2].map fun i => Q.sub (qAt a i) (qAt b i)
def qDot (a b : List Q) : Q :=
  Q.add (Q.add (Q.mul (qAt a 0) (qAt b 0)) (Q.mul (qAt a 1) (qAt b 1))) (Q.mul (qAt a 2) (qAt b 2))
def qCross (a b : List Q) : List Q :=
  [Q.sub (Q.mul (qAt a 1) (qAt b 2)) (Q.mul (qAt a 2) (qAt b 1)),
    Q.sub (Q.mul (qAt a 2) (qAt b 0)) (Q.mul (qAt a 0) (qAt b 2)),
    Q.sub (Q.mul (qAt a 0) (qAt b 1)) (Q.mul (qAt a 1) (qAt b 0))]

/-- The triangle test of R336: tt, u and v of a hit. -/
def triangle (r : Ray) (rec : Nat) : Option (Q × Q × Q) :=
  let vert := fun k => (List.range 3).map fun i => fieldWord rec (12 * k + 4 * i)
  if ([0, 1, 2].all fun k => (vert k).all finite32) = false then none
  else
    let v := fun k => (vert k).map wordQ
    let sp := r.space
    let e1 := qSub3 (v 1) (v 0)
    let e2 := qSub3 (v 2) (v 0)
    let q := qSub3 sp.1 (v 0)
    let n := qCross sp.2 e2
    let w := qCross q e1
    let det := qDot e1 n
    let noCull := match r.inst with | some i => i.flags.testBit 2 | none => false
    if Q.isZero det then none
    else if !noCull && ((r.flag 3 && decide (det.num < 0)) || (r.flag 4 && decide (0 < det.num))) then none
    else
      let u := Q.div (qDot q n) det
      let vv := Q.div (qDot sp.2 w) det
      let tt := Q.div (qDot e2 w) det
      if 0 ≤ u.num ∧ 0 ≤ vv.num ∧ Q.le (Q.add u vv) (Q.ofNat 1) = true
          ∧ Ext.le (extWord r.tmin) (0, tt) = true ∧ Ext.le (0, tt) (extWord r.tmax) = true then some (tt, u, vv)
      else none

/-- BARY of a hit (R338, R363). -/
def baryWord (u v : Q) : Word :=
  BitVec.ofNat 32 ((roundInt (Q.mul u (Q.ofNat 65535)) .rn).toNat
    + 65536 * (roundInt (Q.mul v (Q.ofNat 65535)) .rn).toNat)

/-- A primitive is opaque (R338). -/
def Ray.opaquePrim (r : Ray) (pflags : Nat) : Bool :=
  let byInst := match r.inst with
    | some i => if i.flags.testBit 0 then true else if i.flags.testBit 1 then false else pflags.testBit 0
    | none => pflags.testBit 0
  if r.flag 0 then true else if r.flag 1 then false else byInst

/-- How a step of a traversal ends: the ray goes on in the same engine, or it leaves it; or the step must wait. -/
inductive Trav where
  | go (r : Ray)
  | stop (r : Ray)
  | held
  deriving DecidableEq, Repr

/-- A structure read that met poison in a word ends the ray POISONED, with the address of the object, and logs a record
(R348). -/
def State.rayPoison (s : State) (r : Ray) (va obj : Dword) : State × Trav :=
  (s.logError 0x7D2 1 ((s.peek r.ctx va.toNat).getD 0) r.ctx, .stop (r.parkAt .done 8 obj 15))

/-- A read of a primitive at an address parks the ray: FAULT with a resume entry, or POISONED with a record (R347, R348). -/
def State.primStop {α : Type} (s : State) (r : Ray) (i p : Nat) (obj : Dword) (f : Fetch α) : State × Trav :=
  match f with
  | .fault va k _ =>
    (s, .stop ({ (r.push r.node (resumeWord i p)) with node := noNode }.parkAt .fault 4 va k.toNat))
  | .poison va => s.rayPoison r va obj
  | .held => (s, .held)
  | .ok _ => (s, .go r)

/-- After an acceptance: with TERMFIRST the ray finishes (R338). -/
def State.accepted (s : State) (r : Ray) : Trav := if r.flag 2 then .stop (s.finish r) else .go r

/-- A primitive that needs its record word: it is accepted, suspends the ray, or ends it with BADREC (R338, R342). -/
def State.tableWord (s : State) (r : Ray) (i p idx : Nat) (t prim ig bary : Word) (tri : Bool) : State × Trav :=
  match s.travRecord r with
  | none => (s, .stop (r.fail 6))
  | some c =>
    if c.sbtCount ≤ idx then
      (s, .stop (r.park .done 5 [t, prim, ig, bary, BitVec.ofNat 32 idx, 0]))
    else
      let va := c.sbt.toNat + 4 * idx
      match s.engineRead (stackPlace r.place) r.ctx r.sys va 4 with
      | (s, .ok 0) =>
        let r := r.accept t prim ig bary idx
        (s, s.accepted r)
      | (s, .ok w) =>
        (s, .stop ({ (r.push r.node (resumeWord i p)) with
            node := noNode, candTri := tri, candPrim := prim, candIG := ig, candIdx := idx }.park .candidate 3
          [t, prim, ig, bary, BitVec.ofNat 32 idx, BitVec.ofNat 32 w]))
      | (s, f) => s.primStop r i p (BitVec.ofNat 64 va) f

/-- The shader-table index of a primitive (R342). -/
def Ray.shaderIndex (r : Ray) (geom : Nat) : Nat :=
  (match r.inst with | some i => i.base | none => 0) + geom * (r.rflags.toNat / 4096 % 16) + r.rflags.toNat / 16777216

/-- TestPrimitive of R338 where the record of primitive `p` of leaf child `i` need not be read: a pending `.ign` passes the
position, a pending `.acc` accepts a procedural primitive at TMAX with the candidate's identity, and a procedural one whose
te lies beyond TMAX is passed. -/
def State.testUnread (s : State) (r : Ray) (n i : Nat) (ans : Option Answer) : Option Trav :=
  let tri := decide (childKind n i = 1)
  match ans with
  | some .ign => some (.go r)
  | some (.acc _) =>
    if tri then none
    else some (s.accepted (r.accept r.tmax r.candPrim r.candIG 0 r.candIdx))
  | some .term | some .retry | none =>
    if !tri && Ext.lt (extWord r.tmax) (slabs r n i).1 then some (.go r) else none

/-- TestPrimitive of R338 for a primitive whose record has been read; `acc` tells a pending `.acc` at its position. -/
def State.testRead (s : State) (r : Ray) (n i p : Nat) (acc : Bool) (rec : Nat) : State × Trav :=
  let geom := fieldAt rec 0x28 1
  let prim := fieldWord rec 0x24
  let ig := BitVec.ofNat 32 ((match r.inst with | some x => x.id | none => 0) + 16777216 * geom)
  let idx := r.shaderIndex geom
  if childKind n i = 1 then
    match triangle r rec with
    | none => (s, .go r)
    | some (tt, u, v) =>
      let t := ne32 (FV.ofQ tt)
      if r.opaquePrim (fieldAt rec 0x29 1) || acc then (s, s.accepted (r.accept t prim ig (baryWord u v) idx))
      else s.tableWord r i p idx t prim ig (baryWord u v) true
  else s.tableWord r i p idx (roundDown (slabs r n i).1) prim ig 0 false

/-- The words of a primitive's record that its test reads: all of a triangle's, and of a procedural one's those above VERTS
(R323). -/
def primWords (n i : Nat) : List Nat :=
  if childKind n i = 1 then List.range 16 else (List.range 7).map fun k => k + 9

/-- Address of the record of primitive `p` of leaf child `i` (R324). -/
def primVa (v : Visit) (i p : Nat) : Nat :=
  v.leaves % 2 ^ 48 + 64 * (fieldAt v.node 0x1C 4 + fieldAt v.node (0x58 + 2 * i) 2 + p)

/-- One step on the next primitive of a visit: a read of some words of its record, or, once they are read, its test. The
pending answer is applied at the remembered resume position (R338). -/
def State.stepPrimitive (s : State) (r : Ray) (v : Visit) (i p : Nat) (rest : List (Nat × Nat)) : State × Trav :=
  let here := decide (r.resume = some (i, p))
  let ans := if here then r.pendingAns else none
  let past := { r with
    visit := some { v with todo := rest, got := [] }
    resume := if here then none else r.resume
    pendingAns := if here then none else r.pendingAns }
  match s.testUnread past v.node i ans with
  | some x => (s, x)
  | none =>
    if (wordsMissing v.got (primWords v.node i)).isEmpty then
      s.testRead past v.node i p (match ans with | some (.acc _) => true | _ => false) (wordsNat v.got 16)
    else
      match s.readSome r (primVa v i p) v.got (primWords v.node i) with
      | (s, .ok got) => (s, .go { r with visit := some { v with got := got } })
      | (s, f) => s.primStop { past with visit := none } i p (BitVec.ofNat 64 (primVa v i p)) f

/-- Leaf kinds that the ray flags do not skip (R337). -/
def Ray.testsLeaf (r : Ray) (n i : Nat) : Bool :=
  (decide (childKind n i = 1) && !r.flag 5) || (decide (childKind n i = 2) && !r.flag 6)

/-- The primitives of a leaf child from index `p` on. -/
def leafPrims (n i p : Nat) : List (Nat × Nat) :=
  ((List.range (fieldAt n (0x50 + i) 1 + 1)).filter fun q => decide (p ≤ q)).map fun q => (i, q)

/-- The primitives of the leaf children that a ray hits, in their order (R337). -/
def Ray.leavesOf (r : Ray) (n : Nat) (cs : List Child) : List (Nat × Nat) :=
  cs.flatMap fun c => if c.hit && r.testsLeaf n c.slot then leafPrims n c.slot 0 else []

/-- The primitives that a visit tests, in their order (R337, R338): from the resume position on, where one is remembered, whose
child is processed whether or not it is hit. -/
def Ray.primsOf (r : Ray) (n : Nat) (order : List Child) : List (Nat × Nat) :=
  match r.resume with
  | none => r.leavesOf n order
  | some pos =>
    match order.dropWhile fun c => decide (c.slot ≠ pos.1) with
    | [] => []
    | c :: rest =>
      (if r.testsLeaf n c.slot then pos :: (if c.hit then leafPrims n c.slot (pos.2 + 1) else []) else [])
        ++ r.leavesOf n rest

/-! ### One node -/

/-- Pops entries until one gives a node (R337, R339): none where the stack empties. -/
def Ray.popTo (r : Ray) : Nat → Ray
  | 0 => r
  | k + 1 =>
    match r.stk.getLast? with
    | none => r
    | some (ref, t) =>
      let r := { r with stk := r.stk.dropLast }
      if t = boundary then { r with inst := none }.popTo k
      else
        match resumeOf t with
        | some pos => { r with node := ref, resume := some pos }
        | none => if Ext.lt (extWord r.tmax) (extWord t) then r.popTo k else { r with node := ref, resume := none }

/-- The ray in the space of an instance node (R336): none where the transform is not finite. -/
def Ray.instOf (r : Ray) (n : Nat) : Option RayInst :=
  let m := xform n
  let org := [0, 1, 2].map fun k => xformRow m r.org k true
  let dir := [0, 1, 2].map fun k => xformRow m r.dir k false
  if (org ++ dir).all finite32 then some ⟨fieldAt n 0x1C 3, fieldAt n 0x50 3, fieldAt n 0x53 1, org, dir⟩ else none

/-- The instance node that the ray has entered: that of the boundary entry on its stack (R327, R339). -/
def Ray.inside (r : Ray) : Option Word := (r.stk.find? fun e => decide (e.2 = boundary)).map (·.1)

/-- Enter(N) of R339: the next popped entry where the masks or the transform shut the ray out. -/
def Ray.enter (r : Ray) (n : Nat) : Ray :=
  if r.rflags.toNat / 65536 % 256 &&& fieldAt n 0x1F 1 = 0 then { r with node := noNode }
  else if (r.instOf n).isSome then { (r.push r.node boundary) with node := fieldWord n 0x18 }
  else { r with node := noNode }

/-- The children to descend into, pushed from the last down to the second; the first is next (R337). -/
def Ray.descend (r : Ray) (n : Nat) (order : List Child) : Ray :=
  let d := order.filter fun c => c.hit && inner n c.slot && Ext.le c.te (extWord r.tmax)
  match d with
  | [] => { r with node := noNode }
  | first :: rest =>
    { (rest.reverse.foldl (fun (r : Ray) c => r.push (childRef n c.slot) (roundDown c.te)) r) with
      node := childRef n first.slot }

/-- The effect of a node that has been read (R337): an instance is entered; of a box node the primitives to be tested are
listed. -/
def State.visitNode (s : State) (r : Ray) (n leaves : Nat) : State × Trav :=
  if nodeType n = 1 then
    if instOk n = false ∨ r.inside.isSome = true then (s, .stop (r.fail 6)) else (s, .go (r.enter n))
  else if nodeType n ≠ 0 ∨ boxOk n = false then (s, .stop (r.fail 6))
  else
    let todo := r.primsOf n (childOrder r n)
    let found := match r.resume with | some pos => todo.contains pos | none => false
    (s, .go { r with
      visit := some { node := n, leaves := leaves, todo := todo }
      resume := if found then r.resume else none
      pendingAns := if found then r.pendingAns else none })

/-- One step of a node read (R352): VERSION first, then words of the node, and VERSION again with the last of them; it is read
again where the version is odd or has changed. The node is answered once it has been read whole. -/
def State.readNode (s : State) (r : Ray) (va : Nat) : State × Fetch (Ray × Option Nat) :=
  let version := fun s : State => s.engineRead (stackPlace r.place) r.ctx r.sys (va + 0x14) 4
  match r.read.filter fun x => decide (x.va = va) with
  | none =>
    match version s with
    | (s, .ok v) =>
      (s, .ok (if v % 2 = 1 then { r with read := none, oddSince := some (r.oddSince.getD s.time) }
        else { r with read := some { va := va, version := BitVec.ofNat 32 v }, oddSince := none }, none))
    | (s, .held) => (s, .held)
    | (s, .fault _ k z) => (s, .fault (BitVec.ofNat 64 va) k z)
    | (s, .poison v) => (s, .poison v)
  | some x =>
    match s.readSome r va x.got (List.range 32) with
    | (s, .held) => (s, .held)
    | (s, .fault v k z) => (s, .fault v k z)
    | (s, .poison v) => (s, .poison v)
    | (s, .ok got) =>
      if (wordsMissing got (List.range 32)).isEmpty then
        match version s with
        | (s, .ok v) =>
          (s, .ok ({ r with read := none }, if BitVec.ofNat 32 v = x.version then some (wordsNat got 32) else none))
        | (s, .held) => (s, .held)
        | (s, .fault _ k z) => (s, .fault (BitVec.ofNat 64 va) k z)
        | (s, .poison v) => (s, .poison v)
      else (s, .ok ({ r with read := some { x with got := got } }, none))

/-- One step of the read of the node at an address, and what is done with the node once it is whole; a fault or poison parks
the ray (R347, R348). -/
def State.withNode (s : State) (r : Ray) (va : Nat) (f : State → Ray → Nat → State × Trav) : State × Trav :=
  match s.readNode r va with
  | (s, .held) => (s, .held)
  | (s, .fault v kind _) => (s, .stop (r.parkAt .fault 4 v kind.toNat))
  | (s, .poison v) => s.rayPoison r v (BitVec.ofNat 64 va)
  | (s, .ok (r, none)) => (s, .go r)
  | (s, .ok (r, some n)) => f s r n

/-- The instance node of the boundary entry has been read again: the ray's space, and the instance's base, identifier and flags
(R339). One that is no longer an instance node, or whose transform is no longer finite, is malformed (log 25). -/
def State.respace (s : State) (r : Ray) (n : Nat) : State × Trav :=
  if nodeType n = 1 ∧ instOk n = true ∧ (r.instOf n).isSome = true then (s, .go { r with inst := r.instOf n })
  else (s, .stop (r.fail 6))

/-- Where a node reference leads, and what is done there; a fault or poison on the way parks the ray (R325, R347, R348). -/
def State.atNode (s : State) (r : Ray) (ref : Word) (f : State → Nat → Nat → Nat → State × Trav) : State × Trav :=
  match s.locate r ref with
  | (s, .bad) => (s, .stop (r.fail 6))
  | (s, .held) => (s, .held)
  | (s, .fault va k) => (s, .stop (r.parkAt .fault 4 va k.toNat))
  | (s, .poison va) => s.rayPoison r va va
  | (s, .at st nodes leaves) => f s st nodes leaves

/-- One step of a visit of the node of a reference (R337, R343): the ray moves to the stack or the queue of its treelet, or its
space is found anew inside an instance (R339), or the node is read. -/
def State.rayNode (s : State) (r : Ray) : State × Trav :=
  s.atNode r r.node fun s st nodes leaves =>
    let k := r.node.toNat / 4096
    if st ≠ r.place then (s, .stop { r.idle with state := .travelling, place := st, treelet := k })
    else if k ≠ r.treelet then (s, .stop { r.idle with state := .queued, treelet := k, picks := 0 })
    else if leaves / 2 ^ 48 % 4096 < r.node.toNat % 4096 then (s, .stop (r.fail 6))
    else
      match r.inside, r.inst with
      | some ref, none =>
        s.atNode r ref fun s _ nodes leaves =>
          if leaves / 2 ^ 48 % 4096 < ref.toNat % 4096 then (s, .stop (r.fail 6))
          else s.withNode r (nodes + 128 * (ref.toNat % 4096)) State.respace
      | _, _ =>
        s.withNode r (nodes + 128 * (r.node.toNat % 4096)) fun s r n => s.visitNode r n leaves

/-- One step of the loop of R337: of the box node in hand, or of the next node, or the end. -/
def State.rayTurn (s : State) (r : Ray) : State × Trav :=
  match r.visit with
  | some v =>
    match v.todo with
    | (i, p) :: rest => s.stepPrimitive r v i p rest
    | [] => (s, .go (r.idle.descend v.node (childOrder r v.node)))
  | none =>
    if r.node ≠ noNode then s.rayNode r
    else
      let r := r.popTo (r.stk.length + 1)
      if r.node ≠ noNode then (s, .go r)
      else if r.restart then
        match s.travRecord r with
        | none => (s, .stop (r.fail 6))
        | some c => (s, .go { r.idle with restart := false, restarted := true, node := c.root })
      else (s, .stop (s.finish r))

/-- RAY_TRAVERSE (R337 to R343, R347, R348): one step of ray `k` of those the module holds, whose reads are separate from those
of the next step. -/
def execRayTraverse (k : Nat) (s : State) : Host.Outcome State Fault Refusal :=
  .next
    (match s.rays[k]? with
    | none => s
    | some r =>
      if r.state ≠ .traversing then s
      else
        match s.rayTurn r with
        | (_, .held) => s
        | (s, .go r) => { s with rays := s.rays.set k r }
        | (s, .stop r) => { s with rays := s.rays.set k { r with arrival := s.arrivals }, arrivals := s.arrivals + 1 })

/-- NODE_VERSION_TIMEOUT (R352): a node found odd for 1 ms. -/
def execNodeVersionTimeout (k : Nat) (s : State) : Host.Outcome State Fault Refusal :=
  .next
    (match s.rays[k]? with
    | none => s
    | some r =>
      match r.oddSince with
      | none => s
      | some c =>
        if r.state = .traversing ∧ c + microseconds 1000 ≤ s.time then { s with rays := s.rays.set k (r.fail 6) }
        else s)

/-! ### Arrival and picks (R326, R344, R345) -/

/-- Cistern records of a stack in force (Table 27.3). -/
def State.cisternSize (s : State) (st : Nat) : Nat := s.ctlNat (0x50 + 4 * st) 4

/-- A ray that has a slot or a cistern record of a stack. -/
def Ray.parkedAt (r : Ray) (st : Nat) : Bool := decide (r.place = st ∧ r.state ≠ .travelling)

def State.slotsFree (s : State) (st : Nat) : Nat :=
  65536 - (s.rays.filter fun r => r.parkedAt st && !r.cistern).length

def State.cisternUsed (s : State) (st : Nat) : Nat := (s.rays.filter fun r => r.parkedAt st && r.cistern).length

/-- Neither a slot nor a cistern record of a stack is free (R346). -/
def State.crowded (s : State) (st : Nat) : Bool :=
  decide (s.slotsFree st = 0) && decide (s.cisternSize st ≤ s.cisternUsed st)

/-- A ray that is parked in a slot of a stack, in CANDIDATE, FAULT or DONE. -/
def Ray.parkedIn (r : Ray) (st : Nat) : Bool := r.parkedAt st && !r.cistern && r.reported

/-- A parked ray may be written to the tail of the cistern, where a record is free, to free its slot (R345): whether one is, and
which, is open. -/
def State.stow (s : State) (st : Nat) : State :=
  let ks := (List.range s.rays.length).filter fun k => ((s.rays[k]?).map fun r => r.parkedIn st).getD false
  match ks[(s.free 940000).toNat % ks.length]? with
  | none => s
  | some k =>
    if s.cisternUsed st < s.cisternSize st ∧ Config.keeps s.tick 5100000 = true then
      { s with rays := s.rays.modify k fun (r : Ray) => { r with cistern := true, arrival := s.arrivals }
               arrivals := s.arrivals + 1 }
    else s

/-- Where an arriving ray goes: a slot (false), the cistern (true), or nowhere yet (R345, R346). -/
def State.room (s : State) (st : Nat) : Option Bool :=
  if s.cisternSize st = 0 then (if 0 < s.slotsFree st then some false else none)
  else if s.cisternUsed st = 0 ∧ 8192 ≤ s.slotsFree st then some false
  else if s.cisternUsed st < s.cisternSize st then some true
  else none

/-- The checks of R326: the ray is bad. -/
def Ray.bad (r : Ray) : Bool :=
  decide (r.rflags.toNat / 128 % 32 ≠ 0) || (r.flag 0 && r.flag 1) || !((r.org ++ r.dir).all finite32)
    || (value .f32 r.tmin.toNat).isNan || (value .f32 r.tmax.toNat).isNan

/-- What the unit of the origin stack does with a new ray (R326, R331): its end, its park, or its way on. Its configuration is
that of its `TRACE` (R354). -/
def State.firstStop (s : State) (r : Ray) : State × Trav :=
  if r.bad then (s, .stop (r.fail 7))
  else
    match s.travRecord r with
    | none => (s, .stop (r.fail 6))
    | some t =>
      let root := t.root
      let r := { r with node := root }
      if Ext.lt (extWord r.tmax) (extWord r.tmin) then (s, .stop (s.finish r))
      else if root = noNode then (s, .stop { r with state := .queued, treelet := 0xFFFFF })
      else
        match s.locate r root with
        | (s, .bad) => (s, .stop (r.fail 6))
        | (s, .held) => (s, .held)
        | (s, .fault va k) => (s, .stop (r.parkAt .fault 4 va k.toNat))
        | (s, .poison va) => s.rayPoison r va va
        | (s, .at st _ _) =>
          if st = r.place then (s, .stop { r with state := .queued, treelet := root.toNat / 4096 })
          else (s, .stop { r with place := st, treelet := root.toNat / 4096 })

/-- The index of the ray that a test picks with the lowest arrival number. -/
def firstRay (rays : List Ray) (f : Ray → Bool) : Option Nat :=
  ((List.range rays.length).foldl (fun (best : Option (Nat × Nat)) k =>
    match rays[k]? with
    | none => best
    | some r =>
      if f r then
        match best with
        | none => some (k, r.arrival)
        | some b => if r.arrival < b.2 then some (k, r.arrival) else best
      else best) none).map (·.1)

/-- A ray that has not yet been through the unit of its origin stack. -/
def Ray.fresh (r : Ray) : Bool := decide (r.node = noNode) && r.stk.isEmpty && !r.restarted

/-- RAY_ARRIVE (R326, R331, R345, R346): the head of a cistern takes a slot, or the ray that was sent first arrives. Rays of one
sender arrive in the order in which they were sent (R23); between different senders the spec promises no order, and the model
takes the order of sending there too (DESIGN CHOICE, log 64). -/
def execRayArrive (st : Nat) (s0 : State) : Host.Outcome State Fault Refusal :=
  let s := s0.stow st
  .next
    (match firstRay s.rays fun r => r.parkedAt st && r.cistern, decide (8192 ≤ s.slotsFree st) with
    | some k, true => { s with rays := s.rays.modify k fun (r : Ray) => { r with cistern := false } }
    | _, _ =>
      match firstRay s.rays fun r => decide (r.place = st ∧ r.state = .travelling) with
      | none => s
      | some k =>
        match s.rays[k]? with
        | none => s
        | some r =>
          let x : State × Trav := if r.fresh then s.firstStop r else (s, .stop { r with state := .queued })
          match x with
          | (_, .held) => s
          | (_, .go _) => s
          | (s1, .stop r) =>
            let r := { r with arrival := s1.arrivals, picks := 0 }
            if r.state = .travelling then { s1 with rays := s1.rays.set k r, arrivals := s1.arrivals + 1 }
            else
              match s.room st with
              | none => s
              | some c => { s1 with rays := s1.rays.set k { r with cistern := c }, arrivals := s1.arrivals + 1 })

/-- A ray that an engine of a stack may take. -/
def Ray.waitsAt (r : Ray) (st : Nat) : Bool := decide (r.place = st ∧ r.state = .queued) && !r.cistern

/-- The queue of a ray: that of its treelet, an entry of the treelet table of one context and traversal context (R320, R344). Queues
rank by the treelet's identifier; of equal identifiers the spec does not rank the contexts, and the model takes the lower context and
then the lower traversal context first (DESIGN CHOICE, log 69). -/
def Ray.queueKey (r : Ray) : Nat := r.treelet * 2 ^ 32 + r.ctx * 2 ^ 16 + r.tctx

/-- The treelet queue that is longest, of equal ones the lowest (R344). -/
def State.longestQueue (s : State) (st : Nat) : Option Nat :=
  let ks := ((s.rays.filter fun r => r.waitsAt st).map Ray.queueKey).foldl insertKey []
  let len := fun k => (s.rays.filter fun r => r.waitsAt st && decide (r.queueKey = k)).length
  ks.foldl (fun (best : Option Nat) k =>
    match best with
    | none => some k
    | some b => if len b < len k then some k else best) none

/-- The rays that a pick takes: the oldest of those that waited more than 4,096 picks, or up to 64 from the head of the
longest queue (R344). -/
def State.pickRays (s : State) (st : Nat) : List Nat :=
  match firstRay s.rays fun r => r.waitsAt st && decide (4096 < r.picks) with
  | some k => [k]
  | none =>
    match s.longestQueue st with
    | none => []
    | some t =>
      let ks := (List.range s.rays.length).filter fun k =>
        match s.rays[k]? with | some r => r.waitsAt st && decide (r.queueKey = t) | none => false
      let num := fun k => ((s.rays[k]?).map (·.arrival)).getD 0
      ((ks.foldl (fun (l : List Nat) k => (l.filter fun x => decide (num x ≤ num k)) ++ [k]
          ++ l.filter fun x => decide (num k < num x)) [])).take 64

/-- A traversal engine of a stack that has no ray (Table 1.3). -/
def State.freeEngine (s : State) (st : Nat) : Option Nat :=
  (List.range 8).find? fun e => !(s.rays.any fun r => decide (r.place = st ∧ r.state = .traversing ∧ r.engine = e))

/-- ENGINE_PICK (R344). -/
def execEnginePick (st : Nat) (s : State) : Host.Outcome State Fault Refusal :=
  .next
    (match s.freeEngine st with
    | none => s
    | some e =>
      match s.pickRays st with
      | [] => s
      | ks =>
        { s with rays := s.rays.mapIdx fun k (r : Ray) =>
            if ks.contains k then { r with state := .traversing, engine := e, picks := 0 }
            else if r.waitsAt st then { r with picks := r.picks + 1 } else r })

/-! ### Instructions -/

/-- A free directory entry of a stack (R328): which one a `TRACE` takes is not said (R331), and the model takes the lowest
(DESIGN CHOICE, log 67). -/
def State.freeEntry (s : State) (st : Nat) : Option Nat :=
  let used := (s.rays.filter fun r => decide (r.stack = st)).map (·.entry)
  if 262144 ≤ used.length then none else (List.range (used.length + 1)).find? fun e => !used.contains e

/-- Entries free on a stack. -/
def State.freeEntries (s : State) (st : Nat) : Nat := 262144 - (s.rays.filter fun r => decide (r.stack = st)).length

/-- The buffer of a traversal context that a ray uses from its `TRACE` on (R354). -/
def State.currentBuffer (s : State) (key : Nat) : Nat := ((s.travs.get? key).map (·.current)).getD 0

/-- The ray of one lane of `TRACE` is sent to its origin stack (R331). Its ticket is written before its words are copied. -/
def State.sendRay (s : State) (B : Basin) (J : Jet) (d a : Nat) (tctx l : Nat) : State :=
  let st := 2 * dieOf B.core + l % 2
  match s.freeEntry st with
  | none => s
  | some e =>
    let key := 262144 * st + e
    let gen := (Cells.get 0 s.gens key + 1) % 1024
    let ticket := BitVec.ofNat 32 (2 ^ 28 * st + 2 ^ 10 * e + gen)
    let v := fun i => if mapReg J.wb (a + i) = mapReg J.wb d then ticket else J.vreg l (a + i)
    let r : Ray :=
      { stack := st, entry := e, gen := gen, ctx := B.ctx, launch := B.launch, basin := B.index, sys := J.sys
        core := B.core, place := st, arrival := s.arrivals, org := [v 0, v 1, v 2], tmin := v 3
        dir := [v 4, v 5, v 6], tmax := v 7, rflags := v 8, tag := v 9, tctx := tctx
        cfg := s.currentBuffer (256 * B.ctx + tctx) }
    State.withBasin
      { s with rays := s.rays ++ [r], gens := s.gens.put key gen, arrivals := s.arrivals + 1 } s.cur.basin fun B =>
      B.laneWrite s.cur.jet (laneBit l) [mapReg J.wb d] [] fun _ t => t.setWord (mapReg J.wb d) r.ticket

/-- `TRACE` (R326, R331, R346): held back while a lane can have no directory entry or the rays of its stacks have no room, and
then until the acquires that precede it, and the stores that a release before it covers, have been performed (R241). -/
def execTrace (d a b : Reg) (s : State) : Host.Outcome State Fault Refusal :=
  .next (s.issue { named := [d.toNat] ++ block a 10, reads := block a 10, ureads := [b.toNat] } fun B J =>
    let c := (J.sreg b.toNat).toNat
    if 255 < c ∨ (s.travs.get? (256 * B.ctx + c)).isNone = true then s.trapFault s.cur.exec 0 0xA
    else
      s.unsupp fun s =>
        let need := fun p => ((lanesOf s.cur.exec).filter fun l => decide (l % 2 = p)).length
        let st := 2 * dieOf B.core
        if s.freeEntries st < need 0 ∨ s.freeEntries (st + 1) < need 1
            ∨ (0 < need 0 ∧ s.crowded st = true) ∨ (0 < need 1 ∧ s.crowded (st + 1) = true) then s.hold .held
        else if J.acquirePending s.tick s.cur.exec
            || s.releaseOpen s.cur.basin s.cur.jet J s.tick s.cur.exec true then s.hold (.short (.ordered true))
        else ((lanesOf s.cur.exec).foldl (fun s l => s.sendRay B J d.toNat a.toNat c l) s).retire)

/-- The eight words of a report (Table 21.10); an invalid ticket gives 0xFF. -/
def State.reportWords (s : State) (B : Basin) (ticket : Word) : List Word :=
  match s.rayOf B ticket with
  | none => [0xFF, 0, 0, 0, 0, 0, 0, 0]
  | some r => [r.statusWord] ++ ((List.range 6).map fun i => wAt r.report i) ++ [r.tag]

/-- Writes eight words to a register block of a lane. -/
def Thread.setBlock (t : Thread) (wb d : Nat) (ws : List Word) : Thread :=
  (List.range ws.length).foldl (fun (t : Thread) i => t.setWord (mapReg wb (d + i)) (wAt ws i)) t

/-- A ray that is named, parked in CANDIDATE, FAULT or DONE, leaves the cistern for a slot, where one is free (R345). -/
def State.unpark (s : State) (B : Basin) (ticket : Word) : State :=
  { s with rays := s.rays.map fun (r : Ray) =>
      if r.ticket = ticket ∧ r.ctx = B.ctx ∧ r.launch = B.launch ∧ r.basin = B.index ∧ r.reported = true
          ∧ 0 < s.slotsFree r.place then
        { r with cistern := false }
      else r }

/-- Frees the ray of a ticket (R329, R334). -/
def State.freeRay (s : State) (B : Basin) (ticket : Word) : State :=
  { s with rays := s.rays.filter fun r =>
      !decide (r.ticket = ticket ∧ r.ctx = B.ctx ∧ r.launch = B.launch ∧ r.basin = B.index) }

/-- The ticket that a `TRWAIT` of a lane names, and the window base that maps its registers: those of its issue (R73). -/
def Jet.trwaitOf (J : Jet) (l a : Nat) : Word × Nat :=
  match J.threads.get? l with
  | some t => (match t.wait with | .ray ticket wb => (ticket, wb) | _ => (J.vreg l a, J.wb))
  | none => (J.vreg l a, J.wb)

/-- The eight words of a report go to the register block of a lane. -/
def State.giveReport (s : State) (B : Basin) (d : Nat) (l : Nat) (x : Word × Nat) : State :=
  s.withBasin s.cur.basin fun K =>
    K.laneWrite s.cur.jet (laneBit l) ((List.range 8).map fun i => mapReg x.2 (d + i)) [] fun _ t =>
      t.setBlock x.2 d (s.reportWords B x.1)

/-- The ray of a ticket that has been reported is freed where it is DONE (R332). -/
def State.freeDone (s : State) (B : Basin) (ticket : Word) : State :=
  match s.rayOf B ticket with
  | some r => if r.state = .done then s.freeRay B ticket else s
  | none => s

/-- `TRWAIT` (R332): the group goes on when every lane has its report; DONE rays are then freed. While it waits it has issued:
its registers stay those that it named then (R73). -/
def execTrwait (d a : Reg) (s : State) : Host.Outcome State Fault Refusal :=
  .next (s.issue (if s.cur.resumed then {} else { named := block d 8 ++ [a.toNat], reads := [a.toNat] }) fun B J =>
    s.unsupp fun s =>
      let lanes := lanesOf s.cur.exec
      let of := fun l => J.trwaitOf l a.toNat
      if lanes.any fun l => s.rayWaits B s.cur.jet l (of l).1 then
        (s.await .held).withLanes s.cur.basin s.cur.jet s.cur.exec fun l t => { t with wait := .ray (of l).1 (of l).2 }
      else
        let s1 := lanes.foldl (fun s l => s.giveReport B d.toNat l (of l)) s
        let s2 := lanes.foldl (fun s l => s.unpark B (of l).1) s1
        (lanes.foldl (fun s l => s.freeDone B (of l).1) s2).retire)

/-- The issue of a `TRRES` form (R333): the reads that the ray makes after it follow the stores that an earlier release of package
scope covers (R358). -/
def State.answerIssue (s : State) (o : Operands) (a : Reg) (f : Jet → Nat → Answer) : State :=
  s.issue o fun B J =>
    s.unsupp fun s =>
      if s.releaseOpen s.cur.basin s.cur.jet J s.tick s.cur.exec true then s.hold (.short (.ordered true))
      else
      State.retire { s with answers := s.answers ++ (lanesOf s.cur.exec).map fun l =>
        { ticket := J.vreg l a.toNat, ctx := B.ctx, launch := B.launch, basin := B.index, jet := s.cur.jet, lane := l,
          answer := f J l, core := B.core } }

/-- `TRRES.acc` (R333). -/
def execTrresAcc (a b : Reg) (s : State) : Host.Outcome State Fault Refusal :=
  .next (s.answerIssue { named := [a.toNat, b.toNat], reads := [a.toNat, b.toNat] } a fun J l => .acc (J.vreg l b.toNat))

/-- `TRRES.ign` (R333). -/
def execTrresIgn (a : Reg) (s : State) : Host.Outcome State Fault Refusal :=
  .next (s.answerIssue { named := [a.toNat], reads := [a.toNat] } a fun _ _ => .ign)

/-- `TRRES.term` (R333). -/
def execTrresTerm (a : Reg) (s : State) : Host.Outcome State Fault Refusal :=
  .next (s.answerIssue { named := [a.toNat], reads := [a.toNat] } a fun _ _ => .term)

/-- `TRRES.retry` (R333). -/
def execTrresRetry (a : Reg) (s : State) : Host.Outcome State Fault Refusal :=
  .next (s.answerIssue { named := [a.toNat], reads := [a.toNat] } a fun _ _ => .retry)

/-- The answers of a thread on a ticket that are still on their way: a `TRCAN` follows them in program order, so they find nothing to
act on once it has freed the ray (R333, R362). -/
def State.dropAnswers (s : State) (B : Basin) (j l : Nat) (ticket : Word) : State :=
  { s with answers := s.answers.filter fun a => !decide (a.ticket = ticket ∧ a.ctx = B.ctx ∧ a.launch = B.launch
      ∧ a.basin = B.index ∧ a.jet = j ∧ a.lane = l) }

/-- `TRCAN` (R334, R362). -/
def execTrcan (a : Reg) (s : State) : Host.Outcome State Fault Refusal :=
  .next (s.issue { named := [a.toNat], reads := [a.toNat] } fun B J =>
    s.unsupp fun s =>
      ((lanesOf s.cur.exec).foldl (fun s l =>
        (s.freeRay B (J.vreg l a.toNat)).dropAnswers B s.cur.jet l (J.vreg l a.toNat)) s).retire)

/-- A word of a ray's record (Table 21.7); entries at or above the depth are undefined (R361). -/
def Ray.recordWord (r : Ray) (k : Nat) (undef : Word) : Word :=
  if k < 3 then wAt r.org k
  else if k = 3 then r.tmin
  else if k < 7 then wAt r.dir (k - 4)
  else
    match k with
    | 7 => r.tmax
    | 8 => r.rflags
    | 9 => r.tag
    | 10 =>
      BitVec.ofNat 32 (r.tctx + 65536 * (r.status + (if r.restart then 16 else 0) + (if r.restarted then 32 else 0)
        + (if r.cfg = 1 then 64 else 0)) + 16777216 * r.stk.length)
    | 11 => r.node
    | 12 => r.bestT
    | 13 => r.bestPrim
    | 14 => r.bestIG
    | 15 => r.bary
    | _ =>
      match r.stk[(k - 16) / 2]? with
      | some e => if k % 2 = 0 then e.1 else e.2
      | none => undef

/-- `TRREC.q<n>` (R335, R362): it waits for an earlier answer of its thread on the same ticket. -/
def execTrrec (d a : Reg) (n : BitVec 2) (s : State) : Host.Outcome State Fault Refusal :=
  .next (s.issue { named := block d 8 ++ [a.toNat], reads := [a.toNat] } fun B J =>
    s.unsupp fun s =>
      let lanes := lanesOf s.cur.exec
      match lanes.find? fun l => s.answerOut B s.cur.jet l (J.vreg l a.toNat) with
      | some l => s.hold (.short (.answer (J.vreg l a.toNat)))
      | none =>
        let words := fun l =>
          match s.rayOf B (J.vreg l a.toNat) with
          | some r =>
            if r.reported then (List.range 8).map fun i => r.recordWord (8 * n.toNat + i) (s.free (8 * l + i))
            else List.replicate 8 0
          | none => List.replicate 8 0
        let s1 := s.withBasin s.cur.basin fun K =>
          K.laneWrite s.cur.jet s.cur.exec ((block d 8).map (mapReg J.wb)) [] fun l t => t.setBlock J.wb d.toNat (words l)
        (lanes.foldl (fun s l => s.unpark B (J.vreg l a.toNat)) s1).retire)

/-! ### Answers -/

/-- The treelet under which an answered ray is queued (R343). -/
def Ray.answerTreelet (r : Ray) : Nat :=
  match r.stk.getLast? with
  | some e => e.1.toNat / 4096
  | none => r.node.toNat / 4096

/-- The ray is queued again with an answer, or a retry, to apply at its resume position (R333, R338). -/
def Ray.again (r : Ray) (now : Nat) (x : Answer) : Ray :=
  { r with state := .queued, status := 0, pendingAns := some x, treelet := r.answerTreelet, picks := 0, cistern := false
           arrival := now }

/-- An accepted candidate: a procedural one with a distance outside its interval is ignored (R333). -/
def Ray.accepted (r : Ray) (now : Nat) (t : Word) : Ray :=
  if r.candTri then r.again now (.acc t)
  else
    let x := value .f32 t.toNat
    if x.isNan || Ext.lt (extOf x) (extWord r.tmin) || Ext.lt (extWord r.tmax) (extOf x) then r.again now .ign
    else Ray.again { r with tmax := t, bestT := t } now (.acc t)

/-- A ray that stopped at a fault goes on (R333, R347): at a primitive, which is tested afresh; or from its node, with the answer
that waits for its resume position. -/
def Ray.retried (r : Ray) (now : Nat) : Ray :=
  if r.node = noNode then r.again now .retry
  else { (r.again now .retry) with treelet := r.node.toNat / 4096, pendingAns := r.pendingAns }

/-- What an answer does to its ray (R333, R338): none where it does not fit. -/
def State.answered (s : State) (r : Ray) (a : Answer) : Option Ray :=
  match r.state with
  | .candidate =>
    (match a with
    | .acc t => some (r.accepted s.arrivals t)
    | .ign => some (r.again s.arrivals .ign)
    | .term => some { (s.finish r) with cistern := false }
    | .retry => none)
  | .fault =>
    (match a with
    | .retry => some (r.retried s.arrivals)
    | .term => some { (s.finish r) with cistern := false }
    | .acc _ | .ign => none)
  | .travelling | .queued | .traversing | .done => none

/-- Origin stack of a ticket (R328). -/
def ticketStack (t : Word) : Nat := t.toNat / 2 ^ 28

/-- An answer comes after one that was sent before it: of the same core to the same stack (R23), or of the same thread on the
same ticket (R362). -/
def AnswerMsg.after (a x : AnswerMsg) : Bool :=
  decide (x.core = a.core ∧ ticketStack x.ticket = ticketStack a.ticket)
    || decide (x.ticket = a.ticket ∧ x.ctx = a.ctx ∧ x.launch = a.launch ∧ x.basin = a.basin ∧ x.jet = a.jet ∧ x.lane = a.lane)

/-- An answer finds no room at the stack of its ray: rays wait to arrive there and neither a slot nor a cistern record is free
(R346), or no slot is free for the return of its ray from the cistern (R345). -/
def State.answerWaits (s : State) (a : AnswerMsg) : Bool :=
  s.rays.any fun r =>
    decide (r.ticket = a.ticket ∧ r.ctx = a.ctx ∧ r.launch = a.launch ∧ r.basin = a.basin)
      && ((s.crowded r.place && s.rays.any fun x => decide (x.place = r.place ∧ x.state = .travelling)) || (r.cistern && decide (s.slotsFree r.place = 0)))

/-- ANSWER_ARRIVES (R23, R333, R346, R362): answer `k`, once those before it on its channel have arrived and there is room. -/
def execAnswerArrives (k : Nat) (s : State) : Host.Outcome State Fault Refusal :=
  .next
    (match s.answers[k]? with
    | none => s
    | some a =>
      if (s.answers.take k).any a.after || s.answerWaits a then s
      else
        { s with
          answers := s.answers.eraseIdx k
          arrivals := s.arrivals + 1
          rays := s.rays.map fun (r : Ray) =>
            if r.ticket = a.ticket ∧ r.ctx = a.ctx ∧ r.launch = a.launch ∧ r.basin = a.basin then
              (s.answered r a.answer).getD r
            else r })

end Sys2Proof.Machine
end

