-- ==== Sys2Proof/Machine/Updates.lean ====
section
/-! DEFINITION. The structure update engine: opcode 0x79 and the events that perform updates (R242, R349 to R356, R359). -/

namespace Sys2Proof.Machine

/-! ### ASUPD -/

/-- `ASUPD` (R349): the address is checked as a global access; the engine holds 1,024 updates. -/
def execAsupd (a : Reg) (s : State) : Host.Outcome State Fault Refusal :=
  .next (s.issue { ureads := block a 2 } fun B J =>
    s.unsupp fun s =>
      let va := J.spair a.toNat
      match globalFault va 8 with
      | some k => s.trapFault s.cur.exec va k
      | none =>
        if 1024 ≤ s.updates.length then s.hold .held
        else
          State.retire { s with updates := s.updates ++ [{ ctx := B.ctx, sys := J.sys, source := .inl va,
                                                           owner := some (s.cur.basin, s.cur.jet), packet := none
                                                           tag := s.tick, threads := [(s.cur.jet, s.cur.exec)] }] })

/-! ### Reads and writes of the engine -/

/-- Reads bytes in pieces that lie in one granule each. -/
def State.sueRead (s : State) (u : Update) : List (Nat × Nat) → State × Fetch (List Byte)
  | [] => (s, .ok [])
  | (va, n) :: rest =>
    match s.engineRead ioPlace u.ctx u.sys va n with
    | (s, .ok v) =>
      match s.sueRead u rest with
      | (s, .ok l) => (s, .ok ((List.range n).map (fun i => BitVec.ofNat 8 (v / 256 ^ i)) ++ l))
      | x => x
    | (s, .held) => (s, .held)
    | (s, .fault a k z) => (s, .fault a k z)
    | (s, .poison a) => (s, .poison a)

/-- `n` bytes at an address, little-endian. -/
def State.sueBytes (s : State) (u : Update) (va n : Nat) : State × Fetch (List Byte) :=
  s.sueRead u (rowRequests va (n / 32 + 2) n)

def listNat : List Byte → Nat
  | [] => 0
  | b :: rest => b.toNat + 256 * listNat rest

/-- Translates the pieces of a node for writing. -/
def State.suePlaces (s : State) (u : Update) : List (Nat × Nat) → State × Fetch (List (Nat × Nat))
  | [] => (s, .ok [])
  | (va, n) :: rest =>
    if 2 ^ 48 ≤ va then (s, .fault (BitVec.ofNat 64 va) 7 false)
    else
      match s.translate ioPlace u.ctx u.sys va .write with
      | (s, .held) => (s, .held)
      | (s, .fault k z) => (s, .fault (BitVec.ofNat 64 va) k z)
      | (s, .ok pa) =>
        if s.lineHeld pa then (s, .held)
        else
          match s.suePlaces u rest with
          | (s, .ok l) => (s, .ok ((pa, n) :: l))
          | x => x

/-- Writes bytes over translated pieces (R350). -/
def State.suePut (s : State) (ctx : Nat) : List (Nat × Nat) → List Byte → State
  | [], _ => s
  | (pa, n) :: rest, bs => ((s.homePut pa (listNat (bs.take n)) n ctx).1).suePut ctx rest (bs.drop n)

/-! ### Nodes -/

/-- The bytes of a number. -/
def natBytes (v : Nat) (n : Nat) : List Byte := (List.range n).map fun i => BitVec.ofNat 8 (v / 256 ^ i)

/-- A node with the fields of a refit image (R349): ORIGIN, EXP and MASK, then BOXES, 64 bytes (log 27). -/
def refitted (old : List Byte) (img : List Byte) : List Byte :=
  img.take 16 ++ (old.drop 16).take 16 ++ img.drop 16 ++ old.drop 0x50

/-- A bound of child `i` of a node, and whether the child has a box: present, and not empty (R324, R353). -/
def hasBox (n i : Nat) : Bool := (fieldAt n 0x0F 1).testBit i && !boxEmpty n i

/-- The union of the old and the new box of child `i` on an axis: its bounds. -/
def unionBound (old new i ax : Nat) : Option (Q × Q) :=
  match hasBox old i, hasBox new i with
  | true, true =>
    some (Q.min (boxBound old i ax 0) (boxBound new i ax 0), Q.max (boxBound old i ax 1) (boxBound new i ax 1))
  | true, false => some (boxBound old i ax 0, boxBound old i ax 1)
  | false, true => some (boxBound new i ax 0, boxBound new i ax 1)
  | false, false => none

/-- The lesser ORIGIN of an axis, as an FP32 word (R353). -/
def minOrigin (old new ax : Nat) : Word :=
  if Q.le (wordQ (fieldWord old (4 * ax))) (wordQ (fieldWord new (4 * ax))) then fieldWord old (4 * ax)
  else fieldWord new (4 * ax)

/-- Every child's union box fits an axis at an exponent: QHI is at most 255. -/
def fitsAt (old new ax : Nat) (e : Int) : Bool :=
  (List.range 8).all fun i =>
    match unionBound old new i ax with
    | none => true
    | some b => decide (Q.ceil (Q.scale (Q.sub b.2 (wordQ (minOrigin old new ax))) (-e)) ≤ 255)

/-- The least exponent at or above both at which every union box fits (R353). -/
def widenExp (old new ax : Nat) : Nat → Int → Int
  | 0, e => e
  | k + 1, e => if fitsAt old new ax e then e else widenExp old new ax k (e + 1)

/-- The box bytes of a child that has no box in either node: of a child of one of them its own empty box; of no child of
either, bytes that the spec leaves open (R324, R353, log 35). -/
def noBox (old new i : Nat) (free : Nat → Word) : List Byte :=
  let own := fun n => (List.range 6).map fun k => BitVec.ofNat 8 (fieldAt n (0x20 + 6 * i + k) 1)
  if (fieldAt old 0x0F 1).testBit i then own old
  else if (fieldAt new 0x0F 1).testBit i then own new
  else (List.range 6).map fun k => (free (6 * i + k)).truncate 8

/-- The box bytes of child `i` of a widened node: QLO, then QHI (R353). -/
def unionBox (old new i : Nat) (ex : Nat → Int) (free : Nat → Word) : List Byte :=
  if hasBox old i || hasBox new i then
    [0, 1].flatMap fun hi => (List.range 3).map fun ax =>
      match unionBound old new i ax with
      | none => 0
      | some b =>
        let base := wordQ (minOrigin old new ax)
        if hi = 0 then BitVec.ofInt 8 (Q.floor (Q.scale (Q.sub b.1 base) (-(ex ax))))
        else BitVec.ofInt 8 (Q.ceil (Q.scale (Q.sub b.2 base) (-(ex ax))))
  else noBox old new i free

/-- The widened node of the first phase of a refit (R353). -/
def widened (oldB newB : List Byte) (free : Nat → Word) : List Byte :=
  let old := listNat oldB
  let new := listNat newB
  let ex := fun ax => widenExp old new ax 256 (Max.max (boxExp old ax) (boxExp new ax))
  let origin := (List.range 3).flatMap fun ax => storeBytes ((minOrigin old new ax).zeroExtend 64) 4
  let exps := (List.range 3).map fun ax => BitVec.ofInt 8 (ex ax)
  origin ++ exps ++ [BitVec.ofNat 8 (fieldAt old 0x0F 1 ||| fieldAt new 0x0F 1)] ++ (oldB.drop 16).take 16
    ++ ((List.range 8).flatMap fun i => unionBox old new i ex free) ++ oldB.drop 0x50

/-! ### Descriptors (Table 21.11) -/

def sueKind (ws : List Word) : Nat := descWord ws 0 % 256
def sueCount (ws : List Word) : Nat := descWord ws 0 / 65536
def sueList (ws : List Word) : Nat := descWord ws 2 + 4294967296 * descWord ws 3
def sueCtr (ws : List Word) : Nat := descWord ws 4 + 4294967296 * descWord ws 5
def sueInc (ws : List Word) : Dword := pair64 (wAt ws 6) (wAt ws 7)

/-- A descriptor that keeps Table 21.11. -/
def sueDescOk (ws : List Word) : Bool :=
  let kind := sueKind ws
  decide (kind = 1 ∨ kind = 2 ∨ kind = 3) && decide (descWord ws 0 / 256 % 256 = 1)
    && decide (1 ≤ sueCount ws ∧ sueCount ws ≤ 4096) && decide (sueList ws % 16 = 0 ∧ sueList ws < 2 ^ 48)
    && decide (sueCtr ws % 8 = 0)
    && (if kind = 3 then decide (sueCount ws = 1 ∧ descWord ws 1 ≤ 255) else decide (descWord ws 1 = 0))

/-- Entries that an update still has to write, both phases of a refit counted. -/
def sueTotal (ws : List Word) : Nat := if sueKind ws = 2 then 2 * sueCount ws else sueCount ws

/-! ### The head of the queue -/

/-- Changes the update at the head of the queue. -/
def State.withUpdate (s : State) (f : Update → Update) : State :=
  match s.updates with
  | [] => s
  | u :: rest => { s with updates := f u :: rest }

/-- A fault of the update at the head (R355): offered, it waits; otherwise the update has failed, or its counter is lost. -/
def State.sueFault (s : State) (u : Update) (va : Dword) (k : BitVec 4) (z : Bool) (counter : Bool) : State :=
  if offered k then
    (s.withUpdate fun u => { u with faulted := true }).raiseFault .sue u.ctx va k z
  else s.withUpdate fun u => if counter then { u with lost := true } else { u with failed := true }

/-- The release of an update has been reached: the stores of its jet and the reads of its lanes that precede it have been
performed (R233, R349). -/
def State.sueReleased (s : State) (u : Update) : Bool :=
  s.workReleased u.owner u.tag u.threads u.covers

/-- The status of the update's packet cannot be written now (R268). -/
def State.updateHeld (s : State) (u : Update) : Bool := (u.packet.map s.statusHeld).getD false

/-- The update at the head is over: its packet has its status (R356). -/
def State.endUpdate (s : State) (u : Update) (status : Nat) : State :=
  let s := match u.packet with | some p => s.putStatus u.ctx p status | none => s
  { s with updates := s.updates.drop 1 }

/-- The end of an update (R355, R356): the addition to its counter, or the counter's poison, or only an error record. -/
def State.sueEnd (s : State) (u : Update) (ws : List Word) (good : Bool) : State :=
  let ctr := sueCtr ws
  if u.lost = true ∨ ctr % 8 ≠ 0 ∨ 2 ^ 48 ≤ ctr then (s.logError 0x7D3 4 0 u.ctx).endUpdate u 0x14
  else
    match s.translate ioPlace u.ctx u.sys ctr .write with
    | (_, .held) => s
    | (s1, .fault k z) => s1.sueFault u (BitVec.ofNat 64 ctr) k z true
    | (s1, .ok pa) =>
      if s1.lineHeld pa then s
      else if good then
        let r := s1.addCounter pa u.ctx (sueInc ws)
        r.1.endUpdate u (if r.2 then 3 else 0x13)
      else (s1.poisonCounter pa u.ctx).endUpdate u 0x13

/-- Reads the descriptor of the update at the head, which then holds its words; a poisoned one leaves its counter unusable
(R349, R355). -/
def State.sueDesc (s : State) (u : Update) (va : Dword) : State :=
  match s.sueBytes u va.toNat 32 with
  | (s, .ok bs) => s.withUpdate fun u =>
      { u with source := .inr ((List.range 8).map fun i => BitVec.ofNat 32 (listNat ((bs.drop (4 * i)).take 4))) }
  | (_, .held) => s
  | (s, .fault a k z) =>
    if offered k then s.sueFault u a k z true else (s.logError 0x7D3 4 0 u.ctx).endUpdate u 0x14
  | (s, .poison a) => (s.logError 0x7D3 1 ((s.peek u.ctx a.toNat).getD 0) u.ctx).endUpdate u 0x14

/-- A read of the update met poison at an address: a record, and the update fails (R355). -/
def State.suePoison (s : State) (u : Update) (a : Dword) : State :=
  (s.logError 0x7D3 1 ((s.peek u.ctx a.toNat).getD 0) u.ctx).withUpdate fun u => { u with failed := true }

/-- The new bytes of a node for entry `i` (R350, R353): in the first phase of a refit the widened node. -/
def sueImage (ws : List Word) (i : Nat) (old src : List Byte) (free : Nat → Word) : List Byte :=
  if sueKind ws = 1 then src
  else if i < sueCount ws then widened old (refitted old src) free
  else refitted old src

/-- The pieces of a node other than its version word, and those of its version word, each in one granule. -/
def nodePieces (node : Nat) : List (Nat × Nat) := rowRequests node 2 0x14 ++ rowRequests (node + 0x18) 6 0x68
def versionPieces (node : Nat) : List (Nat × Nat) := rowRequests (node + 0x14) 2 4

/-- What the engine reads of the node of an entry: its version word for a rewrite, all of it for a refit (R350, R353, R355). The
answer has 128 bytes, zero where they were not read. -/
def State.sueOld (s : State) (u : Update) (ws : List Word) (node : Nat) : State × Fetch (List Byte) :=
  if sueKind ws = 1 then
    match s.sueBytes u (node + 0x14) 4 with
    | (s, .ok v) => (s, .ok (List.replicate 0x14 0 ++ v ++ List.replicate 0x68 0))
    | x => x
  else s.sueBytes u node 128

/-- A read or a write of the update at the head that did not succeed: it waits, fails, or waits for its fault (R268, R355). -/
def State.sueStop {α : Type} (s0 s : State) (u : Update) (f : Fetch α) : State :=
  match f with
  | .held | .ok _ => s0
  | .fault a k z => s.sueFault u a k z false
  | .poison a => s.suePoison u a

/-- An entry of a rewrite or refit begins (R350): every source is read, and the odd version is written. -/
def State.sueEntry (s : State) (u : Update) (ws : List Word) (i : Nat) : State :=
  match s.sueBytes u (sueList ws + 16 * (i % sueCount ws)) 16 with
  | (s1, .ok e) =>
    let node := listNat (e.take 8)
    match s1.sueBytes u (listNat (e.drop 8)) (if sueKind ws = 1 then 128 else 64) with
    | (s2, .ok img) =>
      (match s2.sueOld u ws node with
      | (s3, .ok old) =>
        (match s3.suePlaces u (nodePieces node ++ versionPieces node) with
        | (s4, .ok places) =>
          let v := fieldWord (listNat old) 0x14 ||| 1
          (s4.suePut u.ctx (places.drop (nodePieces node).length) (storeBytes (v.zeroExtend 64) 4)).withUpdate fun u =>
            { u with write := some { node := node, image := sueImage ws i old img s.free, version := v,
                                     left := nodePieces node } }
        | (s4, f) => s.sueStop s4 u f)
      | (s3, f) => s.sueStop s3 u f)
    | (s2, f) => s.sueStop s2 u f
  | (s1, f) => s.sueStop s1 u f

/-- The next write of the node in hand (R350): one of the pieces that are left, in any order, and after them the even version,
with which the entry is written. -/
def State.sueWrite (s : State) (u : Update) (w : NodeWrite) : State :=
  match w.left[(s.free 950000).toNat % w.left.length]? with
  | some (va, n) =>
    (match s.suePlaces u [(va, n)] with
    | (s1, .ok places) =>
      (s1.suePut u.ctx places ((w.image.drop (va - w.node)).take n)).withUpdate fun u =>
        { u with write := some { w with left := w.left.filter fun x => decide (x ≠ (va, n)) } }
    | (s1, f) => s.sueStop s1 u f)
  | none =>
    match s.suePlaces u (versionPieces w.node) with
    | (s1, .ok places) =>
      (s1.suePut u.ctx places (storeBytes ((w.version + 1).zeroExtend 64) 4)).withUpdate fun u =>
        { u with write := none, next := u.next + 1 }
    | (s1, f) => s.sueStop s1 u f

/-- SUE_UPDATE (R242, R350, R353, R355): one step of the update at the head: its descriptor, the start of an entry, one write of
a node, or its end. -/
def execSueUpdate (s : State) : Host.Outcome State Fault Refusal :=
  .next
    (match s.updates with
    | [] => s
    | u :: _ =>
      if u.faulted = true ∨ s.sueReleased u = false ∨ s.updateHeld u = true then s
      else
        match u.source with
        | .inl va => if u.lost then (s.logError 0x7D3 4 0 u.ctx).endUpdate u 0x14 else s.sueDesc u va
        | .inr ws =>
          if u.lost = true ∨ u.failed = true ∨ sueDescOk ws = false then s.sueEnd u ws false
          else if sueKind ws = 3 then s
          else
            match u.write with
            | some w => s.sueWrite u w
            | none => if u.next < sueTotal ws then s.sueEntry u ws u.next else s.sueEnd u ws true)

/-! ### CONFIG (R319, R354, R359) -/

/-- A record that may be loaded (Table 21.1, R354). -/
def travRecordOf (bs : List Byte) : Option TravRecord :=
  let n := listNat bs
  let t := fieldAt n 4 4
  let ttab := fieldAt n 8 8
  let sbt := fieldAt n 16 8
  if fieldAt n 0x1C 36 = 0 ∧ 1 ≤ t ∧ t ≤ 0xFFFFF ∧ ttab % 16 = 0 ∧ ttab < 2 ^ 48 ∧ sbt % 4 = 0 ∧ sbt < 2 ^ 48 then
    some ⟨fieldWord n 0, t, BitVec.ofNat 64 ttab, BitVec.ofNat 64 sbt, fieldAt n 0x18 4⟩
  else none

/-- A ray that uses a buffer of a traversal context: from its `TRACE` until it is DONE or freed (R354). -/
def Ray.usesBuffer (r : Ray) (c k buf : Nat) : Bool :=
  decide (r.ctx = c ∧ r.tctx = k ∧ r.cfg = buf) && decide (r.state ≠ .done)

/-- The buffer that a CONFIG update writes (R359). -/
def State.olderBuffer (s : State) (key : Nat) : Nat :=
  match s.travs.get? key with
  | none => 0
  | some t => 1 - t.current

/-- Loads a record into the older buffer and makes it the current one. -/
def State.loadConfig (s : State) (key : Nat) (rec : TravRecord) : State :=
  let loaded : TravCtx :=
    match s.travs.get? key with
    | none => ⟨rec, none, 0⟩
    | some t => if t.current = 0 then { t with buf1 := some rec, current := 1 } else { t with buf0 := rec, current := 0 }
  { s with travs := s.travs.put key loaded }

/-- CONFIG (R354): the CONFIG update at the head loads its record once no ray uses the older buffer. -/
def execConfig (s : State) : Host.Outcome State Fault Refusal :=
  .next
    (match s.updates with
    | [] => s
    | u :: _ =>
      match u.source with
      | .inl _ => s
      | .inr ws =>
        if u.faulted = true ∨ u.failed = true ∨ u.lost = true ∨ s.sueReleased u = false ∨ sueDescOk ws = false
            ∨ sueKind ws ≠ 3 ∨ s.updateHeld u = true then s
        else if u.next = 1 then s.sueEnd u ws true
        else
          let key := 256 * u.ctx + descWord ws 1
          if s.rays.any fun r => r.usesBuffer u.ctx (descWord ws 1) (s.olderBuffer key) then s
          else
            match s.sueBytes u (sueList ws) 64 with
            | (_, .held) => s
            | (s, .fault a k z) => s.sueFault u a k z false
            | (s, .poison a) => s.suePoison u a
            | (s, .ok bs) =>
              match travRecordOf bs with
              | none => s.withUpdate fun u => { u with failed := true }
              | some rec =>
                let s := (s.loadConfig key rec).withUpdate fun u => { u with next := 1 }
                s.sueEnd { u with next := 1 } ws true)

end Sys2Proof.Machine
end

