-- ==== Sys2Proof/Machine/Placement.lean ====
section
/-! DEFINITION. From launch to core: resources, the choice of die and core, placement and restore, pre-emption, the exit of
basins, and `GROW` (R32, R33, R47 to R53, R63 to R65, R209, R357, R391, R394, R395, R398). -/

namespace Sys2Proof.Machine

/-! ### Resources of a core (R47) -/

/-- The module has started and is not in recovery (R412). -/
def State.serving (s : State) : Bool := s.wh.started && decide (s.ctlNat 0x008 4 = 0)

/-- A core is in service (Table 27.3, CORES). -/
def State.coreOn (s : State) (core : Nat) : Bool := (s.ctl8 (0x200 + core / 8)).getLsbD (core % 8)

/-- The resident basins of a core. -/
def State.basinsOn (s : State) (core : Nat) : List Basin := (s.basins.filter fun e => decide (e.2.core = core)).map (·.2)

/-- Jets of a basin that hold a slot and registers. -/
def Basin.liveJets (B : Basin) : Nat := (B.jets.filter fun e => decide (e.2.run ≠ .exited)).length

/-- What a basin needs, or a core has free: basin slots, jet slots, granules of vector registers, scratchpad bytes, tile
bytes, accumulators (R47). -/
structure Needs where
  basins : Nat
  jets : Nat
  regs : Nat
  scr : Nat
  tile : Nat
  acc : Nat
  deriving DecidableEq, Repr

def Shape.needs (h : Shape) : Needs := ⟨1, h.jets, h.jets * h.vgran, h.scr, h.tile, h.accn⟩

/-- The resources of an empty core (Table 1.2, R53); a granule for a jet is 4 KiB of the vector register file. -/
def coreNeeds : Needs := ⟨256, 1024, 1024, 0x80000, 0x100000, 32⟩

/-- Exited jets of a basin whose vector registers an `MMAV` has still to read (R318). -/
def Basin.readJets (B : Basin) : Nat :=
  (B.jets.filter fun e => decide (e.2.run = .exited)
    && B.matQ.any fun o => decide (o.jet = e.1) && !o.regs.isEmpty).length

/-- What a resident basin holds: once its last jet has exited, only what its matrix operations still need (R56, R318); a restored
basin holds the slots and registers of the jets that had exited before, too (R394). -/
def Basin.holds (B : Basin) : Needs :=
  if B.gone then ⟨0, 0, 0, 0, 0, 0⟩
  else if B.liveJets = 0 then
    ⟨0, 0, B.readJets * B.shape.vgran, 0, if B.matQ.isEmpty then 0 else B.shape.tile,
      if B.matQ.isEmpty then 0 else B.shape.accn⟩
  else
    ⟨1, B.liveJets + B.spare.length, (B.liveJets + B.readJets + B.spare.length) * B.shape.vgran, B.shape.scr, B.shape.tile,
      B.shape.accn⟩

def Needs.sub (a b : Needs) : Needs :=
  ⟨a.basins - b.basins, a.jets - b.jets, a.regs - b.regs, a.scr - b.scr, a.tile - b.tile, a.acc - b.acc⟩

/-- The resources that a core has free. -/
def State.freeOn (s : State) (core : Nat) : Needs :=
  (s.basinsOn core).foldl (fun a B => a.sub B.holds) coreNeeds

def Needs.fit (need free : Needs) : Bool :=
  decide (need.basins ≤ free.basins ∧ need.jets ≤ free.jets ∧ need.regs ≤ free.regs ∧ need.scr ≤ free.scr
    ∧ need.tile ≤ free.tile ∧ need.acc ≤ free.acc)

/-- A core can hold a basin of a shape now (R47). -/
def State.canHold (s : State) (core : Nat) (h : Shape) : Bool := s.coreOn core && h.needs.fit (s.freeOn core)

/-- Basins of a shape that an amount of a resource holds; a need of none sets no limit. -/
def holdCount (need free limit : Nat) : Nat := if need = 0 then limit else Nat.min limit (free / need)

/-- Basins of a shape that an empty core holds. -/
def Shape.perCore (h : Shape) : Nat :=
  let n := h.needs
  holdCount n.acc coreNeeds.acc (holdCount n.tile coreNeeds.tile (holdCount n.scr coreNeeds.scr
    (holdCount n.regs coreNeeds.regs (holdCount n.jets coreNeeds.jets coreNeeds.basins))))

/-- Cores in service. -/
def State.coresOn (s : State) : List Nat := (List.range 1024).filter s.coreOn

/-! ### The choice of a die and a core (R48) -/

/-- The dies in ascending order, starting after one. -/
def diesAfter (d : Nat) : List Nat := (List.range 8).map fun i => (d + 1 + i) % 8

/-- The dies that a launch tries, in order (R48). -/
def Launch.dies (L : Launch) : List Nat :=
  match L.stackHint, L.dieMask with
  | some st, _ => st / 2 :: diesAfter L.lastDie
  | none, some m => (diesAfter L.lastDie).filter (fun d => m.testBit d) ++ diesAfter L.lastDie
  | none, none => diesAfter L.lastDie

/-- The cores of a die, from the one after that which received the die's previous basin (R48). -/
def State.coresOf (s : State) (d : Nat) : List Nat :=
  (List.range 128).map fun i => 128 * d + (Cells.get 127 s.wh.lastCore d + 1 + i) % 128

/-- Basins of a launch are left to place: saved ones, or indices (R47, R51); none of one that `ENDLAUNCH` has stopped (R411). -/
def Launch.unplaced (L : Launch) : Bool :=
  !L.ended && decide (L.stage = .dispatch ∨ L.stage = .running) && (!L.saved.isEmpty || decide (L.next < L.count))

/-- A die is kept for another launch of the same or a higher class, a basin of which has waited 100 µs and is not yet placed (R49). -/
def State.dieKept (s : State) (n cls d : Nat) : Bool :=
  s.launches.any fun e => decide (e.1 ≠ n ∧ cls ≤ e.2.cls) && e.2.unplaced && e.2.reserved.any fun r => decide (r.2 = d)

/-- The core that takes the next basin of a launch (R48). -/
def State.chooseCore (s : State) (n : Nat) (L : Launch) : Option Nat :=
  ((L.dies.filter fun d => !s.dieKept n L.cls d).flatMap s.coresOf).find? fun c => s.canHold c L.shape

/-! ### The start of a basin (R33, R52, R53, R394, R398) -/

/-- Slots in use on a core. -/
def State.slotsOn (s : State) (core : Nat) : List Nat :=
  (s.basinsOn core).flatMap fun B =>
    if B.liveJets = 0 then [] else (B.jets.filter fun e => decide (e.2.run ≠ .exited)).map (fun e => e.2.slot) ++ B.spare

/-- Slots in use of a spout. -/
def onSpout (used : List Nat) (sp : Nat) : Nat := (used.filter fun x => decide (x % 16 = sp)).length

/-- The spout with the fewest resident jets, the lowest-numbered of equals (R53). A slot that a restored basin keeps for a jet that
had exited counts like a resident jet (DESIGN CHOICE, log 67). -/
def leastSpout (used : List Nat) : Nat :=
  (List.range 16).foldl (fun best sp => if onSpout used sp < onSpout used best then sp else best) 0

/-- A free slot for jet `k`: on spout (h + k) mod 16, or on the next that has one (R53). -/
def slotFor (used : List Nat) (h k : Nat) : Nat :=
  let sp := ((List.range 16).map fun i => (h + k + i) % 16).find? fun sp => decide (onSpout used sp < 64)
  match sp with
  | none => 0
  | some sp => (((List.range 64).map fun r => sp + 16 * r).find? fun x => !used.contains x).getD sp

/-- Slots for jets, in ascending order of their numbers (R53). -/
def assignSlots (h : Nat) : List Nat → List Nat → Cells Nat
  | _, [] => []
  | used, k :: rest =>
    let x := slotFor used h k
    (k, x) :: assignSlots h (x :: used) rest

/-- The identifier of a thread (R33). -/
def workId (h : Shape) (index jet lane : Nat) : Dword := BitVec.ofNat 64 (index * 2 ^ (5 + h.w1) + jet * 32 + lane)

/-- A thread at its basin's start or restore (Table 3.4, Table 25.2). -/
def newThread (pc entry wid : Dword) : Thread := { pc := pc, epc := entry, wid0 := wid }

/-- s0 to s7 (Table 3.4). -/
def startRegs (L : Launch) : Cells Word :=
  [(0, lo32 L.args), (1, hi32 L.args)] ++ (List.range 6).map fun i => (i + 2, wAt L.const i)

/-- The 32 threads of a jet. -/
def newThreads (h : Shape) (index jet : Nat) (pc entry : Dword) (wids : Cells Dword) : Cells Thread :=
  (List.range 32).map fun l => (l, newThread pc entry ((wids.get? (32 * jet + l)).getD (workId h index jet l)))

/-- A jet at its basin's start (Table 3.4). -/
def newJet (L : Launch) (index jet slot now : Nat) : Jet :=
  { threads := newThreads L.shape index jet L.entry L.entry [], sregs := startRegs L, slot := slot, since := now
    readyAt := now }

/-- A restored jet: in system mode at the restore vector (R394). -/
def restoredJet (L : Launch) (r : SavedBasin) (vector : Dword) (jet slot now : Nat) : Jet :=
  { newJet L r.index jet slot now with
    threads := newThreads L.shape r.index jet vector L.entry r.wids
    sys := true, handler := .restore, cause := 0x8008, lanemask := 0xFFFFFFFF, jsave := L.shape.jsave r.bsave jet
    causes := Cells.get [] r.causes jet }

/-- The basin that comes next: a saved one, or the next index (R47, R51). -/
def Launch.nextIndex (L : Launch) : Nat := match L.saved with | r :: _ => r.index | [] => L.next

/-- The time since which the basin that comes next has waited (R49). -/
def Launch.waitedSince (L : Launch) : Nat := match L.saved with | r :: _ => r.since | [] => L.waitingSince

/-- The slots of the next basin on a core, one for each jet of its shape: a restored basin takes the resources of its first
placement (R53, R394). -/
def State.nextSlots (s : State) (L : Launch) (core : Nat) : Cells Nat :=
  let used := s.slotsOn core
  assignSlots (leastSpout used) used (List.range L.shape.jets)

/-- The jets of the next basin on a core: of a saved one, those that were SAVED (R394). -/
def State.nextJets (s : State) (L : Launch) (core : Nat) : Cells Jet :=
  match L.saved with
  | r :: _ =>
    let v := BitVec.ofNat 64 (s.ctxField L.ctx 0x20 8)
    ((s.nextSlots L core).filter fun e => r.jets.contains e.1).map fun e => (e.1, restoredJet L r v e.1 e.2 s.cycle)
  | [] => (s.nextSlots L core).map fun e => (e.1, newJet L L.next e.1 e.2 s.cycle)

/-- The slots that the next basin holds beyond those of its jets. -/
def State.nextSpare (s : State) (L : Launch) (core : Nat) : List Nat :=
  match L.saved with
  | r :: _ => ((s.nextSlots L core).filter fun e => !r.jets.contains e.1).map (·.2)
  | [] => []

/-- The TLBs of a core and of its die hold nothing of a context (R397). -/
def State.dropContext (s : State) (core ctx : Nat) : State :=
  { s with tlb := s.tlb.filter fun e =>
      !(decide (e.ctx = ctx) && decide (e.place = corePlace core ∨ e.place = diePlace (dieOf core))) }

/-- The start of a basin is an acquire: after a counter wait, of a granted index, or of a restore (R42, R65, R394). -/
def Launch.acquires (L : Launch) : Bool := L.wait.isSome || !L.saved.isEmpty || decide (L.initial ≤ L.next)

/-- The basin that comes next starts on a core; RUNNING is written with the first (Table 3.3). The die kept for this basin is kept no
longer. The spec does not say from when the 100 µs of a basin count (R49): the model counts a saved one from its saving, and another
from when its index becomes the launch's next to place (DESIGN CHOICE, log 69). -/
def State.startBasin (s : State) (n : Nat) (L : Launch) (core : Nat) : State :=
  let B : Basin :=
    { launch := n, ctx := L.ctx, cls := L.cls, index := L.nextIndex, core := core, shape := L.shape
      jets := s.nextJets L core
      bsave := match L.saved with | r :: _ => r.bsave | [] => 0
      spare := s.nextSpare L core }
  let s := if L.saved.isEmpty then s else s.dropContext core L.ctx
  let s := if L.acquires then s.dropL1 core else s
  let s := if L.stage = .dispatch then s.putStatus L.ctx L.packet 2 else s
  { s with
    basins := s.basins.put s.nextBasin B
    nextBasin := s.nextBasin + 1
    launches := s.launches.modify n fun L =>
      { L with
        began := if L.stage = .dispatch then s.tick else L.began
        stage := .running, lastDie := dieOf core, waitingSince := if L.saved.isEmpty then s.time else L.waitingSince,
        reserved := L.reserved.del L.nextIndex, served := s.wh.serve
        next := if L.saved.isEmpty then L.next + 1 else L.next
        saved := L.saved.drop 1 }
    wh := { s.wh with lastCore := s.wh.lastCore.put (dieOf core) (core % 128), serve := s.wh.serve + 1 } }

/-- Places or restores the next basin of a launch: none where no die has a core for it. -/
def State.placeNext (s : State) (n : Nat) : Option State :=
  match s.launches.get? n with
  | none => none
  | some L =>
    if L.unplaced = false then none
    else (s.chooseCore n L).map fun core => s.startBasin n L core

/-- Places every basin that a launch has left: none where one of them finds no room (R50). -/
def State.placeAll (s : State) (n : Nat) : Nat → Option State
  | 0 => some s
  | k + 1 => (s.placeNext n).bind fun s => s.placeAll n k

/-- A co-scheduled launch of a higher class, or an earlier one of the same class, keeps the others back until it is placed;
one that is not co-scheduled waits for any of its class (R50). The spec does not say from when: the model does so from when the
launch is handed to dispatch, not while it waits for its counter or its staging (DESIGN CHOICE, log 28). Of two co-scheduled
launches of one class the one with the lower launch number holds back the other (DESIGN CHOICE, log 67). -/
def State.heldBack (s : State) (n : Nat) (L : Launch) : Bool :=
  s.launches.any fun e =>
    decide (e.1 ≠ n) && e.2.cosched && e.2.unplaced
      && (decide (L.cls < e.2.cls) || (decide (L.cls = e.2.cls) && (!L.cosched || decide (e.1 < n))))

/-- A basin of the launch is still being pre-empted. -/
def State.leaving (s : State) (n : Nat) : Bool := s.basins.any fun e => decide (e.2.launch = n) && e.2.preempt

/-- One service of a launch: its next basin, or all of them when it is co-scheduled (R49, R50). -/
def State.placeTry (s : State) (n : Nat) : Option State :=
  match s.launches.get? n with
  | none => none
  | some L =>
    if L.unplaced = false ∨ s.heldBack n L = true then none
    else if L.cosched then
      if s.leaving n then none else s.placeAll n (L.saved.length + (L.count - L.next))
    else s.placeNext n

/-- A launch is served before another: a higher class, or the one that was served longest ago (R49). -/
def Launch.servedBefore (M L : Launch) : Bool := decide (L.cls < M.cls ∨ (M.cls = L.cls ∧ M.served < L.served))

/-! ### Pre-emption (R51, R391, R395) -/

/-- Save-pool areas already held by a context. -/
def State.areasOf (s : State) (c : Nat) : List (Nat × Nat) :=
  (s.wh.areas.filter fun a => decide (a.1 = c)).map (·.2)

/-- An area is free in the pool. -/
def areaFree (held : List (Nat × Nat)) (lo hi a n : Nat) : Bool :=
  decide (lo ≤ a ∧ a + n ≤ hi) && held.all fun x => decide (a + n ≤ x.1 ∨ x.1 + x.2 ≤ a)

/-- The lowest free place for an area in the save pool of a context (R395). -/
def State.findArea (s : State) (c n : Nat) : Option Nat :=
  let log := s.ctxField c 0x34 4 % 64
  let lo := s.ctxField c 0x38 8
  let held := s.areasOf c
  let at_ := (lo :: held.map fun x => x.1 + x.2).filter fun a => areaFree held lo (lo + 2 ^ log) a n
  if log = 0 then none
  else match at_ with
    | [] => none
    | a :: rest => some (rest.foldl Nat.min a)

/-- Pre-empts one basin, with its save area: none where the pool cannot hold it. -/
def State.preemptOne (s : State) (b : Nat) : Option State :=
  match s.basin? b with
  | none => none
  | some B =>
    match s.findArea B.ctx B.shape.areaSize with
    | none => none
    | some a =>
      let base := BitVec.ofNat 64 a
      let s := { s with wh := { s.wh with areas := (B.ctx, a, B.shape.areaSize) :: s.wh.areas } }
      let s := s.withBasin b fun B =>
        { B with
          preempt := true, bsave := base
          jets := B.jets.mapKeys fun j J => { J with jsave := B.shape.jsave base j } }
      some ((B.jets.filter fun e => !decide (e.2.run = .exited)).foldl (fun s e =>
        s.addCause b e.1 { cause := .preempt, lanes := e.2.live }) s)

/-- Pre-empts basins: none where a pool cannot hold one of their areas. -/
def State.preemptAll (s : State) : List Nat → Option State
  | [] => some s
  | b :: rest => (s.preemptOne b).bind fun s => s.preemptAll rest

/-- Basins that may be victims of a class, in the order of R51: the lowest class, then the most recently placed first. -/
def State.candidates (s : State) (cls : Nat) : List (Nat × Basin) :=
  (List.range cls).flatMap fun k =>
    (s.basins.filter fun e =>
      decide (e.2.cls = k ∧ e.2.bsave = 0) && !e.2.preempt && decide (0 < e.2.liveJets)).reverse

/-- What is pre-empted as one: a basin, or every resident basin of a co-scheduled launch (R51), which is none while one of them
still holds the area of an earlier pre-emption (R395). -/
def State.victimUnits (s : State) : List (Nat × Basin) → List (List Nat)
  | [] => []
  | e :: rest =>
    let rest' := s.victimUnits rest
    match s.launches.get? e.2.launch with
    | some L =>
      if L.cosched then
        let all := s.basins.filter fun x => decide (x.2.launch = e.2.launch ∧ 0 < x.2.liveJets)
        let others := rest'.filter fun u => !u.contains e.1
        if all.all fun x => decide (x.2.bsave = 0) && !x.2.preempt then all.map (·.1) :: others else others
      else [e.1] :: rest'
    | none => [e.1] :: rest'

/-- The module as it stands once some basins, and those already being pre-empted, have left. -/
def State.without (s : State) (bs : List Nat) : State :=
  { s with basins := s.basins.filter fun e => !(bs.contains e.1) && !e.2.preempt }

/-- The first set of units with `k` basins in all that frees the resources and whose areas fit (R51). -/
def pickVictims (ok : List Nat → Bool) : List (List Nat) → Nat → List Nat → Option (List Nat)
  | _, 0, acc => if ok acc then some acc else none
  | [], _ + 1, _ => none
  | u :: rest, k + 1, acc =>
    let here := if 0 < u.length ∧ u.length ≤ k + 1 then pickVictims ok rest (k + 1 - u.length) (acc ++ u) else none
    match here with
    | some x => some x
    | none => pickVictims ok rest (k + 1) acc

/-- The victims for a launch: as few basins as will free the resources (R51). -/
def State.victims (s : State) (n : Nat) (L : Launch) : Option (List Nat) :=
  let units := s.victimUnits (s.candidates L.cls)
  let ok := fun bs => ((s.without bs).placeTry n).isSome && (s.preemptAll bs).isSome
  (List.range (units.foldl (fun k u => k + u.length) 0 + 1)).findSome? fun k => pickVictims ok units k []

/-- Pre-emption on behalf of a launch whose next basin cannot be placed (R51). -/
def State.preemptFor (s : State) (n : Nat) (L : Launch) : State :=
  match s.victims n L with
  | none => s
  | some bs => (s.preemptAll bs).getD s

/-- BASIN_PLACE (R47 to R53, R394): the next basin of a launch is placed or restored, or pre-empts others. -/
def execBasinPlace (n : Nat) (s : State) : Host.Outcome State Fault Refusal :=
  .next
    (match s.launches.get? n with
    | none => s
    | some L =>
      if s.serving = false ∨ L.unplaced = false ∨ (L.stage = .dispatch ∧ s.statusHeld L.packet = true) then s
      else if s.launches.any fun e => decide (e.1 ≠ n) && e.2.servedBefore L && (s.placeTry e.1).isSome then s
      else
        match s.placeTry n with
        | some s' => s'
        | none => if s.heldBack n L then s else s.preemptFor n L)

/-- How much of its free resources a core has for a basin: the scarcest, in 65,536ths of the need (log 28). -/
def freeShare (need free : Needs) : Nat :=
  let part := fun (n f : Nat) => if n = 0 then 65536 * 1024 else 65536 * f / n
  Nat.min (part need.basins free.basins) (Nat.min (part need.jets free.jets) (Nat.min (part need.regs free.regs)
    (Nat.min (part need.scr free.scr) (Nat.min (part need.tile free.tile) (part need.acc free.acc)))))

/-- The free resources of a die for a basin. -/
def State.dieShare (s : State) (h : Shape) (d : Nat) : Nat :=
  ((s.coresOf d).filter s.coreOn).foldl (fun n c => n + freeShare h.needs (s.freeOn c)) 0

/-- PLACEMENT_WAIT_TIMEOUT (R49): a basin that has waited 100 µs keeps the die with the most free resources for it; of several that
have equally many, the lowest-numbered: the spec does not say which (DESIGN CHOICE, log 28). -/
def execPlacementWaitTimeout (n : Nat) (s : State) : Host.Outcome State Fault Refusal :=
  .next
    (match s.launches.get? n with
    | none => s
    | some L =>
      if s.serving = false ∨ L.unplaced = false ∨ (L.reserved.get? L.nextIndex).isSome = true
          ∨ s.time < L.waitedSince + microseconds 100 then s
      else
        let d := (List.range 8).foldl (fun best d =>
          if s.dieShare L.shape best < s.dieShare L.shape d then d else best) 0
        { s with launches := s.launches.modify n fun L => { L with reserved := L.reserved.put L.nextIndex d } })

/-! ### The end of a basin (R44, R209, R318, R357) -/

/-- A basin's exit, or that of one already gone whose last writes are acknowledged, can be recorded. -/
def State.exitDue (s : State) (b : Nat) (B : Basin) : Bool :=
  if B.gone then B.jets.all fun e => e.2.over
  else decide (B.liveJets = 0) && B.matQ.isEmpty && !(s.copies.any fun c => c.namesBasin b)

/-- BASIN_EXIT (R44, R209, R318, R357): the last jet has exited and the matrix operations are over; what they held is free, and so
are the basin's rays. What is left of it are writes still to be acknowledged. -/
def execBasinExit (b : Nat) (s : State) : Host.Outcome State Fault Refusal :=
  .next
    (match s.basin? b with
    | none => s
    | some B =>
      if s.exitDue b B = false then s
      else if B.gone then { s with basins := s.basins.del b }
      else
        (State.freeArea
          { s with rays := s.rays.filter fun r => !decide (r.ctx = B.ctx ∧ r.launch = B.launch ∧ r.basin = B.index) }
          B.ctx B.bsave).leaveCore b)

/-! ### GROW (R63 to R65) -/

/-- `GROW` (R63, R64): one request for the issue. -/
def execGrow (d a : Reg) (la : BitVec 4) (s : State) : Host.Outcome State Fault Refusal :=
  .next (s.issue { ureads := [a.toNat] } fun _ J =>
    let o := s.newOp J (lowLane s.cur.exec) la.toNat ((block d 2).map .ureg) (.grow (J.sreg a.toNat)) 0
    s.retire.enterOps s.cur.basin s.cur.jet
      [{ o with lane := 32, lanes := s.cur.exec, irr := false, scope := .pkg, release := true }])

/-- GROW_PERFORM (R64, R65): pending operation `k` of a jet, once the jet's earlier stores are acknowledged. -/
def execGrowPerform (b j k : Nat) (s : State) : Host.Outcome State Fault Refusal :=
  .next
    (match s.basin? b, s.jet? b j with
    | some B, some J =>
      match J.longs[k]? with
      | none => s
      | some o =>
        match o.kind with
        | .grow inc =>
          if o.val.isSome = true ∨ J.released .pkg o.tag o.lanes = false then s
          else
            let old := ((s.launches.get? B.launch).map (·.count)).getD 0
            let ceiling := ((s.launches.get? B.launch).map (·.ceiling)).getD 0
            let grant := Nat.min inc.toNat (ceiling - old)
            let s := if grant = 0 then s
              else { s with launches := s.launches.modify B.launch fun L =>
                { L with count := old + grant, waitingSince := if L.unplaced then L.waitingSince else s.time } }
            s.withJet b j fun J => J.setVal k [BitVec.ofNat 32 old, BitVec.ofNat 32 grant]
        | .load _ | .ldnr _ _ | .reservoir | .ready _ | .atom _ _ | .cas _ _ | .ctradd _ | .texf _ _ _ _
        | .hgrid _ _ _ _ _ => s
    | _, _ => s)

end Sys2Proof.Machine
end

