-- ==== Sys2Proof/Machine/Packets.lean ====
section
/-! DEFINITION. The wellhead controller's work on queues: tails, packets, counter waits, staging and the completion of
launches (R35 to R46, R50, R212, R213, R356, R409). -/

namespace Sys2Proof.Machine

/-! ### Queue descriptors (Table 27.5) -/

def State.queueBase (s : State) (c q : Nat) : Nat := s.ctlNat (queueOffset c q) 8
def State.tailAddr (s : State) (c q : Nat) : Nat := s.ctlNat (queueOffset c q + 8) 8
def State.headAddr (s : State) (c q : Nat) : Nat := s.ctlNat (queueOffset c q + 16) 8
def State.queueLog (s : State) (c q : Nat) : Nat := s.ctlNat (queueOffset c q + 0x18) 4 % 32
def State.queueClass (s : State) (c q : Nat) : Nat := s.ctlNat (queueOffset c q + 0x18) 4 / 64 % 4

/-- A queue that the controller serves (R406, R409, R412). -/
def State.queueOn (s : State) (c q : Nat) : Bool := s.serving && s.resident c && s.queueEnabled c q

/-- The queues that are enabled: context and queue. -/
def State.enabledQueues (s : State) : List (Nat × Nat) :=
  s.ctl.filterMap fun e =>
    if 0x20000 ≤ e.1 ∧ e.1 < 0xA0000 ∧ e.1 % 32 = 0x19 ∧ e.2.getLsbD 0 = true then
      some (e.1 / 0x2000 - 16, e.1 % 0x2000 / 32)
    else none

/-- Clears ENABLE of a queue (R409). -/
def State.disableQueue (s : State) (c q : Nat) : State :=
  let off := queueOffset c q + 0x19
  s.setCtl8 off (s.ctl8 off &&& 0xFE)

/-- TAIL_POLL (R409). -/
def execTailPoll (c q : Nat) (s : State) : Host.Outcome State Fault Refusal :=
  if s.queueOn c q = false then .next s
  else if s.badPlace (s.tailAddr c q) then .fault (.unpopulated (s.tailAddr c q))
  else .next
    (if s.reachable (s.tailAddr c q) = false ∨ s.lineHeld (s.tailAddr c q) = true then s
    else
      let k := s.queue c q
      let tail := s.homeNat (s.tailAddr c q) 8
      if tail < k.tail ∨ k.head + 2 ^ s.queueLog c q < tail then (s.disableQueue c q).logError 0x7D0 9 (s.tailAddr c q) c
      else s.setQueue c q { k with tail := tail })

/-! ### Packets (Tables 3.1, 11.8) -/

/-- The address of the packet at the head of a queue (R409). -/
def State.headPacket (s : State) (c q : Nat) : Nat :=
  s.queueBase c q + 128 * ((s.queue c q).head % 2 ^ s.queueLog c q)

/-- A packet leaves the head of its queue (R41, R409). -/
def State.leaveHead (s : State) (c q : Nat) : State :=
  let k := s.queue c q
  (s.setQueue c q { k with head := k.head + 1, launch := none, packet := none, waitPa := none }).controllerPut c
    (s.headAddr c q) (k.head + 1) 8

/-- A packet is refused when it is read, or ends at the head, with a status (R35, R38, R45). -/
def State.refusePacket (s : State) (c q pa st : Nat) : State := (s.putStatus c pa st).leaveHead c q

/-- The next launch number after one (R46). -/
def nextSeq (n : Nat) : Nat := if n = 0xFFFFFFFF then 1 else n + 1

/-- A packet of a context is accepted: it takes a number, written with its status (R46). -/
def State.acceptPacket (s : State) (c pa : Nat) : State :=
  let n := s.wh.seq
  ({ s with wh := { s.wh with seq := nextSeq n } }.putStatus c pa 1).controllerPut c (pa + 0x7C) n 4

/-- A packet is there to be read: the queue is served, nothing holds it back, and the tail lies beyond the head (R41, R409). -/
def State.packetWaits (s : State) (c q : Nat) : Bool :=
  let k := s.queue c q
  s.queueOn c q && k.launch.isNone && k.packet.isNone && decide (k.head < k.tail)

/-- A line that the controller reads or writes for the packet at the head of a queue is held by the irrevocable lane (R268). -/
def State.queueHeld (s : State) (c q : Nat) : Bool := s.lineHeld (s.headPacket c q) || s.lineHeld (s.headAddr c q)

/-- The reading of the packet at the head of a queue, given its bytes; addresses without memory stop the controller. -/
def State.withPacket (s : State) (c q : Nat) (f : Nat → Nat → State) : Host.Outcome State Fault Refusal :=
  if s.packetWaits c q = false then .next s
  else if s.badPlace (s.headPacket c q) then .fault (.unpopulated (s.headPacket c q))
  else if s.badPlace (s.headAddr c q) then .fault (.unpopulated (s.headAddr c q))
  else if s.reachable (s.headPacket c q) = false ∨ s.queueHeld c q = true then .next s
  else .next (f (s.headPacket c q) (s.homeNat (s.headPacket c q) 128))

/-! ### Launch packets -/

/-- FLAGS of a packet (Table 3.2). -/
def flagBit (p k : Nat) : Bool := (fieldAt p 2 2).testBit k

/-- The shape that a launch packet asks for. -/
def packetShape (p : Nat) : Shape :=
  { w1 := fieldAt p 4 1, jets := fieldAt p 9 1, vgran := fieldAt p 0xA 1, rsvn := fieldAt p 0xB 1
    accn := fieldAt p 0xC 1, scr := fieldAt p 0x18 4, tile := fieldAt p 0x1C 4 }

/-- w2 to w5. -/
def packetWidths (p : Nat) : List Nat := (List.range 4).map fun i => fieldAt p (5 + i) 1

/-- Some channel of the module is retired or narrowed (R30). -/
def State.reduced (s : State) : Bool :=
  (List.range 16).any fun st => decide (s.ctlNat (0x90 + 4 * st) 4 ≠ 0xFFFFFFFF ∨ s.ctlNat (0xD0 + 8 * st) 4 ≠ 0)

/-- The checks of R38 on ranges that concern the shape of a basin. -/
def shapeOk (h : Shape) : Bool :=
  decide (h.w1 ≤ 5 ∧ 1 ≤ h.jets ∧ h.jets ≤ 32 ∧ h.jets ≤ 2 ^ h.w1) && decide (1 ≤ h.vgran ∧ h.vgran ≤ 16)
    && decide (h.rsvn = 0 ∨ h.rsvn = 2 ∨ h.rsvn = 4 ∨ h.rsvn = 8) && decide (h.accn ≤ 32)
    && decide (h.scr % 256 = 0 ∧ h.scr ≤ 0x80000) && decide (h.tile % 1024 = 0 ∧ h.tile ≤ 0x100000)
    && decide (4 * h.rsvn ≤ 32 * h.vgran - 32)

/-- The checks of R38. -/
def State.launchOk (s : State) (p : Nat) : Bool :=
  let h := packetShape p
  let ws := packetWidths p
  let sum := ws.foldl (· + ·) 0
  decide (fieldAt p 1 1 = 1 ∧ fieldAt p 2 2 < 128 ∧ fieldAt p 0xF 1 = 0 ∧ fieldAt p 0x74 4 = 0) && shapeOk h
    && (ws.all fun w => decide (w ≤ 59)) && decide (5 + h.w1 + sum ≤ 64) && decide (fieldAt p 0xE 1 ≤ 15)
    && decide (fieldAt p 0x10 8 % 4 = 0) && decide (1 ≤ fieldAt p 0x20 4 ∧ fieldAt p 0x20 4 ≤ fieldAt p 0x24 4)
    && decide (fieldAt p 0x24 4 - 1 < 2 ^ sum) && !(flagBit p 6 && decide (4096 < fieldAt p 0x70 4))
    && !(flagBit p 0 && decide (fieldAt p 0x24 4 ≠ fieldAt p 0x20 4)) && !(flagBit p 1 && s.reduced)

/-- A co-scheduled launch that would not fit in an empty package (R50). -/
def State.tooLarge (s : State) (p : Nat) : Bool :=
  flagBit p 0 && decide (s.coresOn.length * (packetShape p).perCore < fieldAt p 0x20 4)

/-- A counter address whose flag is set is misaligned (R45). -/
def counterMisaligned (p : Nat) : Bool :=
  (flagBit p 2 && decide (fieldAt p 0x48 8 % 8 ≠ 0)) || (flagBit p 3 && decide (fieldAt p 0x58 8 % 8 ≠ 0))

def dfield (p off : Nat) : Dword := BitVec.ofNat 64 (fieldAt p off 8)

/-- The launch that a packet describes (Table 3.1). -/
def State.newLaunch (s : State) (c q pa p : Nat) : Launch :=
  { ctx := c, queue := q, cls := s.queueClass c q, packet := pa
    stage := if flagBit p 2 then .counter else if flagBit p 6 then .staging else .dispatch
    shape := packetShape p, widths := packetWidths p, entry := dfield p 0x10, args := dfield p 0x28
    const := (List.range 6).map fun i => fieldWord p (0x30 + 4 * i)
    count := fieldAt p 0x20 4, ceiling := fieldAt p 0x24 4, initial := fieldAt p 0x20 4, next := 0, saved := []
    dieMask := if flagBit p 4 then some (fieldAt p 0xD 1) else none
    stackHint := if flagBit p 5 then some (fieldAt p 0xE 1) else none
    cosched := flagBit p 0
    signal := if flagBit p 3 then some (dfield p 0x58, dfield p 0x60) else none
    wait := if flagBit p 2 then some (dfield p 0x48, dfield p 0x50) else none
    stagingList := if flagBit p 6 then some (dfield p 0x68, fieldAt p 0x70 4) else none
    pinned := [], passed := [], lastDie := 7, waitingSince := s.time, reserved := [], served := s.wh.serve }

/-! ### Whose turn it is (R62) -/

/-- Descriptor words of a packet (Table 11.8). -/
def packetDesc (p : Nat) : List Word := (List.range 8).map fun i => fieldWord p (0x10 + 4 * i)

/-- VER and FLAGS of a copy or update packet (Table 11.8). -/
def workHeaderOk (p : Nat) : Bool := decide (fieldAt p 1 1 = 1 ∧ (fieldAt p 2 2 = 0 ∨ fieldAt p 2 2 = 4))

/-- A packet passes the checks that are made when it is read, and there is room for it: among the accepted launches, or in the
structure update engine (R38, R45, R46, R50, R212, R356). -/
def State.acceptable (s : State) (p : Nat) : Bool :=
  let ws := packetDesc p
  match fieldAt p 0 1 with
  | 1 => decide (s.launches.length < 1024) && s.launchOk p && !s.tooLarge p && !counterMisaligned p
  | 2 => workHeaderOk p && copyDescOk ws none && (copyRange (copyDesc ws)).isNone
  | 3 =>
    workHeaderOk p && decide (sueKind ws = 1 ∨ sueKind ws = 2 ∨ sueKind ws = 3) && decide (descWord ws 0 / 256 % 256 = 1)
      && decide (s.updates.length < 1024)
  | _ => false

/-- The packet at the head of a queue is one that is handed over as soon as it has been read: it waits on no counter and, where
it is a launch, stages nothing. -/
def handedAtOnce (p : Nat) : Bool := !flagBit p 2 && !(decide (fieldAt p 0 1 = 1) && flagBit p 6)

/-- A counter that a packet waits on has its value; a poisoned one ends the wait (R45). -/
def State.counterReached (s : State) (pa : Option Nat) (target : Dword) : Bool :=
  match pa with
  | none => false
  | some pa => !s.lineHeld pa && !s.poisoned pa && decide (target.toNat ≤ s.homeNat pa 8)

/-- The engine has room for the packet's work (R13, R349). -/
def State.workFits (s : State) (h : HeadPacket) : Bool := !h.update || decide (s.updates.length < 1024)

/-- The head packet of a queue is ready to be handed over (R62): it is one that will be accepted, nothing keeps it unread or
waiting, and no held line keeps the controller from its packet or its HEAD (R268). -/
def State.headReady (s : State) (c q : Nat) : Bool :=
  let k := s.queue c q
  !s.queueHeld c q && match k.launch, k.packet with
  | some n, _ =>
    (match s.launches.get? n with
    | none => false
    | some L =>
      !L.ended && match L.stage with
      | .counter => L.stagingList.isNone && (match L.wait with | some w => s.counterReached k.waitPa w.2 | none => false)
      | .staging => (match L.stagingList with | some x => decide (x.2 ≤ L.staged) | none => false)
      | .dispatch | .running => false)
  | none, some h => s.counterReached k.waitPa h.wait.2 && s.workFits h
  | none, none =>
    let p := s.homeNat (s.headPacket c q) 128
    s.packetWaits c q && s.reachable (s.headPacket c q) && handedAtOnce p && s.acceptable p

/-- Queues between the one that was served last in a class and another, in the round of all (R62). The spec does not give the order
of the round: the model takes ascending contexts, and in each its queues in ascending order, from queue 0 of context 0 (DESIGN
CHOICE, log 69). -/
def State.turnOf (s : State) (cls c q : Nat) : Nat := (256 * c + q + 16383 - Cells.get 16383 s.wh.turn cls) % 16384

/-- A higher class has a basin that could be placed now (R62). -/
def State.higherPlaceable (s : State) (cls : Nat) : Bool :=
  s.launches.any fun e => decide (cls < e.2.cls) && (s.placeTry e.1).isSome

/-- The queues whose head packet has been accepted and has still to be handed over, were the queue disabled since. -/
def State.headedQueues (s : State) : List (Nat × Nat) :=
  (s.wh.queues.filter fun e => e.2.launch.isSome || e.2.packet.isSome).map fun e => (e.1 / 256, e.1 % 256)

/-- The head packet of a queue may be handed over now: of the ready ones of its class it is next in the round, and no higher class
has a basin to place (Table 3.7). -/
def State.hasTurn (s : State) (c q : Nat) : Bool :=
  let cls := s.queueClass c q
  !s.higherPlaceable cls && (s.enabledQueues ++ s.headedQueues).all fun e =>
    decide (s.queueClass e.1 e.2 ≠ cls) || decide (s.turnOf cls c q ≤ s.turnOf cls e.1 e.2) || !s.headReady e.1 e.2

/-- A packet is handed over: it leaves the head of its queue, whose turn is over (R41, R62). -/
def State.handOver (s : State) (c q : Nat) : State :=
  ({ s with wh := { s.wh with turn := s.wh.turn.put (s.queueClass c q) (256 * c + q) } }).leaveHead c q

/-- A launch goes on to a stage; one that is handed to dispatch leaves the head of its queue (R41). -/
def State.toStage (s : State) (n : Nat) (L : Launch) (st : LaunchStage) : State :=
  let s := { s with launches := s.launches.modify n fun L => { L with stage := st, waitingSince := s.time } }
  if st = .dispatch then s.handOver L.ctx L.queue else s

/-- A launch is accepted (R46). -/
def State.acceptLaunch (s : State) (c q pa p : Nat) : State :=
  let n := s.wh.seq
  let L := s.newLaunch c q pa p
  let s := s.acceptPacket c pa
  let s := { s with launches := s.launches.put n L, wh := { s.wh with serve := s.wh.serve + 1 } }
  let s := s.setQueue c q { s.queue c q with launch := some n }
  if L.stage = .dispatch then s.handOver c q else s

/-- LAUNCH_PACKET (R35 to R38, R45, R46, R50, R62): reads a launch packet, or one of an invalid type, at the head of a queue. -/
def execLaunchPacket (c q : Nat) (s : State) : Host.Outcome State Fault Refusal :=
  s.withPacket c q fun pa p =>
    let type := fieldAt p 0 1
    if type = 2 ∨ type = 3 then s
    else if type ≠ 1 then s.refusePacket c q pa 0x10
    else if 1024 ≤ s.launches.length then s
    else if s.launchOk p = false then s.refusePacket c q pa 0x11
    else if s.tooLarge p then s.refusePacket c q pa 0x12
    else if counterMisaligned p then s.refusePacket c q pa 0x14
    else if handedAtOnce p && !s.hasTurn c q then s
    else s.acceptLaunch c q pa p

/-! ### Copy and structure update packets (R212, R356) -/

/-- The work of a packet is queued: RUNNING (R212, R356). -/
def State.queueWork (s : State) (c : Nat) (h : HeadPacket) : State :=
  let s := s.putStatus c h.packet 2
  if h.update then
    { s with updates := s.updates ++ [{ ctx := c, sys := false, source := .inr h.desc, owner := none,
                                        packet := some h.packet }] }
  else s.queueCopy none c false none h.desc false (some h.packet) []

/-- A copy or update packet that has passed its checks (R212, R356). -/
def State.acceptWork (s : State) (c q pa p : Nat) (update : Bool) : State :=
  let h : HeadPacket := { packet := pa, update := update, wait := (dfield p 0x48, dfield p 0x50), desc := packetDesc p }
  if flagBit p 2 then
    if fieldAt p 0x48 8 % 8 ≠ 0 then s.refusePacket c q pa 0x14
    else
      let s := s.acceptPacket c pa
      s.setQueue c q { s.queue c q with packet := some h }
  else if s.workFits h && s.hasTurn c q then ((s.acceptPacket c pa).queueWork c h).handOver c q
  else s

/-- COPY_PACKET (R212). -/
def execCopyPacket (c q : Nat) (s : State) : Host.Outcome State Fault Refusal :=
  s.withPacket c q fun pa p =>
    if fieldAt p 0 1 ≠ 2 then s
    else if workHeaderOk p = false ∨ copyDescOk (packetDesc p) none = false
        ∨ (copyRange (copyDesc (packetDesc p))).isSome = true then s.refusePacket c q pa 0x10
    else s.acceptWork c q pa p false

/-- STRUCTURE_UPDATE_PACKET (R356): KIND and VER of the descriptor are checked here, the rest by the engine. -/
def execStructureUpdatePacket (c q : Nat) (s : State) : Host.Outcome State Fault Refusal :=
  s.withPacket c q fun pa p =>
    let ws := packetDesc p
    if fieldAt p 0 1 ≠ 3 then s
    else if workHeaderOk p = false ∨ ¬(sueKind ws = 1 ∨ sueKind ws = 2 ∨ sueKind ws = 3)
        ∨ descWord ws 0 / 256 % 256 ≠ 1 then s.refusePacket c q pa 0x10
    else s.acceptWork c q pa p true

/-! ### Counter waits (R42, R45) -/

/-- A launch takes its final status and leaves the table (R39, R46). -/
def State.endLaunch (s : State) (n st : Nat) : State :=
  match s.launches.get? n with
  | none => s
  | some L =>
    let s := s.putStatus L.ctx L.packet st
    { s with launches := s.launches.del n, faults := s.faults.filter fun f => !decide (f.owner = .launch n) }

/-- The packet that waits at the head of a queue ends with a status, and the controller goes on (R45). -/
def State.endWait (s : State) (c q st : Nat) : State :=
  let k := s.queue c q
  match k.launch, k.packet with
  | some n, _ => (s.endLaunch n st).leaveHead c q
  | none, some h => s.refusePacket c q h.packet st
  | none, none => s

/-- The wait of the packet at the head: the address and the value. -/
def State.headWait (s : State) (c q : Nat) : Option (Dword × Dword) :=
  let k := s.queue c q
  match k.launch, k.packet with
  | some n, _ =>
    match s.launches.get? n with
    | some L => if L.stage = .counter ∧ L.ended = false then L.wait else none
    | none => none
  | none, some h => some h.wait
  | none, none => none

/-- The packet at the head passes its wait (R41, R43, R212, R356). -/
def State.passWait (s : State) (c q : Nat) : State :=
  let k := s.queue c q
  match k.launch, k.packet with
  | some n, _ =>
    match s.launches.get? n with
    | some L =>
      if L.stagingList.isSome then s.toStage n L .staging
      else if s.hasTurn c q then s.toStage n L .dispatch
      else s
    | none => s
  | none, some h => if s.workFits h && s.hasTurn c q then (s.queueWork c h).handOver c q else s
  | none, none => s

/-- Reads the counter that the head packet waits on, at its place. -/
def State.checkWait (s : State) (c q pa : Nat) (target : Dword) : State :=
  if s.lineHeld pa then s
  else
    let r := s.homeCheck pa 8 c
    if r.2 then r.1.endWait c q 0x13
    else if target.toNat ≤ r.1.homeNat pa 8 then r.1.passWait c q
    else r.1

/-- COUNTER_WAIT_SATISFIED (R42, R45): the wait begins with the translation of its address. -/
def execCounterWaitSatisfied (c q : Nat) (s : State) : Host.Outcome State Fault Refusal :=
  .next
    (match s.headWait c q with
    | none => s
    | some (va, target) =>
      if s.serving = false ∨ s.queueHeld c q = true ∨ (s.faults.any fun f => decide (f.owner = .queue c q)) = true then s
      else
        match (s.queue c q).waitPa with
        | some pa => s.checkWait c q pa target
        | none =>
          if 2 ^ 48 ≤ va.toNat then s.endWait c q 0x14
          else
            match s.translate ioPlace c false va.toNat .read with
            | (s, .held) => s
            | (s, .fault k z) => if offered k then s.raiseFault (.queue c q) c va k z else s.endWait c q 0x14
            | (s, .ok pa) => (s.setQueue c q { s.queue c q with waitPa := some pa }).checkWait c q pa target)

/-! ### Staging (R43, R213) -/

/-- Adds a page to those that a launch keeps resident. -/
def State.pinPage (s : State) (n vpn : Nat) : State :=
  { s with launches := s.launches.modify n fun L => { L with pinned := insertKey L.pinned vpn } }

/-- A page is passed over. -/
def State.passPage (s : State) (n vpn : Nat) : State :=
  { s with launches := s.launches.modify n fun L => { L with passed := insertKey L.passed vpn } }

/-- Staging has passed a page over. -/
def State.pagePassed (s : State) (n vpn : Nat) : Bool := ((s.launches.get? n).map fun L => L.passed.contains vpn).getD true

/-- Makes one page resident, as R195 would; false where it has to wait for the host. -/
def State.stagePage (s : State) (n c vpn : Nat) (pin : Bool) : State × Bool :=
  if 2 ^ 36 ≤ vpn ∨ s.pagePassed n vpn = true then (s, true)
  else
    match s.findLeaf (4096 * vpn) 3 (s.root c) with
    | .held => (s, false)
    | .leaf _ _ _ => (if pin then s.pinPage n vpn else s, true)
    | .fault kind z =>
      if s.policy c = 0 ∧ kind = 1 ∧ z = true then
        match s.installPage c (4096 * vpn) with
        | some s' => (if pin then s'.pinPage n vpn else s', true)
        | none => (s.passPage n vpn, true)
      else if s.policy c = 1 then (s.raiseFault (.launch n) c (BitVec.ofNat 64 (4096 * vpn)) kind z, false)
      else (s.passPage n vpn, true)

/-- The reads of the list are made in the queue's context, as user-mode accesses (R421). -/
def listReader (c : Nat) : Update := { ctx := c, sys := false, source := .inr [], owner := none, packet := none }

/-- An entry of the staging list: its first page, the number of pages, and PIN; none for one that is passed over (R213). -/
def stagingEntry (e : Nat) : Option (Nat × Nat × Bool) :=
  let addr := fieldAt e 0 8
  let flags := fieldAt e 12 4
  if 1 < flags ∨ addr % 4096 ≠ 0 ∨ 2 ^ 48 ≤ addr ∨ fieldAt e 8 4 = 0 then none
  else some (addr / 4096, fieldAt e 8 4, decide (flags = 1))

/-- Changes what staging has reached. -/
def State.staged (s : State) (n : Nat) (entries : Nat) (hand : Option (Nat × Nat × Bool)) : State :=
  { s with launches := s.launches.modify n fun L => { L with staged := entries, stagedPages := hand } }

/-- An entry of the staging list is passed over, with a record (R213). So is, as the model's choice, an entry that is poisoned or
whose read meets a fault that is not offered: the spec says nothing of those (DESIGN CHOICE, log 67). -/
def State.passEntry (s : State) (n c k : Nat) : State := (s.logError 0x7D0 10 0 c).staged n (k + 1) none

/-- Entry `k` of a staging list is read (R213, R421). The entries on a page of the list that was itself passed over are skipped, with
no record beyond that page's (DESIGN CHOICE, log 67). -/
def State.stageEntry (s : State) (n c va k : Nat) : State :=
  let a := va + 16 * k
  if s.pagePassed n (a / 4096) || s.pagePassed n ((a + 15) / 4096) then s.staged n (k + 1) none
  else
    match s.sueBytes (listReader c) a 16 with
    | (_, .held) => s
    | (s, .poison _) => s.passEntry n c k
    | (s, .fault x kind z) => if offered kind then s.raiseFault (.launch n) c x kind z else s.passEntry n c k
    | (s, .ok bs) =>
      match stagingEntry (listNat bs) with
      | none => s.passEntry n c k
      | some e => s.staged n k (some e)

/-- STAGING (R43, R62, R213): one step of the staging of a launch: a page of the entry in hand, the reading of the next entry, or, once
the list is done, the launch is handed to dispatch. -/
def execStaging (n : Nat) (s : State) : Host.Outcome State Fault Refusal :=
  .next
    (match s.launches.get? n with
    | none => s
    | some L =>
      match L.stagingList with
      | none => s
      | some (va, cnt) =>
        if s.serving = false ∨ L.stage ≠ .staging ∨ L.ended = true ∨ s.queueHeld L.ctx L.queue = true
            ∨ (s.faults.any fun f => decide (f.owner = .launch n)) = true then s
        else
          match L.stagedPages with
          | some (vpn, left + 1, pin) =>
            (match s.stagePage n L.ctx vpn pin with
            | (s, true) => s.staged n L.staged (some (vpn + 1, left, pin))
            | (s, false) => s)
          | some (_, 0, _) => s.staged n (L.staged + 1) none
          | none =>
            if L.staged < cnt then s.stageEntry n L.ctx va.toNat L.staged
            else if s.hasTurn L.ctx L.queue then s.toStage n L .dispatch
            else s)

/-! ### Completion (R44, R45) -/

/-- Every basin of a launch has been placed and has exited (R44). -/
def State.launchOver (s : State) (n : Nat) (L : Launch) : Bool :=
  decide (L.stage = .running) && !L.ended && !L.unplaced && s.basins.all fun e => decide (e.2.launch ≠ n)

/-- LAUNCH_COMPLETE (R44, R45): the signal, then the final status. A fault of the signal's address that is offered keeps the launch
from its final status and holds back no packet of the queue: R45 has it resolved 'before the controller goes on with the queue', while
R41 lets launches that were handed over run on beside the packets that follow, and the spec does not say which of the two a completed
launch falls under (DESIGN CHOICE, log 69). -/
def execLaunchComplete (n : Nat) (s : State) : Host.Outcome State Fault Refusal :=
  .next
    (match s.launches.get? n with
    | none => s
    | some L =>
      if s.serving = false ∨ s.launchOver n L = false ∨ s.statusHeld L.packet = true
          ∨ (s.faults.any fun f => decide (f.owner = .launch n)) = true then s
      else
        match L.signal with
        | none => s.endLaunch n 3
        | some (va, inc) =>
          if 2 ^ 48 ≤ va.toNat then s.endLaunch n 0x14
          else
            match s.translate ioPlace L.ctx false va.toNat .write with
            | (s, .held) => s
            | (s, .fault k z) => if offered k then s.raiseFault (.launch n) L.ctx va k z else s.endLaunch n 0x14
            | (s, .ok pa) =>
              if s.lineHeld pa then s
              else
                match s.addCounter pa L.ctx inc with
                | (s, true) => s.endLaunch n 3
                | (s, false) => s.endLaunch n 0x13)

end Sys2Proof.Machine
end

