-- ==== Sys2Proof/Machine/Faults.lean ====
section
/-! DEFINITION. FAULT_RESOLVED and FAULT_UNRESOLVABLE: what the wellhead controller makes of a replayable fault under the
policy of its context (R194 to R197, R208, R211, R213, R287, R355, R407). -/

namespace Sys2Proof.Machine

/-! ### Replay (R194) -/

/-- The fault is no longer with the controller. -/
def State.dropFault (s : State) (f : Fault0) : State := { s with faults := s.faults.filter fun g => !decide (g = f) }

/-- Lanes that wait for a fault go on, and issue their instruction again. -/
def Jet.unfault (J : Jet) (m : Lanes) : Jet :=
  J.withLanes m fun _ t => if t.wait = .fault then { t with wait := .none } else t

/-- The fault is resolved: what waited for it is tried again. -/
def State.retryFault (s : State) (f : Fault0) : State :=
  let s := s.dropFault f
  match f.owner with
  | .access b j => s.retryAccess b j
  | .group b j lanes _ => s.withJet b j fun J => J.unfault lanes
  | .copy id => s.withCopy id fun c => { c with faulted := false }
  | .queue _ _ | .launch _ => s
  | .page core c vpn _ => s.endRequest core c vpn
  | .sue => s.withUpdate fun u => { u with faulted := false }

/-! ### The fault ring (R407) -/

/-- Faults of a context that stand in its ring and wait for an answer. -/
def State.ringUsed (s : State) (c : Nat) : Nat :=
  (s.faults.filter fun f => decide (f.ctx = c ∧ f.answer = none) && f.posted).length

/-- The address of the next slot of a fault ring. -/
def State.ringSlot (s : State) (c : Nat) : Nat :=
  s.ctxField c 0x28 8 + 32 * (Cells.get 0 s.wh.rings c % 2 ^ (s.ctxField c 0x30 4 % 16))

/-- The bytes of an entry. -/
def ringEntry (f : Fault0) : List Byte :=
  (List.range 32).map fun i =>
    Config.ringByte f.ctx f.va.toNat f.kind.toNat (pagePool f.ctx (f.va.toNat / 4096)) i

/-- Writes a fault to the ring of its context. -/
def State.postFault (s : State) (f : Fault0) : State :=
  let slot := s.ringSlot f.ctx
  let s := if s.reachable slot then (s.homePut slot (listNat (ringEntry f)) 32 f.ctx).1 else s.logError 0x7D0 8 slot f.ctx
  { s with
    faults := s.faults.map fun g => if g = f then { g with posted := true } else g
    wh := { s.wh with rings := s.wh.rings.put f.ctx (Cells.get 0 s.wh.rings f.ctx + 1) } }

/-- Under POLICY 01: the entry is posted, then the host's answer decides. -/
def State.hostFault (s : State) (f : Fault0) : Host.Outcome State Fault Refusal :=
  if f.posted then .next (if f.answer = some true then s.retryFault f else s)
  else if 2 ^ (s.ctxField f.ctx 0x30 4 % 16) ≤ s.ringUsed f.ctx then .next s
  else if s.badPlace (s.ringSlot f.ctx) then .fault (.unpopulated (s.ringSlot f.ctx))
  else if s.lineHeld (s.ringSlot f.ctx) then .next s
  else .next (s.postFault f)

/-- FAULT_RESOLVED (R195, R407). -/
def execFaultResolved (k : Nat) (s : State) : Host.Outcome State Fault Refusal :=
  match s.faults[k]? with
  | none => .next s
  | some f =>
    match s.policy f.ctx with
    | 0 =>
      if f.kind = 1 ∧ f.level0 = true then
        match s.findLeaf f.va.toNat 3 (s.root f.ctx) with
        | .held => .next s
        | .leaf _ _ _ => .next (s.retryFault f)
        | .fault k z =>
          if k = 1 ∧ z = true then
            match s.installPage f.ctx f.va.toNat with
            | some s' => .next (s'.retryFault f)
            | none => .next s
          else .next (s.retryFault f)
      else .next s
    | 1 => s.hostFault f
    | _ => .next s

/-! ### Faults declared unresolvable (R195, R196) -/

/-- A waiting operation whose page is that of a fault. -/
def LongOp.waitsFor (o : LongOp) (page : Nat) : Bool :=
  decide (o.val = none ∧ o.pa = none ∧ o.va.toNat / 4096 = page)

/-- Gives up one waiting operation (R195, R211, R287). -/
def State.giveUpOp (s : State) (b j : Nat) (c : Cause) (f : Fault0) (o : LongOp) : State :=
  if o.isCtradd then s.logError 0x11 4 0 f.ctx
  else s.giveUp b j c o.lanes o.origin o.grd o.va f.kind

/-- Gives up the accesses of a jet that wait for a page: the operations, with the other lookups of a lane, and the stores. -/
def State.giveUpAccess (s : State) (b j : Nat) (c : Cause) (f : Fault0) : State :=
  match s.jet? b j with
  | none => s
  | some J =>
    let page := f.va.toNat / 4096
    let ops := J.longs.filter fun o => o.waitsFor page
    let stores := J.storeQ.filter fun q => decide (q.pa = none ∧ q.va.toNat / 4096 = page)
    let s := s.withJet b j fun J =>
      { J with
        longs := J.longs.filter fun o => !(ops.any fun x => decide (x.tag = o.tag ∧ x.lane = o.lane))
        storeQ := J.storeQ.filter fun q => !decide (q.pa = none ∧ q.va.toNat / 4096 = page) }
    let s := ops.foldl (fun s o => s.giveUpOp b j c f o) s
    stores.foldl (fun s q => s.giveUp b j c q.lanes q.origin q.grd q.faultVa f.kind) s

/-- A copy whose fault is unresolvable: one that has ended cannot reach its counter (R208). -/
def Copy.unresolved (c : Copy) : Copy :=
  if c.allDone = true ∨ c.failed = true then { c with faulted := false, lost := true }
  else { c with faulted := false, failed := true }

/-- An update whose fault is unresolvable (R355). -/
def Update.unresolved (u : Update) : Update :=
  match u.source with
  | .inl _ => { u with faulted := false, lost := true }
  | .inr ws =>
    if u.failed = true ∨ sueDescOk ws = false ∨ sueTotal ws ≤ u.next then { u with faulted := false, lost := true }
    else { u with faulted := false, failed := true }

/-- A launch whose fault is unresolvable: a page of its staging is passed over (R213), or its signal fails (R45). -/
def State.launchUnresolved (s : State) (n : Nat) (f : Fault0) : State :=
  match s.launches.get? n with
  | none => s
  | some L => if L.stage = .running then s.endLaunch n 0x14 else s.passPage n (f.va.toNat / 4096)

/-- What becomes of those that wait for a fault that is declared unresolvable, with its cause. -/
def State.failFault (s : State) (f : Fault0) (c : Cause) : State :=
  let s := s.dropFault f
  match f.owner with
  | .access b j => s.giveUpAccess b j c f
  | .group b j lanes _ =>
    (s.withJet b j fun J => J.unfault lanes).addCause b j { cause := c, lanes := lanes, va := f.va, kind := f.kind }
  | .copy id => s.withCopy id Copy.unresolved
  | .queue cx q => s.endWait cx q 0x14
  | .launch n => s.launchUnresolved n f
  | .page core cx vpn _ => s.endRequest core cx vpn
  | .sue => s.withUpdate Update.unresolved

/-- The cause with which a fault is unresolvable now, if it is (R196, R407). -/
def State.unresolvable (s : State) (f : Fault0) : Option Cause :=
  match s.policy f.ctx with
  | 0 =>
    if f.kind = 1 ∧ f.level0 = true then
      match s.findLeaf f.va.toNat 3 (s.root f.ctx) with
      | .held | .leaf _ _ _ => none
      | .fault k z => if k = 1 ∧ z = true ∧ s.noFrame f = true then some .noframe else none
    else some .pagefault
  | 1 => if f.answer = some false then some .pagefault else none
  | _ => some .pagefault

/-- The irrevocable lane holds a line that the end of the fault's owner writes: the status of its packet, or the head of its queue
(R268). -/
def State.failHeld (s : State) (f : Fault0) : Bool :=
  match f.owner with
  | .queue c q => s.queueHeld c q
  | .launch n => (s.launches.get? n).any fun L => decide (L.stage = .running) && s.statusHeld L.packet
  | .access _ _ | .group _ _ _ _ | .copy _ | .page _ _ _ _ | .sue => false

/-- FAULT_UNRESOLVABLE (R195, R196, R268, R407). -/
def execFaultUnresolvable (k : Nat) (s : State) : Host.Outcome State Fault Refusal :=
  .next
    (match s.faults[k]? with
    | none => s
    | some f =>
      match s.unresolvable f with
      | none => s
      | some c => if s.failHeld f then s else s.failFault f c)

end Sys2Proof.Machine
end

