-- ==== Sys2Proof/Machine/Links.lean ====
section
/-! DEFINITION. The Vinil links: failure, replay and forwarding (R400 to R403). Port 15 stands for the host port. -/

namespace Sys2Proof.Machine

/-- The link over which a physical address is reached (R402). -/
def State.linkOf (s : State) (pa : Nat) : Option Nat :=
  match s.region pa with
  | .host => some 15
  | .peer n => s.wh.params.routes.get? n
  | .hbm _ | .control _ | .unpopulated => none

/-- Lanes to which a port is trained (Table 27.3). -/
def State.portLanes (s : State) (p : Nat) : Nat :=
  if p = 15 then (s.ctl8 0x11).toNat else if p < 12 then (s.ctl8 (0x150 + p)).toNat else 0

/-- A link that is up. -/
def State.linkUp (s : State) (p : Nat) : Bool := !s.wh.down.contains p && decide (s.portLanes p ≠ 0)

/-- A translated access lies over a link. -/
def State.overLink (s : State) (p : Nat) (pa : Option Nat) : Bool :=
  match pa with
  | some a => decide (s.linkOf a = some p)
  | none => false

/-- The context of a basin. -/
def State.contextOf (s : State) (b : Nat) : Nat := ((s.basin? b).map (·.ctx)).getD 0

/-- The end of one pending operation over a link that goes down (R403, log 30): the lanes that wait for a value trap POISON;
a counter addition is only logged. -/
def State.loseOp (s : State) (b j : Nat) (o : LongOp) : State :=
  let s := s.logError 0x7D0 11 (o.pa.getD 0) (s.contextOf b)
  if o.isCtradd then s else s.poisonLanes b j o.lanes o.va

/-- A counter read over a link that goes down: the `WAITGE` it belongs to, by its address, and the counter. -/
structure LostRead where
  pc : Dword
  pa : Nat
  va : Dword
  deriving DecidableEq, Repr

/-- Threads whose counter lies over the link: its read ends (R403). -/
def State.lostWaiters (s : State) (p : Nat) (J : Jet) : List (Nat × LostRead) :=
  J.threads.filterMap fun e =>
    match e.2.wait with
    | .counter pa va _ _ _ => if s.linkOf pa = some p then some (e.1, ⟨e.2.pc, pa, va⟩) else none
    | _ => none

/-- The reads of a list, each once: a `WAITGE` reads its counter once for the issue (R61, R210). -/
def lostReads (l : List (Nat × LostRead)) : List LostRead :=
  l.foldl (fun r e => if r.contains e.2 then r else r ++ [e.2]) []

/-- What a link's end does to one jet. -/
def State.loseJet (s : State) (p b j : Nat) (J : Jet) : State :=
  let gone := J.longs.filter fun o => o.unperformed && s.overLink p o.pa
  let wait := s.lostWaiters p J
  let lanes := maskOf (wait.map (·.1))
  let t := s.withJet b j fun K =>
    { K.moveOn lanes with
      longs := K.longs.filter fun o => !(o.unperformed && s.overLink p o.pa)
      storeQ := K.storeQ.map fun q => if s.overLink p q.pa then { q with pa := none } else q }
  let t := gone.foldl (fun t o => t.loseOp b j o) t
  let t := (lostReads wait).foldl (fun (t : State) r =>
    (t.logError 0x7D0 11 r.pa (t.contextOf b)).poisonLanes b j
      (maskOf ((wait.filter fun e => decide (e.2 = r)).map (·.1))) r.va) t
  if J.storeQ.any fun q => s.overLink p q.pa then t.retryAccess b j else t

/-- The writes in flight over a link are not performed (R403). -/
def State.loseWrites (s : State) (p : Nat) : State :=
  (s.writes.filter fun w => decide (w.stage = .sent) && s.overLink p (some w.pa)).foldl
    (fun s w => s.logError 0x7D0 11 w.pa (s.contextOf w.basin))
    { s with writes := s.writes.map fun (w : Write) =>
        if decide (w.stage = .sent) && s.overLink p (some w.pa) then { w with stage := .dropped } else w }

/-- A link goes down (R403): its requests end, and its pages are bad entries from now on. -/
def State.dropLink (s : State) (p : Nat) : State :=
  let lost := s.loseWrites p
  let down := { lost with
    wh := { lost.wh with
      down := insertKey lost.wh.down p, crc := lost.wh.crc.put p 0
      queues := lost.wh.queues.mapKeys fun _ q => if s.overLink p q.waitPa then { q with waitPa := none } else q } }
  let down := if p < 12 then down.setCtl8 (0x150 + p) 0 else down
  -- each jet is judged by the routes as they stood; `routes` does not change
  s.basins.foldl (fun t e => e.2.jets.foldl (fun (t : State) j => t.loseJet p e.1 j.1 j.2) t) down

/-- LINK_DOWN (R403). -/
def execLinkDown (p : Nat) (s : State) : Host.Outcome State Fault Refusal :=
  .next (if s.linkUp p then s.dropLink p else s)

/-- FLIT_CRC_FAILURE (R400): the sixteenth failure of a flit brings the link down. Whether the flit is the one that failed
last is a free choice (log 31). -/
def execFlitCrcFailure (p : Nat) (s : State) : Host.Outcome State Fault Refusal :=
  .next
    (if s.linkUp p = false then s
    else
      let n := if Config.keeps s.tick (2000000 + p) then Cells.get 0 s.wh.crc p + 1 else 1
      if 16 ≤ n then s.dropLink p
      else { s with wh := { s.wh with crc := s.wh.crc.put p n } })

/-- PEER_FORWARDING (R402): the oldest peer traffic that is not for this device goes out of the port of its route; without
one that is up it is lost, and logged (R403). -/
def execPeerForwarding (s : State) : Host.Outcome State Fault Refusal :=
  .next
    (match s.wh.forward with
    | [] => s
    | (dest, addr, data) :: rest =>
      let t := { s with wh := { s.wh with forward := rest } }
      match s.wh.params.routes.get? dest with
      | some p =>
        if s.linkUp p then { t with wh := { t.wh with sent := t.wh.sent ++ [(p, addr, data)] } }
        else t.logError 0x7D0 11 addr noContext
      | none => t.logError 0x7D0 11 addr noContext)

end Sys2Proof.Machine
end

