-- ==== Sys2Proof/Machine/Measure.lean ====
section
/-! DEFINITION. SHA-256, which R414 and R415 name, over bytes, and the measurement registers (R414). -/

namespace Sys2Proof.Machine

/-! ### SHA-256 (R414) -/

/-- The round constants: the first 32 bits of the fractional parts of the cube roots of the first 64 primes. -/
def shaConsts : List Word :=
  [0x428A2F98, 0x71374491, 0xB5C0FBCF, 0xE9B5DBA5, 0x3956C25B, 0x59F111F1, 0x923F82A4, 0xAB1C5ED5]
    ++ [0xD807AA98, 0x12835B01, 0x243185BE, 0x550C7DC3, 0x72BE5D74, 0x80DEB1FE, 0x9BDC06A7, 0xC19BF174]
    ++ [0xE49B69C1, 0xEFBE4786, 0x0FC19DC6, 0x240CA1CC, 0x2DE92C6F, 0x4A7484AA, 0x5CB0A9DC, 0x76F988DA]
    ++ [0x983E5152, 0xA831C66D, 0xB00327C8, 0xBF597FC7, 0xC6E00BF3, 0xD5A79147, 0x06CA6351, 0x14292967]
    ++ [0x27B70A85, 0x2E1B2138, 0x4D2C6DFC, 0x53380D13, 0x650A7354, 0x766A0ABB, 0x81C2C92E, 0x92722C85]
    ++ [0xA2BFE8A1, 0xA81A664B, 0xC24B8B70, 0xC76C51A3, 0xD192E819, 0xD6990624, 0xF40E3585, 0x106AA070]
    ++ [0x19A4C116, 0x1E376C08, 0x2748774C, 0x34B0BCB5, 0x391C0CB3, 0x4ED8AA4A, 0x5B9CCA4F, 0x682E6FF3]
    ++ [0x748F82EE, 0x78A5636F, 0x84C87814, 0x8CC70208, 0x90BEFFFA, 0xA4506CEB, 0xBEF9A3F7, 0xC67178F2]

/-- The initial hash value: the same of the square roots of the first eight primes. -/
def shaInit : List Word :=
  [0x6A09E667, 0xBB67AE85, 0x3C6EF372, 0xA54FF53A, 0x510E527F, 0x9B05688C, 0x1F83D9AB, 0x5BE0CD19]

/-- The message padded to whole 64-byte blocks: a one bit, zeros, and its length in bits, most significant byte first. -/
def shaPad (m : List Byte) : List Byte :=
  let n := m.length
  m ++ (0x80 :: List.replicate ((119 - n % 64) % 64) 0)
    ++ (List.range 8).map fun i => BitVec.ofNat 8 (8 * n / 256 ^ (7 - i))

/-- The sixteen words of a block, most significant byte first. -/
def blockWords : Nat → List Byte → List Word
  | 0, _ => []
  | n + 1, a :: b :: c :: d :: rest => (a ++ b ++ c ++ d) :: blockWords n rest
  | _ + 1, _ => []

def smallSigma0 (x : Word) : Word := x.rotateRight 7 ^^^ x.rotateRight 18 ^^^ (x >>> 3)
def smallSigma1 (x : Word) : Word := x.rotateRight 17 ^^^ x.rotateRight 19 ^^^ (x >>> 10)
def bigSigma0 (x : Word) : Word := x.rotateRight 2 ^^^ x.rotateRight 13 ^^^ x.rotateRight 22
def bigSigma1 (x : Word) : Word := x.rotateRight 6 ^^^ x.rotateRight 11 ^^^ x.rotateRight 25

/-- The message schedule, held newest first. -/
def shaSchedule : Nat → List Word → List Word
  | 0, w => w
  | n + 1, w =>
    shaSchedule n ((smallSigma1 (wAt w 1) + wAt w 6 + smallSigma0 (wAt w 14) + wAt w 15) :: w)

/-- One round on the eight working words, with its constant plus its schedule word. -/
def shaRound (v : List Word) (kw : Word) : List Word :=
  let a := wAt v 0
  let e := wAt v 4
  let t1 := wAt v 7 + bigSigma1 e + ((e &&& wAt v 5) ^^^ (~~~ e &&& wAt v 6)) + kw
  let t2 := bigSigma0 a + ((a &&& wAt v 1) ^^^ (a &&& wAt v 2) ^^^ (wAt v 1 &&& wAt v 2))
  [t1 + t2, a, wAt v 1, wAt v 2, wAt v 3 + t1, e, wAt v 5, wAt v 6]

/-- One block. -/
def shaBlock (h : List Word) (block : List Byte) : List Word :=
  let w := (shaSchedule 48 (blockWords 16 block).reverse).reverse
  let v := ((shaConsts.zip w).map fun e => e.1 + e.2).foldl shaRound h
  (h.zip v).map fun e => e.1 + e.2

/-- The blocks of a padded message, by their number. -/
def shaBlocks : Nat → List Word → List Byte → List Word
  | 0, h, _ => h
  | n + 1, h, m => shaBlocks n (shaBlock h (m.take 64)) (m.drop 64)

/-- SHA-256 of a message: 32 bytes. -/
def sha256 (m : List Byte) : List Byte :=
  let p := shaPad m
  (shaBlocks (p.length / 64) shaInit p).flatMap fun (w : Word) =>
    [(w >>> 24).truncate 8, (w >>> 16).truncate 8, (w >>> 8).truncate 8, w.truncate 8]

/-! ### Measurement registers (R414) -/

/-- Offset of MEASk (Table 27.2). -/
def measAt (k : Nat) : Nat := 0x100000 + 32 * k

/-- Bytes of the control space as they read. -/
def State.ctlBytes (s : State) (off n : Nat) : List Byte := (List.range n).map fun i => s.ctlByte (off + i)

/-- Extends a measurement register by the digest of an item: MEASk := SHA-256(MEASk ‖ SHA-256(item)). -/
def State.extend (s : State) (k : Nat) (digest : List Byte) : State :=
  s.setCtlBytes (measAt k) (sha256 (s.ctlBytes (measAt k) 32 ++ digest))

/-- Measures an item (R414). -/
def State.measure (s : State) (k : Nat) (item : List Byte) : State := s.extend k (sha256 item)

end Sys2Proof.Machine
end

