-- ==== Sys2Proof/Machine/Ecdsa.lean ====
section
/-! DEFINITION. ECDSA over P-256, which R415 names: the module's public key and the signature of a report. The spec does not restate
the algorithm: the curve and the formulas are those of FIPS 186 (PRESUMED, log 11). -/

namespace Sys2Proof.Machine

/-! ### The curve -/

/-- The prime of the field, and the order of the base point. -/
def curvePrime : Nat := 2 ^ 256 - 2 ^ 224 + 2 ^ 192 + 2 ^ 96 - 1
def curveOrder : Nat := 0xFFFFFFFF00000000FFFFFFFFFFFFFFFFBCE6FAADA7179E84F3B9CAC2FC632551

/-- A point of the curve; none is the point at infinity. -/
abbrev CurvePoint := Option (Nat × Nat)

def basePoint : CurvePoint :=
  some (0x6B17D1F2E12C4247F8BCE6E563A440F277037D812DEB33A0F4A13945D898C296,
    0x4FE342E2FE1A7F9B8EE7EB4A7C0F9E162BCE33576B315ECECBB6406837BF51F5)

/-- x ^ e mod m, for an exponent of at most `k` bits. -/
def powMod (m x : Nat) : Nat → Nat → Nat
  | 0, _ => 1
  | k + 1, e =>
    let h := powMod m x k (e / 2)
    if e % 2 = 1 then h * h % m * x % m else h * h % m

/-- The inverse modulo a prime of 256 bits. -/
def inverseMod (m x : Nat) : Nat := powMod m (x % m) 256 (m - 2)

/-- a − b mod m. -/
def subMod (m a b : Nat) : Nat := (a % m + m - b % m) % m

/-- The sum of two points: the chord, or the tangent of y² = x³ − 3x + b. -/
def pointAdd : CurvePoint → CurvePoint → CurvePoint
  | none, q => q
  | p, none => p
  | some (x1, y1), some (x2, y2) =>
    let m := curvePrime
    if x1 = x2 ∧ (y1 + y2) % m = 0 then none
    else
      let slope :=
        if x1 = x2 then subMod m (3 * x1 * x1) 3 * inverseMod m (2 * y1) % m
        else subMod m y2 y1 * inverseMod m (subMod m x2 x1) % m
      let x := subMod m (slope * slope) (x1 + x2)
      some (x, subMod m (slope * subMod m x1 x) y1)

/-- A multiple of a point, for a factor of at most `k` bits. -/
def pointTimes (p : CurvePoint) : Nat → Nat → CurvePoint
  | 0, _ => none
  | k + 1, e =>
    let h := pointTimes p k (e / 2)
    if e % 2 = 1 then pointAdd (pointAdd h h) p else pointAdd h h

/-! ### The module's key and its signatures (R415) -/

/-- 32 bytes of a number, the most significant first. -/
def bytesBig (n : Nat) : List Byte := (List.range 32).map fun i => BitVec.ofNat 8 (n / 256 ^ (31 - i))

/-- A number from 1 to the order less 1. -/
def curveScalar (n : Nat) : Nat := n % (curveOrder - 1) + 1

/-- The private key. -/
def privateKey : Nat := curveScalar Config.identityKey

/-- The public key: x, then y. -/
def publicKey : List Byte :=
  match pointTimes basePoint 256 privateKey with
  | none => List.replicate 64 0
  | some (x, y) => bytesBig x ++ bytesBig y

/-- r and s of a signature with a secret number. -/
def signWith (e k : Nat) : Nat × Nat :=
  match pointTimes basePoint 256 k with
  | none => (0, 0)
  | some (x, _) =>
    let r := x % curveOrder
    (r, inverseMod curveOrder k * (e + r * privateKey) % curveOrder)

/-- The first attempt, of at most `n`, that gives an r and an s other than 0. -/
def signFrom (e attempt : Nat) : Nat → Nat × Nat
  | 0 => signWith e (curveScalar (Config.signingNonce e attempt))
  | n + 1 =>
    let x := signWith e (curveScalar (Config.signingNonce e attempt))
    if x.1 = 0 ∨ x.2 = 0 then signFrom e (attempt + 1) n else x

/-- The signature over a digest: r, then s. -/
def signature (digest : List Byte) : List Byte :=
  let x := signFrom (digest.foldl (fun n b => 256 * n + b.toNat) 0) 0 64
  bytesBig x.1 ++ bytesBig x.2

end Sys2Proof.Machine
end

