-- ==== Sys2Proof/Machine/Start.lean ====
section
/-! DEFINITION. The start of the module and its boot journal (R15, R27 to R29, R398, R400, R405, R412 to R416, R419, R420). -/

namespace Sys2Proof.Machine

/-! ### The journal (R412, R413, R420) -/

/-- Writes a journal record; the ring holds 4,096. -/
def State.journalAdd (s : State) (step path outcome detail : Nat) : State :=
  let r : JournalRec := ⟨s.flash.startno, step, path, outcome, s.cycle, detail⟩
  let j := s.flash.journal ++ [r]
  { s with flash := { s.flash with journal := j.drop (j.length - 4096) } }

/-- The bytes of a record (Table 28.1). -/
def JournalRec.bytes (r : JournalRec) : List Byte :=
  natBytes r.startno 4 ++ natBytes r.step 1 ++ natBytes r.path 1 ++ natBytes r.outcome 1 ++ [0] ++ natBytes r.time 8
    ++ natBytes r.detail 16

/-- Steps that are optional, and those with an alternate path (Table 27.7). -/
def stepOptional (n : Nat) : Bool := decide (n = 3 ∨ n = 7 ∨ n = 10)
def stepAlternate (n : Nat) : Bool := decide (n = 1 ∨ n = 2 ∨ n = 4 ∨ n = 5 ∨ n = 6 ∨ n = 8 ∨ n = 9)

/-- The records of a step that the last start which came to it wrote, before the present one (R413, log 15). -/
def State.stepRecords (s : State) (n : Nat) : List JournalRec :=
  let rs := s.flash.journal.filter fun r =>
    decide (r.step = n ∧ s.flash.clearedAt < r.startno ∧ r.startno ≠ s.flash.startno)
  match rs.getLast? with
  | none => []
  | some r => rs.filter fun x => decide (x.startno = r.startno)

/-- The path that a step takes: 0 primary, 1 alternate, 2 skipped (R413). -/
def State.stepPath (s : State) (n : Nat) : Nat :=
  match (s.stepRecords n).getLast? with
  | none => 0
  | some r =>
    if r.outcome = 1 then r.path
    else if stepOptional n then 2
    else if stepAlternate n then 1
    else 0

/-- The stacks that step 6 trains at 8.0 Gb/s on its alternate path, as a mask (R413, R419). -/
def State.slowStacks (s : State) : Nat :=
  let named := ((s.stepRecords 6).filter fun r => decide (r.path = 1 ∨ r.outcome = 2)).foldl
    (fun m r => Nat.lor m (r.detail % 65536)) 0
  if s.stepPath 6 ≠ 1 then 0 else if named = 0 then 65535 else named

/-! ### Configuration and parameters -/

/-- Channels of a stack in service, and its narrowed ones (R28). -/
def ConfigRec.channelOn (r : ConfigRec) (st ch : Nat) : Bool := !r.retired.contains (32 * st + ch)
def ConfigRec.channelNarrow (r : ConfigRec) (st ch : Nat) : Bool :=
  r.channelOn st ch && r.narrowed.contains (32 * st + ch)

/-- C_s: 2 GiB for each full channel and 1 GiB for each narrowed one (R28). -/
def ConfigRec.capacity (r : ConfigRec) (st : Nat) : Nat :=
  (List.range 32).foldl (fun n ch =>
    if r.channelNarrow st ch then n + 1 else if r.channelOn st ch then n + 2 else n) 0

/-- C_min (R15). -/
def ConfigRec.least (r : ConfigRec) : Nat := (List.range 16).foldl (fun n st => Nat.min n (r.capacity st)) 64

/-- A mask of the numbers below a bound that satisfy a test. -/
def bitsOf (n : Nat) (f : Nat → Bool) : Nat := (List.range n).foldl (fun m i => if f i then m + 2 ^ i else m) 0

/-- The start parameters that a record holds, where it passes its format check (R405, log 32). -/
def paramsOf (bs : List Byte) : Option Params :=
  let n := listNat bs
  let routes := (List.range 16).map fun d => (d, fieldAt n (0x10 + d) 1)
  let cist := (List.range 16).map fun st => fieldAt n (0x20 + 4 * st) 4
  if bs.length = 96 ∧ fieldAt n 0 4 = 1 ∧ 1800 ≤ fieldAt n 8 2 ∧ fieldAt n 8 2 ≤ 3600
      ∧ (fieldAt n 0xA 1 = 4 ∨ fieldAt n 0xA 1 = 8 ∨ fieldAt n 0xA 1 = 16) ∧ fieldAt n 0xB 1 < 16
      ∧ (routes.all fun r => decide (r.2 < 12 ∨ r.2 = 255)) = true ∧ (cist.all fun x => decide (x ≤ 16777216)) = true then
    some { lreq := fieldAt n 4 4, cisterns := cist, power := fieldAt n 8 2, lanes := fieldAt n 0xA 1
           devno := fieldAt n 0xB 1, routes := routes.filter fun r => decide (r.2 ≠ 255) }
  else none

/-- L in force: the request, held between 8 GiB and C_min (R29). -/
def shareFor (req least : Nat) : Nat := Nat.min (Nat.max req 8) least

/-- The cistern of a stack in force: what fits in its stack-affine region, 128 bytes a record (R405). -/
def cisternFor (req affine : Nat) : Nat := Nat.min req (gib * affine / 128)

/-- Lanes that a port trains to, of the width that the configuration record leaves it (R27, R400). -/
def hostTrained (start cap width : Nat) : Nat :=
  Nat.min (Nat.min cap width) (16 / 2 ^ (Config.trainedLanes start 15 % 3))
def peerTrained (start p width : Nat) : Nat :=
  let n := match Config.trainedLanes start p % 3 with | 0 => 8 | 1 => 4 | _ => 0
  if n ≤ width then n else if 4 ≤ width then 4 else 0

/-! ### The work of the steps (Table 27.7) -/

/-- The slot from which step 9 loads the firmware (R413, R416): the one last journaled active; on the alternate path the one that
this path has kept, or the other one (log 53). -/
def State.bootSlot (s : State) (path : Nat) : Nat :=
  if path = 1 then s.flash.kept.getD (1 - s.flash.active) else s.flash.active

/-- The digest of the image of a slot. -/
def State.slotDigest (s : State) (slot : Nat) : List Byte :=
  match s.flash.images.get? slot with
  | some d => d
  | none => sha256 (Config.flashItem (4 + slot))

/-- Writes a field of each stack or port into the device block. -/
def State.putEach (s : State) (n off size : Nat) (f : Nat → Nat) : State :=
  (List.range n).foldl (fun s i => s.setCtl (off + size * i) (f i) size) s

/-- Step 8 in effect: the cores in service, without the suspects on the alternate path. -/
def State.startCores (s : State) (path : Nat) : State :=
  let suspect := fun c => decide (path = 1) && s.flash.suspects.contains c
  let s := s.setCtl 0x200 (bitsOf 1024 fun c => !s.flash.config.disabled.contains c && !suspect c) 128
  s.setCtl 0x280 (bitsOf 1024 suspect) 128

/-- Step 11 in effect: L, the regions and the cisterns, then the measurement of the parameter record and the device block. Where
step 11 fails, none of this is done: LREQ, LNOW, CAP and the fields after them then read zero in recovery, since the spec does
not say what they hold there (DESIGN CHOICE, log 15). -/
def State.startRegions (s : State) : State :=
  let cfg := s.flash.config
  let l := shareFor s.wh.params.lreq cfg.least
  let s := s.setCtl 0x18 s.wh.params.lreq 4
  let s := s.setCtl 0x1C l 4
  let s := s.putEach 16 0x20 1 fun st => cfg.capacity st
  let s := s.putEach 16 0x50 4 fun st => cisternFor ((s.wh.params.cisterns[st]?).getD 0) (cfg.capacity st - l)
  let s := s.putEach 16 0x90 4 fun st => bitsOf 32 fun ch => cfg.channelOn st ch
  let s := s.putEach 16 0xD0 8 fun st => bitsOf 32 fun ch => cfg.channelNarrow st ch
  let s := s.measure 3 s.wh.paramImage
  let image := s.ctlBytes 0 4096
  let s := { s with wh := { s.wh with blockImage := image } }
  s.measure 3 image

/-- The work of a step that passes; step 7 finds every granule with an uncorrectable error that nothing has read yet. -/
def State.stepWork (s : State) (n path : Nat) : State :=
  match n with
  | 1 => s.measure 0 (Config.flashItem path)
  | 2 => s.measure 1 (Config.flashItem (2 + path))
  | 4 => s.setCtl 0x11 (if path = 1 then 4 else hostTrained s.flash.startno s.wh.params.lanes (Cells.get 16 s.flash.config.widths 15)) 1
  | 6 => s.putEach 16 0x30 2 fun st => if path = 1 ∧ s.slowStacks.testBit st = true then 80 else 96
  | 7 => s.latent.foldl (fun s g => s.scrub noContext g) s
  | 8 => s.startCores path
  | 9 =>
    let slot := s.bootSlot path
    let s := (s.setCtl 0xC ((s.flash.versions[slot]?).getD 0) 4).extend 2 (s.slotDigest slot)
    { s with
      wh := { s.wh with slot := slot }, flash := { s.flash with kept := if path = 1 then some slot else none } }
  | 10 => s.putEach 12 0x150 1 fun p => peerTrained s.flash.startno p (Cells.get 8 s.flash.config.widths p)
  | 11 => s.startRegions
  | _ => s

/-- Step 11 fails where C_min is below 8 GiB (R29). -/
def State.stepPasses (s : State) (n path : Nat) : Bool :=
  Config.stepPasses s.flash.startno n path && (decide (n ≠ 11) || decide (8 ≤ s.flash.config.least))

/-- The stacks that fail in step 6: at least one, for which it fails (R412, log 15). -/
def failingStacks (start path : Nat) : Nat :=
  let m := Config.stepDetail start path % 65536
  if m = 0 then 2 ^ (Config.stepDetail start (48 + path) % 16) else m

/-- The detail of a failed step (R29, R412, R420). Of step 11 the spec gives no layout: the model has one bit for each stack whose
capacity is below 8 GiB, in bits 15:0 as for step 6 (DESIGN CHOICE, log 69). -/
def State.failDetail (s : State) (n path : Nat) : Nat :=
  if n = 11 then bitsOf 16 fun st => decide (s.flash.config.capacity st < 8)
  else if n = 6 then failingStacks s.flash.startno path
  else if n = 8 then Config.stepDetail (s.flash.startno) (16 + path) % 2 ^ 128
  else 0

/-- How a step ends: the next one, a reset of the module, recovery. -/
inductive StepEnd where
  | next | again | recovery
  deriving DecidableEq, Repr

/-- The detail of a step that begins: on the alternate path of step 6 the stacks trained at 8.0 Gb/s, on that of step 8 the
suspects of their die (R420). -/
def State.beginDetail (s : State) (n path : Nat) : Nat :=
  if path ≠ 1 then 0
  else if n = 6 then s.slowStacks
  else if n = 8 then bitsOf 128 fun i => s.flash.suspects.any fun c => decide (c % 128 = i)
  else 0

/-- 10 s of core cycles at the 1,400 MHz of a start. -/
def stepLimit : Nat := 14000000000

/-- The core cycles that a step takes: at most 10 s, unless it runs late (R412). -/
def stepTime (start n path : Nat) (late : Bool) : Nat :=
  let c := Config.stepCycles start n path
  if late then stepLimit + 1 + c else c % (stepLimit + 1)

/-- A step that has failed (R412, R419): the suspects of step 8 lie on one die. On the alternate path of step 6 a failure of
stacks that were all still at 9.6 Gb/s counts as one of the primary path. -/
def State.stepFails (s : State) (n path detail : Nat) : State × StepEnd :=
  let slow := s.slowStacks
  let s := s.journalAdd n path 2 detail
  let die := Config.stepDetail s.flash.startno 32 % 8
  let s := if n = 8 ∧ path = 0 then
      { s with flash := { s.flash with
          suspects := ((List.range 128).filter fun i => detail.testBit i).foldl (fun l i => insertKey l (128 * die + i))
            s.flash.suspects } }
    else s
  (s,
    if stepOptional n then .again
    else if path = 1 then
      if n = 6 ∧ Nat.land detail slow = 0 then .again else .recovery
    else if stepAlternate n then .again
    else .recovery)

/-- One start step, whose records bear the time of its beginning and of its end; `late` is the step that runs for more than 10 s
(R412, R420). -/
def State.runStep (s : State) (late : Option Nat) (n : Nat) : State × StepEnd :=
  let path := s.stepPath n
  let s := s.journalAdd n path 0 (s.beginDetail n path)
  if path = 2 then (s.journalAdd n 2 1 0, .next)
  else
    let s := s.pass (stepTime s.flash.startno n path (decide (late = some n)))
    if late ≠ some n ∧ s.stepPasses n path = true then ((s.stepWork n path).journalAdd n path 1 0, .next)
    else s.stepFails n path (s.failDetail n path)

/-- The steps in their order, until one does not pass. -/
def State.runSteps (s : State) (late : Option Nat) : List Nat → State × StepEnd
  | [] => (s, .next)
  | n :: rest =>
    match s.runStep late n with
    | (s, .next) => s.runSteps late rest
    | x => x

/-- A reset of the module: flash stays, and what HBM holds (log 6). -/
def State.moduleReset (s : State) : State :=
  { ({} : State) with
    tick := s.tick, agenda := s.agenda, foreign := s.foreign, mem := s.mem, poison := s.poison, latent := s.latent
    flash := s.flash }

/-- The state at the beginning of a start: the counters, the parameters and what of the device block they give (R405). -/
def State.beginStart (s : State) : State :=
  let s := s.moduleReset
  let s := { s with flash := { s.flash with startno := s.flash.startno + 1 } }
  let read := s.flash.params.bind paramsOf
  let s := { s with wh := { s.wh with params := read.getD {}, paramImage := s.flash.params.getD [] } }
  let s := if read.isNone then s.logError 0x7D0 12 0 noContext else s
  let s := s.setCtl 0 1 4
  let s := s.setCtl 4 s.flash.startno 4
  let s := s.setCtl 0x10 s.wh.params.devno 1
  let s := s.setCtl 0x12 1400 2
  s.setCtl 0x14 s.wh.params.power 2

/-- A frame lies in the region of a pool: the interleaved one, or the stack-affine one of its stack, as large as they are in
force (R31). -/
def State.inPool (s : State) (k f : Nat) : Bool := s.isHbm (4096 * f) && decide (s.poolAt (4096 * f) = k)

/-- Frames that the cistern of a pool's stack has pinned, 32 records to a frame (R345); the interleaved pool has none. -/
def State.cisternFrames (s : State) (k : Nat) : Nat := if k < 16 then (s.ctlNat (0x50 + 4 * k) 4 + 31) / 32 else 0

/-- The frames of the region of a pool. -/
def State.poolFrames (s : State) (k : Nat) : Nat :=
  gib / 4096 * (if k < 16 then s.cap k - s.share else 16 * s.share)

/-- The free frames of a pool at the end of a start: frames of its region, each once, and no more than the cistern's pinned
frames leave (R31, R345). -/
def State.freePool (s : State) (k : Nat) : List Nat :=
  (((Config.freeFrames k).filter (s.inPool k)).foldl (fun l f => if l.contains f then l else l ++ [f]) []).take
    (s.poolFrames k - s.cisternFrames k)

/-- The end of a start: ready, recovery, or a reset after which the next start begins (R412, R419). In recovery the device block
holds what the steps that passed have written; what LREQ, LNOW and CAP read there after step 11 has failed the spec does not
say, and they are zero (DESIGN CHOICE, log 15). -/
def State.endStart (s : State) (e : StepEnd) : State :=
  match e with
  | .again => s.moduleReset
  | .recovery => { s.setCtl 8 1 4 with wh := { s.wh with started := true } }
  | .next =>
    { s with
      wh := { s.wh with
        started := true
        down := ((List.range 16).filter fun p => decide (p = 15 ∨ p < 12) && decide (s.portLanes p = 0))
        frames := (List.range 17).map fun k => (k, s.freePool k) } }

/-- A whole start. -/
def State.start (s : State) (late : Option Nat) : State :=
  let r := s.beginStart.runSteps late ((List.range 11).map (· + 1))
  r.1.endStart r.2

/-- MODULE_START (R412 to R414, R419). -/
def execModuleStart (s : State) : Host.Outcome State Fault Refusal :=
  .next (if s.wh.started then s else s.start none)

/-- START_STEP_TIMEOUT (R412, R419): a start one step of which runs for more than 10 s. -/
def execStartStepTimeout (n : Nat) (s : State) : Host.Outcome State Fault Refusal :=
  .next (if s.wh.started = true ∨ n = 0 ∨ 11 < n then s else s.start (some n))

/-- POWER_CLOCK_STEP (R26): the core clock moves by 50 MHz, up to its nominal 1,400 MHz. The spec names no floor; the model takes
no step below 50 MHz (DESIGN CHOICE, log 17). -/
def execPowerClockStep (up : Bool) (s : State) : Host.Outcome State Fault Refusal :=
  .next
    (let f := s.ctlNat 0x12 2
    if s.wh.started = false then s
    else if up then (if f + 50 ≤ 1400 then s.setCtl 0x12 (f + 50) 2 else s)
    else if 100 ≤ f then s.setCtl 0x12 (f - 50) 2
    else s)

end Sys2Proof.Machine
end

