-- ==== Sys2Proof/Machine/Foreign.lean ====
section
/-! DEFINITION. What reaches the module from outside and no row of the opcode table delivers: reads, writes and atomics of the
host and the peers (R183, R184, R219, R245, R268), peer traffic for other devices (R402), and uncorrectable errors in on-die
stores (R217, R417), and a new start (R405). -/

namespace Sys2Proof.Machine

/-- A word of a basin's store is poisoned and an error record logged (R217), where the basin owns it. -/
def State.poisonStore (s : State) (b : Nat) (owns : Basin → Bool) (mark : Basin → Basin) : State :=
  match s.basin? b with
  | none => s
  | some B => if owns B then (s.withBasin b mark).logError B.core 0x11 0 B.ctx else s

/-- A flit whose sixteen replays have failed: a journal record, and a reset of the module (Table 27.9). Which step, path, outcome
and detail the record bears is not said (log 15). -/
def State.flitLost (s : State) : State :=
  State.moduleReset
    (s.journalAdd ((s.free 0).toNat % 11 + 1) ((s.free 1).toNat % 3) ((s.free 2).toNat % 3)
      (wordsNat ((List.range 4).map fun i => (i, s.free (3 + i))) 4))

/-- The error strikes: a word of scratchpad, tile store or accumulator file, or the granule of a
home slice's word, is poisoned, a parked ray ends POISONED, and a jet
with a lost register halts as R382 says. A parked ray's report names no address that the spec gives, so it is free (log 5). -/
def State.strike (s : State) (u : Upset) : State :=
  match u with
  | .scratchpad b w =>
    s.poisonStore b (fun B => decide (4 * w < B.shape.scr)) fun B => { B with scratchPoison := insertKey B.scratchPoison w }
  | .region b w =>
    s.poisonStore b (fun B => decide (4 * w < B.shape.tile)) fun B => { B with regionPoison := insertKey B.regionPoison w }
  | .accumulator b k =>
    s.poisonStore b (fun B => decide (k < 4096 * B.shape.accn)) fun B => { B with accPoison := insertKey B.accPoison k }
  | .parkedRay k =>
    (match s.rays[k]? with
    | none => s
    | some r =>
      if r.cistern = true ∨ r.state = .travelling ∨ r.state = .traversing then s
      else
        { s with rays := s.rays.set k (r.parkAt .done 8 (s.free 1 ++ s.free 0) 15) }.logError 0x7D2 1 0 r.ctx)
  | .register b j =>
    (match s.jet? b j with
    | none => s
    | some J => if J.run = .exited ∨ J.run = .saved then s else s.halt b j)
  | .granule g => if s.isHbm (32 * g) then { s with latent := insertKey s.latent g } else s
  | .homeWord pa => if s.isHbm pa then s.poisonGranule (pa / 32) else s
  | .flit => s.flitLost

/-- Where the host and the peers read and write: HBM at its home slices, and the system window at its far side (R245). -/
def State.foreignPlace (s : State) (pa : Nat) : Bool :=
  match s.region pa with
  | .hbm _ | .host => true
  | .peer n => decide (n ≠ s.wh.params.devno)
  | .control _ | .unpopulated => false

/-- An atomic of a peer, performed at its home place; a poisoned word is left (R183, R184, R218, R220). -/
def State.foreignUpdate (s : State) (pa : Nat) (k : LongKind) : State :=
  match k with
  | .ctradd inc => (s.addCounter pa noContext inc).1
  | .load _ | .ldnr _ _ | .reservoir | .ready _ | .grow _ | .texf _ _ _ _ | .hgrid _ _ _ _ _ => s
  | .atom _ _ | .cas _ _ =>
    let r := s.homeCheck pa 4
    if r.2 then r.1
    else
      match k.newWord (BitVec.ofNat 32 (r.1.homeNat pa 4)) with
      | none => r.1
      | some new => (r.1.homePut pa new.toNat 4).1

/-- One access of the host or a peer to `n` bytes of one line, in which `f` is what it does: an access to a line held by a commit
or by the irrevocable lane waits (R268); one that lies elsewhere than R245 says, or across lines, has no effect. -/
def State.foreignAccess (s : State) (pa n : Nat) (f : State → State) : State :=
  if s.foreignPlace pa = false ∨ 128 < pa % 128 + n then { s with foreign := s.foreign.drop 1 }
  else if s.lineHeld pa then s
  else f { s with foreign := s.foreign.drop 1 }

/-- What comes from outside next is performed. -/
def State.foreignAct (s : State) (f : Foreign) : State :=
  match f with
  | .read pa n => s.foreignAccess pa n fun s => (s.homeCheck pa n).1
  | .write pa data =>
    s.foreignAccess pa data.length fun s =>
      (s.homeWrite (pa / 128 * 128) (data.mapIdx fun i v => (pa % 128 + i, v))).1
  | .update pa k =>
    let n := match k with | .ctradd _ => 8 | _ => 4
    s.foreignAccess pa n fun s => if pa % n = 0 then s.foreignUpdate pa k else s
  | .traffic dest addr data =>
    { s with foreign := s.foreign.drop 1, wh := { s.wh with forward := s.wh.forward ++ [(dest, addr, data)] } }
  | .upset u => { s with foreign := s.foreign.drop 1 }.strike u
  | .restart => { s with foreign := s.foreign.drop 1 }.moduleReset

end Sys2Proof.Machine
end

