-- ==== Sys2Proof/Machine/Mailbox.lean ====
section
/-! DEFINITION. The mailboxes, their commands, and the host's writes to the control space (R26, R191, R404 to R411, R413,
R415, R416). -/

namespace Sys2Proof.Machine

/-! ### Mailboxes (R410): 0 is the host's, 1 the sideband's -/

/-- A byte of a mailbox. -/
def State.mbByte (s : State) (mb off : Nat) : Byte :=
  if mb = 0 then s.ctl8 (0x1000 + off) else Cells.get 0 s.wh.sideband off

def State.mbSet (s : State) (mb off : Nat) (v : Byte) : State :=
  if mb = 0 then s.setCtl8 (0x1000 + off) v
  else { s with wh := { s.wh with sideband := Cells.set 0 s.wh.sideband off v } }

def State.mbNat (s : State) (mb off n : Nat) : Nat := bytesNat (s.mbByte mb) off n

def State.mbPut (s : State) (mb off : Nat) : List Byte → State
  | [] => s
  | b :: rest => (s.mbSet mb off b).mbPut mb (off + 1) rest

/-- The number `n` of an argument of four or eight bytes (log 33). -/
def State.arg (s : State) (mb off n : Nat) : Nat := s.mbNat mb (8 + off) n

/-- A command is done, or ends with an error (R410). -/
def State.mbStatus (s : State) (mb v : Nat) : State := s.mbPut mb 4 (natBytes v 4)

/-- Commands that a mailbox accepts, and those answered in recovery (R410, R412). -/
def sidebandTakes (code : Nat) : Bool := decide (code = 1 ∨ code = 7 ∨ code = 0xB)
def recoveryTakes (code : Nat) : Bool := decide (code = 1 ∨ code = 7 ∨ code = 9 ∨ code = 0xA ∨ code = 0xB)

/-- A command waits in a mailbox to be run. -/
def State.commandWaits (s : State) (mb code : Nat) : Bool :=
  s.wh.started && decide (mb < 2 ∧ s.mbNat mb 4 4 = 1 ∧ s.mbNat mb 0 4 = code) && (decide (mb = 0) || sidebandTakes code)
    && (s.serving || recoveryTakes code)

/-- What a command does: the state it leaves, with its error where it has one; none where it goes on. -/
abbrev Command := Option (State × Nat)

/-- Runs a command of a mailbox (R410). -/
def State.command (s : State) (mb code : Nat) (f : Command) : Host.Outcome State Fault Refusal :=
  .next
    (if s.commandWaits mb code = false then s
    else
      match f with
      | none => s
      | some (t, 0) => t.mbStatus mb 2
      | some (t, e + 1) => t.mbStatus mb (0x100 + e + 1))

/-! ### Commands (Table 27.6) -/

/-- GETCONFIG (R410): as much of an image as the results hold. -/
def execGetconfig (mb : Nat) (s : State) : Host.Outcome State Fault Refusal :=
  s.command mb 1
    (match s.arg mb 0 4 with
    | 0 => some (s.mbPut mb 0x100 (s.ctlBytes 0 0xF00), 0)
    | 1 => some (s.mbPut mb 0x100 (s.wh.blockImage.take 0xF00), 0)
    | 2 => some (s.mbPut mb 0x100 (s.wh.paramImage.take 0xF00), 0)
    | _ => some (s, 7))

/-- SETPOWER (R26). -/
def execSetpower (mb : Nat) (s : State) : Host.Outcome State Fault Refusal :=
  s.command mb 2
    (let w := s.arg mb 0 4
    if 1800 ≤ w ∧ w ≤ 3600 then some (s.setCtl 0x14 w 2, 0) else some (s, 1))

/-- A page number lies in a range of pages. -/
def inPages (first count va : Nat) : Bool := decide (first ≤ va / 4096 ∧ va / 4096 < first + count)

/-- A TLB entry of a context overlaps a range of pages. -/
def TlbEntry.overlaps (e : TlbEntry) (c first count : Nat) : Bool :=
  decide (e.ctx = c ∧ e.vpn * 2 ^ e.bits < 4096 * (first + count) ∧ 4096 * first < (e.vpn + 1) * 2 ^ e.bits)

/-- The pages of an entry: the first, and their number. -/
def TlbEntry.pages (e : TlbEntry) : Nat × Nat := (e.vpn * 2 ^ (e.bits - 12), 2 ^ (e.bits - 12))

/-- The invalidation of a mailbox for a range of pages: the one under way, or one that begins now, with the pages of every entry
that is dropped (R191). -/
def State.invalidation (s : State) (mb c first count : Nat) : Nat × List (Nat × Nat) :=
  match s.wh.spans.get? mb with
  | some x => x
  | none => (s.tick, (first, count) :: (s.tlb.filter fun e => e.overlaps c first count).map TlbEntry.pages)

/-- An access of a context that was translated before a tick through one of some ranges of pages has still to be performed: one
that is pending, or one of a transaction's log, which its commit performs (R191). -/
def State.accessesPending (s : State) (c : Nat) (x : Nat × List (Nat × Nat)) : Bool :=
  let old := fun tag va => decide (tag < x.1) && x.2.any fun p => inPages p.1 p.2 va
  s.basins.any fun e =>
    decide (e.2.ctx = c)
      && ((e.2.jets.any fun j =>
          (j.2.longs.any fun o => o.unperformed && o.pa.isSome && old o.tag o.va.toNat)
            || (j.2.storeQ.any fun q => q.pa.isSome && old q.tag q.va.toNat)
            || j.2.threads.any fun t => t.2.tx.pages.any fun p => old p.2 (4096 * p.1))
        || s.writes.any fun w => decide (w.basin = e.1 ∧ w.stage = .sent))

/-- A thread that waits on a counter in one of some ranges of pages issues its `WAITGE` again, which translates anew. -/
def Thread.unwait (t : Thread) (spans : List (Nat × Nat)) : Thread :=
  match t.wait with
  | .counter _ va _ _ _ => if spans.any fun p => inPages p.1 p.2 va.toNat then { t with wait := .held } else t
  | _ => t

/-- Every TLB drops the entries of a range of pages, and what was translated through them and waits is translated again: `spans` are
the pages of all that is dropped (R191). -/
def State.dropPages (s : State) (c first count : Nat) (spans : List (Nat × Nat)) : State :=
  { s with
    tlb := s.tlb.filter fun e => !e.overlaps c first count
    basins := s.basins.mapKeys fun _ B =>
      if B.ctx = c then
        { B with jets := B.jets.mapKeys fun _ J => { J with threads := J.threads.mapKeys fun _ t => t.unwait spans } }
      else B
    wh := { s.wh with queues := s.wh.queues.mapKeys fun k q => if k / 256 = c then { q with waitPa := none } else q } }

/-- INVALIDATE (R191): done once every access translated through the entries has been performed. -/
def execInvalidate (mb : Nat) (s : State) : Host.Outcome State Fault Refusal :=
  let c := s.arg mb 0 4
  let first := s.arg mb 8 8 / 4096
  let count := s.arg mb 16 4
  let x := s.invalidation mb c first count
  let t := s.dropPages c first count x.2
  if s.commandWaits mb 3 = true ∧ s.accessesPending c x = true then
    .next { t with wh := { t.wh with spans := t.wh.spans.put mb x } }
  else s.command mb 3 (some ({ t with wh := { t.wh with spans := t.wh.spans.del mb } }, 0))

/-! ### ENDLAUNCH (R411) -/

/-- A launch stands at the head of its queue. -/
def State.atHead (s : State) (n : Nat) (L : Launch) : Bool := decide ((s.queue L.ctx L.queue).launch = some n)

/-- Ends every thread of a jet: what it has issued is still performed. -/
def Jet.stop (J : Jet) : Jet :=
  if J.run = .exited then J
  else
    { J with
      threads := [], masks := [], run := .exited, slotHeld := false, slotFor := 0, causes := [], handler := .none
      longs := J.longs.filterMap LongOp.orphan }

/-- Ends a resident basin of a launch that is ended. -/
def State.stopBasin (s : State) (b : Nat) : State :=
  match s.basin? b with
  | none => s
  | some B =>
    let s := B.jets.foldl (fun s e => s.leaveQueues b e.1) s
    let s := match s.token.holder with
      | some r => if r.basin = b then s.publish else s
      | none => s
    let s := { s with faults := s.faults.filter fun f =>
        match f.owner with
        | .group b' _ _ _ => !decide (b' = b)
        | .access _ _ | .copy _ | .queue _ _ | .launch _ | .page _ _ _ _ | .sue => true }
    (s.freeArea B.ctx B.bsave).withBasin b fun B =>
      { B with jets := B.jets.mapKeys fun _ J => J.stop, preempt := false, bsave := 0 }

/-- What `ENDLAUNCH` does at once to the parts of a launch (R411): its jets stop, nothing of it is placed any more, its transactions
end, and its rays are freed. -/
def State.stopLaunch (s : State) (n : Nat) (L : Launch) : State :=
  let s := (s.basins.filter fun e => decide (e.2.launch = n)).foldl (fun s e => s.stopBasin e.1) s
  let s := { s with
    rays := s.rays.filter fun r => !decide (r.ctx = L.ctx ∧ r.launch = n)
    faults := s.faults.filter fun f =>
      !decide (f.owner = FaultOwner.launch n) && !(s.atHead n L && decide (f.owner = FaultOwner.queue L.ctx L.queue)) }
  let s := L.saved.foldl (fun s r => s.freeArea L.ctx r.bsave) s
  { s with launches := s.launches.modify n fun L => { L with ended := true, saved := [] } }

/-- The status that ends a launch (R411); one that stands at the head of its queue leaves it. -/
def State.endStatus (s : State) (n : Nat) (L : Launch) : State :=
  let t := s.endLaunch n 0x15
  if s.atHead n L then t.leaveHead L.ctx L.queue else t

/-- ENDLAUNCH (R411): the launch's parts end at once, and the command with them, but where a lane of another launch holds a line that
the controller has still to write, its status or its queue's HEAD (R268): that is written when the line is free, and the command is
busy until then. -/
def execEndlaunch (mb : Nat) (s : State) : Host.Outcome State Fault Refusal :=
  let n := s.arg mb 0 4
  match s.launches.get? n with
  | none => s.command mb 4 (some (s, 4))
  | some L =>
    let t := s.stopLaunch n L
    if s.commandWaits mb 4 = true ∧ (t.statusHeld L.packet || (t.atHead n L && t.queueHeld L.ctx L.queue)) = true then .next t
    else s.command mb 4 (some (t.endStatus n L, 0))

/-! ### RESOLVE and REFUSE (R407) -/

/-- Faults of a page that stand in a fault ring. -/
def State.ringFaults (s : State) (c page : Nat) : List Fault0 :=
  s.faults.filter fun f => decide (f.ctx = c ∧ f.va.toNat / 4096 = page ∧ f.answer = none) && f.posted

/-- RESOLVE (R407): the waiting accesses are tried again. -/
def execResolve (mb : Nat) (s : State) : Host.Outcome State Fault Refusal :=
  s.command mb 5
    (match s.ringFaults (s.arg mb 0 4) (s.arg mb 8 8 / 4096) with
    | [] => some (s, 2)
    | fs => some (fs.foldl State.retryFault s, 0))

/-- REFUSE (R407): the faults are unresolvable from now on. -/
def execRefuse (mb : Nat) (s : State) : Host.Outcome State Fault Refusal :=
  s.command mb 6
    (match s.ringFaults (s.arg mb 0 4) (s.arg mb 8 8 / 4096) with
    | [] => some (s, 2)
    | fs => some ({ s with faults := s.faults.map fun f => if fs.contains f then { f with answer := some false } else f }, 0))

/-! ### REPORT (R415) -/

/-- Step 3 was skipped at this start. -/
def State.noIdentity (s : State) : Bool :=
  s.flash.journal.any fun r => decide (r.startno = s.flash.startno ∧ r.step = 3 ∧ r.path = 2)

/-- This start's journal records, in ring order. -/
def State.startRecords (s : State) : List Byte :=
  (s.flash.journal.filter fun r => decide (r.startno = s.flash.startno)).flatMap JournalRec.bytes

/-- Bytes 0x000 to 0x18F of a report (Table 27.8). -/
def State.reportBody (s : State) (mb : Nat) : List Byte :=
  natBytes 1 4 ++ natBytes Config.certLength 4 ++ (List.range 32).map (fun i => s.mbByte mb (8 + i))
    ++ s.ctlBytes 4 4 ++ s.ctlBytes 0xC 4 ++ s.ctlBytes 0x100000 256 ++ sha256 s.startRecords
    ++ publicKey

/-- A whole report: signed, with the certificate, as much as the results hold. -/
def State.reportBytes (s : State) (mb : Nat) : List Byte :=
  let body := s.reportBody mb
  (body ++ signature (sha256 body) ++ (List.range Config.certLength).map Config.certificate).take 0xF00

/-- REPORT (R415). -/
def execReport (mb : Nat) (s : State) : Host.Outcome State Fault Refusal :=
  s.command mb 7
    (if s.noIdentity then some (s, 5) else some (s.mbPut mb 0x100 (s.reportBytes mb), 0))

/-! ### UPDATE and the swap of queues (R416) -/

/-- Every enabled queue is read by the new image. -/
def State.allSwapped (s : State) : Bool :=
  (List.range 64).all fun c => (List.range 256).all fun q =>
    !(s.resident c && s.queueEnabled c q) || decide ((s.queue c q).firmware = 1)

/-- The end of an update: the new slot is the active one, the alternate path of step 9 keeps it where it has kept one (log 53),
MEAS4 is extended, and FWVER is set. -/
def State.finishUpdate (s : State) (u : FwUpdate) : State :=
  let slot := 1 - s.wh.slot
  let s := { s with
    flash := { s.flash with active := slot, kept := s.flash.kept.map fun _ => slot }
    wh := { s.wh with
      update := none, slot := slot
      queues := s.wh.queues.mapKeys fun _ q => { q with firmware := 0 } } }
  (s.extend 4 u.digest).setCtl 0xC u.version 4

/-- Ends an update whose queues have all changed. -/
def State.tryFinish (s : State) : State :=
  match s.wh.update with
  | some u => if s.allSwapped then s.finishUpdate u else s
  | none => s

/-- The irrevocable lane holds a line of some bytes (R268). -/
def State.linesHeld (s : State) (pa n : Nat) : Bool :=
  s.token.holder.isSome && s.token.lines.any fun l => decide (pa < 128 * (l + 1) ∧ 128 * l < pa + n)

/-- UPDATE (R416): the image lies in the system window; it goes to the slot that is not in force. -/
def execUpdate (mb : Nat) (s : State) : Host.Outcome State Fault Refusal :=
  let pa := s.arg mb 0 8
  let n := s.arg mb 8 8
  if s.commandWaits mb 8 = true ∧ s.wh.update = none ∧ (s.badPlace pa = true ∨ inWindow pa = false) then
    .fault (.unpopulated pa)
  else
    s.command mb 8
      (if s.wh.update.isSome then some (s, 3)
      else if s.reachable pa = false ∨ s.linesHeld pa n = true then none
      else
        let digest := sha256 ((List.range n).map fun i => s.homeByte (pa + i))
        let id := listNat digest
        let version := Config.imageVersion id
        if Config.verifies id = false ∨ version < s.flash.config.minVersion then some (s, 6)
        else
          let slot := 1 - s.wh.slot
          some ((State.tryFinish
            { s with
              flash := { s.flash with
                versions := s.flash.versions.set slot version, images := s.flash.images.put slot digest }
              wh := { s.wh with update := some ⟨version, digest⟩ } }), 0))

/-- QUEUE_FIRMWARE_SWAP (R416): no packet of the queue is being read between steps. -/
def execQueueFirmwareSwap (c q : Nat) (s : State) : Host.Outcome State Fault Refusal :=
  .next
    (if s.wh.update.isNone then s
    else if s.resident c && s.queueEnabled c q then (s.setQueue c q { s.queue c q with firmware := 1 }).tryFinish
    else s.tryFinish)

/-! ### The other commands -/

/-- SETPARAM (R405): the record takes effect at the next start. -/
def execSetparam (mb : Nat) (s : State) : Host.Outcome State Fault Refusal :=
  s.command mb 9
    (some ({ s with flash := { s.flash with params := some ((List.range 96).map fun i => s.mbByte mb (8 + i)) } }, 0))

/-- CLEARJOURNAL (R413). -/
def execClearjournal (mb : Nat) (s : State) : Host.Outcome State Fault Refusal :=
  s.command mb 0xA
    (some ({ s with flash := { s.flash with clearedAt := s.flash.startno, suspects := [], kept := none } }, 0))

/-- The bytes of the record with a sequence number, as the ring holds it (log 12); none there reads zero. -/
def State.recordBytes (s : State) (seq : Nat) : List Byte :=
  match s.errors.find? fun e => decide (e.seq = seq) with
  | some e => (List.range 64).map fun i => Config.errorByte e.seq e.cycle e.unit e.kind e.pa e.ctx i
  | none => List.replicate 64 0

/-- READLOG (R410): up to 56 records. -/
def execReadlog (mb : Nat) (s : State) : Host.Outcome State Fault Refusal :=
  s.command mb 0xB
    (let first := s.arg mb 0 4
    let n := Nat.min (s.arg mb 4 4) 56
    some (s.mbPut mb 0x100 ((List.range n).flatMap fun i => s.recordBytes (first + i)), 0))

/-! ### Writes to the control space (R404, R406, R408, R410) -/

/-- The bytes of a write of `sz` bytes. -/
def writeData (off sz : Nat) (v : Dword) : Cells Byte := numData off v.toNat sz

/-- CONTEXT_DESCRIPTOR_WRITE (R406). -/
def execContextDescriptorWrite (c off sz : Nat) (v : Dword) (s : State) : Host.Outcome State Fault Refusal :=
  .next (if c < 64 ∧ off + sz ≤ 64 then s.writeContext c (writeData off sz v) else s)

/-- QUEUE_DESCRIPTOR_WRITE (R408). -/
def execQueueDescriptorWrite (c q off sz : Nat) (v : Dword) (s : State) : Host.Outcome State Fault Refusal :=
  .next (if c < 64 ∧ q < 256 ∧ off + sz ≤ 32 then s.writeQueue c q (writeData off sz v) else s)

/-- The first offset by which CONTROL_SPACE_WRITE names the sideband mailbox, which lies outside the control space. -/
def sidebandAt : Nat := 2 ^ 39

/-- A write of the sideband mailbox (R410). A command word that it does not accept is held, and starts nothing (DESIGN CHOICE,
log 48); a write of STATUS is dropped (DESIGN CHOICE, log 69). -/
def State.writeSideband (s : State) (data : Cells Byte) : State :=
  let busy := decide (s.mbNat 1 4 4 = 1)
  let kept := data.filter fun e => !(decide (4 ≤ e.1 ∧ e.1 < 8)) && !(busy && decide (e.1 < 4))
  let t := kept.foldl (fun s e => s.mbSet 1 e.1 e.2) s
  if (kept.any fun e => decide (e.1 < 4)) && sidebandTakes (t.mbNat 1 0 4) then t.mbStatus 1 1 else t

/-- CONTROL_SPACE_WRITE (R404, R410): the host mailbox, the sideband mailbox, and the read-only parts, which ignore it; the
descriptors have events of their own. -/
def execControlSpaceWrite (off sz : Nat) (v : Dword) (s : State) : Host.Outcome State Fault Refusal :=
  .next
    (if sidebandAt ≤ off then
      (if off < 2 * sidebandAt ∧ off % sidebandAt + sz ≤ 0x1000 then s.writeSideband (writeData (off % sidebandAt) sz v) else s)
    else if 0x1000 ≤ off ∧ off + sz ≤ 0x2000 then s.writeMailbox (writeData (off - 0x1000) sz v)
    else s)

end Sys2Proof.Machine
end

