-- ==== Sys2Proof/Machine/Reservoir.lean ====
section
/-! DEFINITION. Reservoirs and draws, opcodes 0x64 to 0x6B (R364 to R376). -/

namespace Sys2Proof.Machine

/-! ### Helpers -/

/-- Sane(x) of R366: a weight as a real, and whether it was altered (a zero of either sign is not; log 20). -/
def sane (x : Word) : Q × Bool :=
  match value .f32 x.toNat with
  | .nan => (Q.ofNat 0, true)
  | .inf true => (Q.ofNat 0, true)
  | .inf false => (Fmt.mag .f32 254 8388607, true)
  | .zero _ => (Q.ofNat 0, false)
  | .fin q => if q.num < 0 then (Q.ofNat 0, true) else (q, false)

/-- Quantise(x, FP32, rn, 1) of a real that is not negative. -/
def saturate (x : Q) : Word := BitVec.ofNat 32 (quantise (FV.ofQ x) .f32 .rn true)

/-- The real exceeds the largest finite FP32 value. -/
def beyond (x : Q) : Bool := Q.lt (Fmt.mag .f32 254 8388607) x

/-- The value of Draw(t) for a key and a counter (R366). -/
def drawValue (k c : Word) : Word :=
  let v := c * 0x9E3779B1#32 + k
  let v := v ^^^ (v >>> 15)
  let v := v * 0x2C1B3C6D#32
  v ^^^ (v >>> 12)

/-- Draw(t): the value, and the thread with its counter advanced (R366). -/
def Thread.draw (t : Thread) : Word × Thread := (drawValue t.drawK t.drawC, { t with drawC := t.drawC + 1 })

/-- The four words of a reservoir (Table 23.1). -/
structure Rsv where
  pay : Word
  phat : Word
  wsum : Word
  mf : Word
  deriving DecidableEq, Repr

/-- M of word 3 (Table 23.2). -/
def Rsv.count (r : Rsv) : Nat := r.mf.toNat % 16777216

/-- The reservoir at allocation word `w` of a thread. -/
def Thread.rsv (t : Thread) (w : Nat) : Rsv := ⟨t.word w, t.word (w + 1), t.word (w + 2), t.word (w + 3)⟩

def Thread.setRsv (t : Thread) (w : Nat) (r : Rsv) : Thread :=
  (((t.setWord w r.pay).setWord (w + 1) r.phat).setWord (w + 2) r.wsum).setWord (w + 3) r.mf

/-- Word 3 with a new count and flags set: USER and the flags set before stay (R365). -/
def newMf (old : Word) (count : Nat) (held msat adj : Bool) : Word :=
  (old &&& 0xFF000000#32) ||| BitVec.ofNat 32 count ||| (if held then 0x01000000#32 else 0)
    ||| (if msat then 0x02000000#32 else 0) ||| (if adj then 0x04000000#32 else 0)

/-- The comparison that keeps a candidate: u24 × W < w × 2^24, exactly (R370, R371). -/
def keepsCandidate (u24 : Nat) (wsum : Word) (w : Q) : Bool :=
  Q.lt (Q.mul (Q.ofNat u24) (value .f32 wsum.toNat).toQ) (Q.mul w (Q.ofNat 16777216))

/-- Whether a candidate of a weight is kept, by the draw (R370). -/
def Rsv.takes (r : Rsv) (w draw : Word) : Bool :=
  keepsCandidate (draw.toNat / 256) (saturate (Q.add (sane r.wsum).1 (sane w).1)) (sane w).1

/-- One candidate streamed into a reservoir (R370): payload, density, weight and the draw. -/
def rsvUpdate (r : Rsv) (pay phat w draw : Word) : Rsv :=
  let sw := sane w
  let sws := sane r.wsum
  let s := Q.add sws.1 sw.1
  let wsum := saturate s
  let full := decide (r.count = 16777215)
  let keep := r.takes w draw
  { pay := if keep then pay else r.pay
    phat := if keep then phat else r.phat
    wsum := wsum
    mf := newMf r.mf (if full then r.count else r.count + 1) keep full (sw.2 || sws.2 || beyond s) }

/-- The contribution weight of a reservoir (R372), and whether Sane altered what it reads. -/
def rsvWeight (r : Rsv) : Word × Bool :=
  let p := sane r.phat
  let ws := sane r.wsum
  (if p.1.num = 0 ∨ r.count = 0 then 0 else saturate (Q.div ws.1 (Q.mul (Q.ofNat r.count) p.1)), p.2 || ws.2)

/-- The count of reservoir `a` that a merge with a cap code takes into account (R371). -/
def Rsv.capped (a : Rsv) (cap : Nat) : Nat := if cap = 0 then a.count else Nat.min a.count (4 * cap)

/-- The weight with which reservoir `a` enters a merge (R371): the density at the target and the cap code. -/
def Rsv.mergeWeight (a : Rsv) (dens : Word) (cap : Nat) : Q :=
  (value .f32 (saturate (Q.mul (Q.mul (sane dens).1 (value .f32 (rsvWeight a).1.toNat).toQ)
    (Q.ofNat (a.capped cap)))).toNat).toQ

/-- Whether the sample of reservoir `a` is kept by a merge, by the draw (R371). -/
def Rsv.takesFrom (d a : Rsv) (dens : Word) (cap : Nat) (draw : Word) : Bool :=
  keepsCandidate (draw.toNat / 256) (saturate (Q.add (sane d.wsum).1 (a.mergeWeight dens cap))) (a.mergeWeight dens cap)

/-- Merge of reservoir `a` into `d` (R371): the density at the target, the cap code and the draw. -/
def rsvMerge (d a : Rsv) (dens : Word) (cap : Nat) (draw : Word) : Rsv :=
  let W := rsvWeight a
  let m := a.capped cap
  let pt := sane dens
  let wmq := a.mergeWeight dens cap
  let sws := sane d.wsum
  let s := Q.add sws.1 wmq
  let wsum := saturate s
  let overflow := decide (16777215 < d.count + m)
  let keep := d.takesFrom a dens cap draw
  { pay := if keep then a.pay else d.pay
    phat := if keep then dens else d.phat
    wsum := wsum
    mf := newMf d.mf (if overflow then 16777215 else d.count + m) keep overflow (W.2 || pt.2 || sws.2 || beyond s) }

/-- A word of a reservoir by its field (Table 5.10). -/
def RsvField.index : RsvField → Nat
  | .pay => 0
  | .phat => 1
  | .wsum => 2
  | .mf => 3

/-- An issue that writes WSUM and the flags of reservoir `q` of each executing lane, and PAY and PHAT of the lanes that keep
the new sample, and retires: what is not written may still land from an earlier load (R80, R373). -/
def State.rsvOp (s : State) (o : Operands) (q : Nat) (keep : Jet → Shape → Thread → Bool)
    (f : Jet → Shape → Nat → Thread → Thread) : State :=
  s.issue o fun B J =>
    let w := B.shape.reservoir q
    let kept := s.cur.exec &&& J.lanesWith (keep J B.shape)
    State.retire (s.withBasin s.cur.basin fun B =>
      (B.laneWrite s.cur.jet s.cur.exec [w + 2, w + 3] [] (f J B.shape)).laneWrite s.cur.jet kept [w, w + 1] []
        fun _ t => t)

/-! ### Meanings -/

/-- `RSVI` (R369). -/
def execRsvi (q : Reg) (s : State) : Host.Outcome State Fault Refusal :=
  .next (s.rsvOp { rsv := [q.toNat] } q.toNat (fun _ _ _ => true) fun _ h _ t => t.setRsv (h.reservoir q.toNat) ⟨0, 0, 0, 0⟩)

/-- `RSVU` (R370). -/
def execRsvu (q a b : Reg) (s : State) : Host.Outcome State Fault Refusal :=
  .next (s.rsvOp
    { named := block a 2 ++ [b.toNat], reads := block a 2 ++ [b.toNat], rsv := [q.toNat], rsvReads := [q.toNat] }
    q.toNat (fun J h t => (t.rsv (h.reservoir q.toNat)).takes (t.word (mapReg J.wb b.toNat)) t.draw.1) fun J h _ t =>
      let w := h.reservoir q.toNat
      let v := fun r => t.word (mapReg J.wb r)
      t.draw.2.setRsv w (rsvUpdate (t.rsv w) (v a.toNat) (v (a.toNat + 1)) (v b.toNat) t.draw.1))

/-- `RSVM` (R371). -/
def execRsvm (q r b : Reg) (cap : BitVec 4) (s : State) : Host.Outcome State Fault Refusal :=
  .next (s.rsvOp
    { named := [b.toNat], reads := [b.toNat], rsv := [q.toNat, r.toNat], rsvReads := [q.toNat, r.toNat] }
    q.toNat
    (fun J h t => (t.rsv (h.reservoir q.toNat)).takesFrom (t.rsv (h.reservoir r.toNat)) (t.word (mapReg J.wb b.toNat))
      cap.toNat t.draw.1)
    fun J h _ t =>
      let w := h.reservoir q.toNat
      t.draw.2.setRsv w
        (rsvMerge (t.rsv w) (t.rsv (h.reservoir r.toNat)) (t.word (mapReg J.wb b.toNat)) cap.toNat t.draw.1))

/-- `RSVF` (R372). -/
def execRsvf (d q : Reg) (s : State) : Host.Outcome State Fault Refusal :=
  .next (s.issue { named := [d.toNat], rsv := [q.toNat], rsvReads := [q.toNat] } fun B J =>
    State.retire (s.withBasin s.cur.basin fun K =>
      K.laneWrite s.cur.jet s.cur.exec [mapReg J.wb d.toNat] [] fun _ t =>
        t.setWord (mapReg J.wb d.toNat) (rsvWeight (t.rsv (B.shape.reservoir q.toNat))).1))

/-- `RSVX.get` (R372). -/
def execRsvxGet (d q : Reg) (f : RsvField) (s : State) : Host.Outcome State Fault Refusal :=
  .next (s.issue { named := [d.toNat], rsv := [q.toNat], rsvReads := [q.toNat] } fun B J =>
    State.retire (s.withBasin s.cur.basin fun K =>
      K.laneWrite s.cur.jet s.cur.exec [mapReg J.wb d.toNat] [] fun _ t =>
        t.setWord (mapReg J.wb d.toNat) (t.word (B.shape.reservoir q.toNat + RsvField.index f))))

/-- `RSVX.set` (R372): one word of the reservoir. -/
def execRsvxSet (q a : Reg) (f : RsvField) (s : State) : Host.Outcome State Fault Refusal :=
  .next (s.issue { named := [a.toNat], reads := [a.toNat], rsv := [q.toNat] } fun B J =>
    let w := B.shape.reservoir q.toNat + RsvField.index f
    State.retire (s.withBasin s.cur.basin fun K =>
      K.laneWrite s.cur.jet s.cur.exec [w] [] fun _ t => t.setWord w (t.word (mapReg J.wb a.toNat))))

/-- The long-write destinations of a reservoir. -/
def Shape.rsvDests (h : Shape) (q : Nat) : List Dest :=
  (List.range 4).map fun i => .word (h.reservoir q + i)

/-- `RSVLD.g` (R373): four long writes from one 16-byte record. -/
def State.rsvLoadG (s : State) (q a off : Reg) (la : Nat) : State :=
  s.issue { named := block a 2, reads := block a 2, rsv := [q.toNat] } fun B J =>
    s.unsupp fun s =>
      let ea := fun l => globalEa (J.vpair l a.toNat) off 16
      match firstFault (lanesOf s.cur.exec) (fun l => globalFault (ea l) 16) ea with
      | some (m, va, k) => s.trapFault m va k
      | none =>
        if s.full (lineCount ((lanesOf s.cur.exec).map ea)) then s.hold .held
        else
          (s.retire).enterOps s.cur.basin s.cur.jet
            ((lanesOf s.cur.exec).map fun l => s.newOp J l la (B.shape.rsvDests q.toNat) .reservoir (ea l))

/-- `RSVLD.s` (R373): the four words of each lane are read one by one, and land once all have been read (R374). -/
def State.rsvLoadS (s : State) (q a off : Reg) (la : Nat) : State :=
  s.issue { named := [a.toNat], reads := [a.toNat], rsv := [q.toNat] } fun B J =>
    let ea := fun l => scratchEa (J.vreg l a.toNat) off 16
    let va := fun l => (ea l).zeroExtend 64
    match firstFault (lanesOf s.cur.exec) (fun l => scratchFault (ea l) 16 B.shape.scr) va with
    | some (m, x, k) => s.trapFault m x k
    | none =>
      if J.scratchWaits s.tick s.cur.exec then s.hold (.short .scratch)
      else
        s.retire.enterOps s.cur.basin s.cur.jet
          ((lanesOf s.cur.exec).map fun l => s.newOp J l la (B.shape.rsvDests q.toNat) (.ready 16) (va l))

/-- `RSVLD` (R373). -/
def execRsvld (q a off : Reg) (sp : Space) (la : BitVec 2) (s : State) : Host.Outcome State Fault Refusal :=
  .next (match sp with
    | .g => s.rsvLoadG q a off la.toNat
    | .s => s.rsvLoadS q a off la.toNat)

/-- The 16 bytes of a lane's reservoir, as they stand in memory (Table 23.1). -/
def Jet.rsvBytes (J : Jet) (w l : Nat) : List Byte :=
  match J.threads.get? l with
  | none => []
  | some t => (List.range 4).flatMap fun i => storeBytes ((t.word (w + i)).zeroExtend 64) 4

/-- `RSVST.g` (R373). -/
def State.rsvStoreG (s : State) (q a off : Reg) : State :=
  s.issue { named := block a 2, reads := block a 2, rsv := [q.toNat], rsvReads := [q.toNat] } fun B J =>
    s.unsupp fun s =>
      let ea := fun l => globalEa (J.vpair l a.toNat) off 16
      match firstFault (lanesOf s.cur.exec) (fun l => globalFault (ea l) 16) ea with
      | some (m, va, k) => s.trapFault m va k
      | none =>
        let reqs := storeReqs s J (fun _ => false) (lanesOf s.cur.exec) ea fun l => J.rsvBytes (B.shape.reservoir q.toNat) l
        if s.full reqs.length then s.hold .held else s.retire.enterStores s.cur.basin s.cur.jet reqs

/-- The aligned words of some bytes, by address. -/
def wordCells (d : Cells Byte) : Cells Word :=
  d.filterMap fun e => if e.1 % 4 = 0 then (wordFrom fun i => Cells.get? d (e.1 + i)).map fun w => (e.1, w) else none

/-- `RSVST.s` (R373): the words are written one by one (R374); of lanes that name the same bytes the highest stands. -/
def State.rsvStoreS (s : State) (q a off : Reg) : State :=
  s.issue { named := [a.toNat], reads := [a.toNat], rsv := [q.toNat], rsvReads := [q.toNat] } fun B J =>
    let ea := fun l => scratchEa (J.vreg l a.toNat) off 16
    match firstFault (lanesOf s.cur.exec) (fun l => scratchFault (ea l) 16 B.shape.scr)
        (fun l => (ea l).zeroExtend 64) with
    | some (m, x, k) => s.trapFault m x k
    | none =>
      if J.scratchWaits s.tick s.cur.exec then s.hold (.short .scratch)
      else
        s.retire.enterOps s.cur.basin s.cur.jet
          [{ s.newOp J (lowLane s.cur.exec) 0 [] (.ready 0) 0 with
             lanes := s.cur.exec
             scr := wordCells (bytesOf ((lanesOf s.cur.exec).map fun l =>
               ((ea l).toNat, J.rsvBytes (B.shape.reservoir q.toNat) l))) }]

/-- `RSVST` (R373). -/
def execRsvst (q a off : Reg) (sp : Space) (s : State) : Host.Outcome State Fault Refusal :=
  .next (match sp with
    | .g => s.rsvStoreG q a off
    | .s => s.rsvStoreS q a off)

/-- `DRAW.seed` (R368). -/
def execDrawSeed (a b : Reg) (s : State) : Host.Outcome State Fault Refusal :=
  .next (s.laneOp { named := [a.toNat, b.toNat], reads := [a.toNat, b.toNat] } [] [] fun J _ t =>
    { t with drawK := t.word (mapReg J.wb a.toNat), drawC := t.word (mapReg J.wb b.toNat) })

/-- `DRAW.key` (R368). -/
def execDrawKey (d : Reg) (s : State) : Host.Outcome State Fault Refusal :=
  .next (s.laneOp { named := [d.toNat] } [d.toNat] [] fun J _ t => t.setWord (mapReg J.wb d.toNat) t.drawK)

/-- `DRAW.ctr` (R368). -/
def execDrawCtr (d : Reg) (s : State) : Host.Outcome State Fault Refusal :=
  .next (s.laneOp { named := [d.toNat] } [d.toNat] [] fun J _ t => t.setWord (mapReg J.wb d.toNat) t.drawC)

/-- `DRAW.int` (R368). -/
def execDrawInt (d : Reg) (s : State) : Host.Outcome State Fault Refusal :=
  .next (s.laneOp { named := [d.toNat] } [d.toNat] [] fun J _ t =>
    t.draw.2.setWord (mapReg J.wb d.toNat) t.draw.1)

/-- `DRAW.f32` (R368): the draw's top 24 bits times 2^−24, exact. -/
def execDrawF32 (d : Reg) (s : State) : Host.Outcome State Fault Refusal :=
  .next (s.laneOp { named := [d.toNat] } [d.toNat] [] fun J _ t =>
    t.draw.2.setWord (mapReg J.wb d.toNat) (ne32 (FV.ofQ ⟨((t.draw.1.toNat / 256 : Nat) : Int), 16777216⟩)))

/-- `DRAW.setc` (R368). -/
def execDrawSetc (a : Reg) (s : State) : Host.Outcome State Fault Refusal :=
  .next (s.laneOp { named := [a.toNat], reads := [a.toNat] } [] [] fun J _ t =>
    { t with drawC := t.word (mapReg J.wb a.toNat) })

end Sys2Proof.Machine
end

