-- ==== Sys2Proof/Machine/System.lean ====
section
/-! DEFINITION. System registers, `TRAP`, `ERET` and the taking of a pending cause, opcodes 0x7C to 0x7F (R377 to R390). -/

namespace Sys2Proof.Machine

/-! ### System registers (Tables 25.2 to 25.5) -/

/-- Registers that user mode may reach. -/
def userRegister (n : Nat) : Bool := decide (n = 0x00F ∨ n = 0x016 ∨ n = 0x017 ∨ n = 0x018)

/-- sys.tstate of a thread (Table 25.4): EXITED reads zero, and what a handler has written reads back (R385). -/
def Thread.tstate (t : Thread) : Word :=
  BitVec.ofNat 32 (2 ^ 29 * (t.bstateNow % 4) + 2 ^ 26 * (t.tsSkip % 8) + (if t.tx.irr then 2 ^ 25 else 0)
    + 2 ^ 22 * (t.tx.depth % 8) + t.tsStat.toNat)

/-- sys.jetinfo (Table 25.2). -/
def jetInfo (h : Shape) (jet : Nat) : Word :=
  BitVec.ofNat 32 (jet % 32 + (h.jets - 1) * 2 ^ 5 + (h.vgran - 1) * 2 ^ 10 + 2 ^ 14 * h.rsvn + 2 ^ 18 * h.accn)

/-- sys.barst of a barrier (Table 25.5). -/
def Barrier.stateWord (K : Barrier) : Word :=
  BitVec.ofNat 32 ((if K.err then 2 ^ 22 else 0) + K.arrived % 2048 * 2 ^ 11 + K.count % 2048)

/-- Copies in flight that name the scratchpad or tiles of a basin (sys.bcopies). -/
def State.basinCopies (s : State) (b : Nat) : Nat := (s.copies.filter fun c => c.namesBasin b).length

/-- What `MFS` reads for a lane (Table 25.2). -/
def State.sysRead (s : State) (B : Basin) (J : Jet) (t : Thread) (n : Nat) : Word :=
  match n with
  | 0x000 => J.cause
  | 0x001 => lo32 t.epc
  | 0x002 => hi32 t.epc
  | 0x003 => J.lanemask
  | 0x004 => lo32 J.faultva
  | 0x005 => hi32 J.faultva
  | 0x006 => J.faultkind.zeroExtend 32
  | 0x007 => t.tstate
  | 0x008 => t.grd.zeroExtend 32
  | 0x009 => BitVec.ofNat 32 J.wb
  | 0x00A => J.fmode.zeroExtend 32
  | 0x00B => lo32 B.bsave
  | 0x00C => hi32 B.bsave
  | 0x00D => lo32 J.jsave
  | 0x00E => hi32 J.jsave
  | 0x00F => jetInfo B.shape s.cur.jet
  | 0x010 => BitVec.ofNat 32 (s.basinCopies s.cur.basin)
  | 0x011 => t.barnoNow.zeroExtend 32
  | 0x012 => t.k0
  | 0x013 => t.k1
  | 0x014 => t.k2
  | 0x015 => t.k3
  | 0x016 => BitVec.ofNat 32 s.cycle
  | 0x017 => BitVec.ofNat 32 (s.cycle / 2 ^ 32)
  | 0x018 => BitVec.ofNat 32 (B.ctx % 64 + B.cls % 4 * 64)
  | n =>
    if n < 0x030 then (Cells.get {} B.barriers (n - 0x020)).phase
    else if n < 0x040 then (Cells.get {} B.barriers (n - 0x030)).stateWord
    else
      let h := ((B.tiles.get? ((n - 0x100) / 2)).map (·.handle)).getD 0
      if n % 2 = 0 then lo32 h else hi32 h

/-- sys.grd as it keeps a written value (Table 25.2): a residue over 8 is 8, and with none the guard bit is zero. -/
def guardWritten (v : Word) : BitVec 5 :=
  let n := v.toNat % 16
  if n = 0 then 0 else BitVec.ofNat 5 (v.toNat / 16 % 2 * 16 + Nat.min n 8)

/-- A write of sys.tstate (Table 25.4), which takes effect at `ERET` (R385): BSTATE from 00 to 01 records the current phase of
barrier sys.barno, as the handler last wrote it. The value 11 of BSTATE, which the table does not assign,
is kept and reads back; at `ERET` it is no wait at a barrier (log 23). -/
def Thread.putTstate (t : Thread) (B : Basin) (v : Word) : Thread :=
  let bs := v.toNat / 2 ^ 29 % 4
  { t with
    exitAtEret := v.getLsbD 31
    tsPhase := if t.bstateNow = 0 ∧ bs = 1 then some (Cells.get {} B.barriers t.barnoNow.toNat).phase else t.tsPhase
    tsBstate := some bs
    tsSkip := v.toNat / 2 ^ 26 % 8
    tsStat := statBits v }

/-- What `MTS` writes in a thread (Table 25.2). -/
def Thread.sysWrite (t : Thread) (B : Basin) (n : Nat) (v : Word) : Thread :=
  match n with
  | 0x001 => { t with epc := hi32 t.epc ++ v }
  | 0x002 => { t with epc := v ++ lo32 t.epc }
  | 0x007 => t.putTstate B v
  | 0x008 => { t with grd := guardWritten v }
  | 0x011 => { t with tsBarno := some (v.truncate 4) }
  | 0x012 => { t with k0 := v }
  | 0x013 => { t with k1 := v }
  | 0x014 => { t with k2 := v }
  | 0x015 => { t with k3 := v }
  | _ => t

/-- What `MTS` writes in the jet (Table 25.2). -/
def Jet.sysWrite (J : Jet) (n : Nat) (v : Word) : Jet :=
  match n with
  | 0x009 => if v.toNat % 32 = 0 ∧ 32 ≤ v.toNat ∧ v.toNat ≤ 480 then { J with wb := v.toNat } else J
  | 0x00A => if v.toNat < 1024 ∧ formatMode (v.truncate 18) = true then { J with fmode := v.truncate 18 } else J
  | _ => J

/-- A pending BARMISMATCH of a barrier is withdrawn in every jet of the basin (R379). -/
def Basin.withdraw (B : Basin) (bar : Nat) : Basin :=
  { B with jets := B.jets.mapKeys fun _ J =>
      { J with causes := J.causes.filter fun p => !decide (p.cause = .barmismatch ∧ p.bar = bar) } }

/-- A write of sys.barph or sys.barst: the barrier's state changes at once, and its waiters are tested (R386). -/
def State.barrierWrite (s : State) (n : Nat) (v : Word) : State :=
  let b := s.cur.basin
  if 0x020 ≤ n ∧ n < 0x030 then
    s.withBasin b fun B =>
      let K : Barrier := Cells.get {} B.barriers (n - 0x020)
      ({ B with barriers := B.barriers.put (n - 0x020) { K with phase := v } }).barrierTest (n - 0x020)
  else if 0x030 ≤ n ∧ n < 0x040 then
    let bar := n - 0x030
    let was := ((s.basin? b).map fun B => (Cells.get {} B.barriers bar).err).getD false
    let s := s.withBasin b fun B =>
      let K : Barrier := Cells.get {} B.barriers bar
      ({ B with
         barriers := B.barriers.put bar
           { K with err := v.getLsbD 22, arrived := v.toNat / 2 ^ 11 % 2048, count := v.toNat % 2048 } }).barrierTest bar
    if v.getLsbD 22 then (if was then s else s.mismatch b s.cur.jet bar 0 true)
    else s.withBasin b fun B => B.withdraw bar
  else s

/-- Registers whose reading waits in the context-save handler (R388). -/
def savedLate (n : Nat) : Bool := decide (n = 0x010 ∨ 0x020 ≤ n)

/-- The issuing jet is in user mode. -/
def State.userMode (s : State) : Bool :=
  ((s.jet? s.cur.basin s.cur.jet).map fun J => !J.sys).getD false

/-- `MFS` (R383, R387, R388). -/
def execMfs (d : Reg) (imm : BitVec 18) (s : State) : Host.Outcome State Fault Refusal :=
  .next
    (if s.userMode = true ∧ userRegister imm.toNat = false then s.trapGroup .illegal
    else s.issue { named := [d.toNat], barred := true } fun B J =>
      if J.handler = .save ∧ savedLate imm.toNat = true ∧ B.allSaving = false then s.hold (.short .saving)
      else
        State.retire (s.withBasin s.cur.basin fun K =>
          K.laneWrite s.cur.jet s.cur.exec [mapReg J.wb d.toNat] [] fun _ t =>
            t.setWord (mapReg J.wb d.toNat) (s.sysRead B J t imm.toNat)))

/-- `SysWrite` of one lane (R387): its thread's register, the jet's, or the basin's. -/
def State.sysWrite (s : State) (B : Basin) (n l : Nat) (v : Word) : State :=
  ((s.withThread s.cur.basin s.cur.jet l fun t => t.sysWrite B n v).withJet s.cur.basin s.cur.jet fun K =>
    K.sysWrite n v).barrierWrite n v

/-- `MTS` (R383, R385 to R387): one write for each executing lane, in ascending order; one of sys.wb ends every shadow, as `WINB`
does (R161). -/
def execMts (d : Reg) (imm : BitVec 18) (s : State) : Host.Outcome State Fault Refusal :=
  .next
    (if s.userMode = true ∧ userRegister imm.toNat = false then s.trapGroup .illegal
    else s.issue { named := [d.toNat], reads := [d.toNat], barred := true, ends := decide (imm = 9) } fun B J =>
      (lanesOf s.cur.exec).foldl (fun s l => s.sysWrite B imm.toNat l (J.vreg l d.toNat)) s.retire)

/-! ### TRAP and ERET -/

/-- `TRAP` (R389): the address that follows is where it resumes. -/
def execTrap (code : BitVec 16) (s : State) : Host.Outcome State Fault Refusal :=
  .next (s.issue { barred := true, ends := true } fun _ _ =>
    s.unsupp fun s => s.trapSync .trap code s.cur.exec (s.cur.pc + 4) 0 0)

/-- `TRAP.brk` (R389): it resumes at the instruction itself. -/
def execTrapBrk (code : BitVec 16) (s : State) : Host.Outcome State Fault Refusal :=
  .next (s.issue { barred := true, ends := true } fun _ _ =>
    s.unsupp fun s => s.trapSync .brk code s.cur.exec s.cur.pc 0 0)

/-- `ERET` (R390): every live thread of the jet, whichever group issues it. -/
def execEret (s : State) : Host.Outcome State Fault Refusal :=
  .next
    (if s.userMode then s.trapGroup .illegal
    else s.issue { barred := true, ends := true, endsAll := true } fun _ J =>
      let out := J.lanesWith fun t => t.exitAtEret
      if s.unpublished s.cur.basin s.cur.jet out false then s.hold (.short (.published false))
      else if out ≠ 0 ∧ s.lastExitWaits s.cur.basin s.cur.jet out = true then s.hold (.short .copies)
      else
      let s := s.retire.withJet s.cur.basin s.cur.jet Jet.eret
      let s := s.withBasin s.cur.basin fun B => (List.range 16).foldl (fun B k => B.barrierTest k) B
      (if out = 0 then s else s.exitLanes s.cur.basin s.cur.jet out).endRestore s.cur.basin)

/-! ### Taking a pending cause (R379, R391) -/

/-- The cause that a jet in user mode takes at its next issue boundary (R379). -/
def State.nextCause (s : State) (b j : Nat) : Option Pending :=
  match s.jet? b j with
  | none => none
  | some J =>
    if J.sys ∨ J.run = .halted ∨ J.run = .exited ∨ J.run = .saved then none
    else firstCause (J.causes.filter fun p => decide (p.cause ≠ .preempt) || s.mayPreempt b j)

/-- TRAP_ENTRY (R379, R381): at an issue boundary of an active jet, its pending long writes having landed. -/
def execTrapEntry (b j : Nat) (s : State) : Host.Outcome State Fault Refusal :=
  .next
    (match s.jet? b j, s.nextCause b j with
    | some J, some p =>
      if J.run ≠ .active ∨ quiet J.longs = false then s
      else
        let s := s.withJet b j fun J =>
          { J with causes := J.causes.filter fun q => !decide (q.cause = p.cause ∧ q.bar = p.bar) }
        let lanes := if p.cause = .preempt then J.live else p.lanes &&& J.live
        s.enterTrap b j p.cause 0 lanes p.resume p.va p.kind
    | _, _ => s)

end Sys2Proof.Machine
end

