-- ==== Sys2Proof/Machine/Uniform.lean ====
section
/-! DEFINITION. Uniform, predicate and mask instructions, opcodes 0x40 to 0x4F but for `BCAST`, `GROW` and `SLD` (R95, R138,
R148, R149, R167 to R170). -/

namespace Sys2Proof.Machine

/-- s<d> := f s<a> s<b>. -/
def State.suni2 (s : State) (d a b : Reg) (f : Word → Word → Word) : State :=
  s.uniformOp { ureads := [a.toNat, b.toNat] } [(d.toNat, fun J => f (J.sreg a.toNat) (J.sreg b.toNat))]

/-- `SADD` (Table 7.9). -/
def execSadd (d a b : Reg) (it : AddForm) (s : State) : Host.Outcome State Fault Refusal :=
  .next
    (if it = .b64 then
      s.uniformOp { ureads := [a.toNat, a.toNat + 1, b.toNat, b.toNat + 1] }
        [(d.toNat, fun J => lo32 (J.spair a.toNat + J.spair b.toNat)),
          (d.toNat + 1, fun J => hi32 (J.spair a.toNat + J.spair b.toNat))]
    else s.suni2 d a b (addForm it))

/-- `SMUL` (Table 7.9). -/
def execSmul (d a b : Reg) (f : SmulForm) (s : State) : Host.Outcome State Fault Refusal :=
  .next (s.suni2 d a b
    (match f with
    | .low => fun x y => x * y
    | .hin => mulHigh .n32
    | .his => mulHigh .s32))

/-- `SLOG` (Table 7.9). -/
def execSlog (d a b : Reg) (f : SlogForm) (s : State) : Host.Outcome State Fault Refusal :=
  .next (s.suni2 d a b
    (match f with
    | .and => fun x y => x &&& y
    | .or => fun x y => x ||| y
    | .xor => fun x y => x ^^^ y
    | .andn => fun x y => x &&& ~~~ y))

/-- `SSHF` (Table 7.9). -/
def execSshf (d a b : Reg) (f : SshfForm) (s : State) : Host.Outcome State Fault Refusal :=
  .next (s.suni2 d a b
    (match f with
    | .shl => fun x y => shl32 x y.toNat
    | .shr => fun x y => shr32 x y.toNat
    | .sar => fun x y => sar32 x y.toNat))

/-- `SCMP` (Table 7.9): 1 or 0. -/
def execScmp (d a b : Reg) (cc : Cc) (s : State) : Host.Outcome State Fault Refusal :=
  .next (s.suni2 d a b fun x y => if Cc.holds cc x y then 1 else 0)

/-- `SMOVI` (Table 7.9). -/
def execSmovi (d : Reg) (imm : BitVec 18) (s : State) : Host.Outcome State Fault Refusal :=
  .next (s.uniformOp {} [(d.toNat, fun _ => imm18 imm)])

/-- `SMOVHI` (Table 7.9). -/
def execSmovhi (d : Reg) (imm : BitVec 18) (s : State) : Host.Outcome State Fault Refusal :=
  .next (s.uniformOp { ureads := [d.toNat] } [(d.toNat, fun J => movHigh (J.sreg d.toNat) imm)])

/-- Combine of Table 9.6. -/
def combine (f : RedOp) (x y : Word) : Word :=
  match f with
  | .add => x + y
  | .mins => minWord .s32 x y
  | .maxs => maxWord .s32 x y
  | .minn => minWord .n32 x y
  | .maxn => maxWord .n32 x y
  | .and => x &&& y
  | .or => x ||| y
  | .xor => x ^^^ y
  | .fadd => ne32 (exactSum [value .f32 x.toNat, value .f32 y.toNat] .rn)
  | .fmin => BitVec.ofNat 32 (fminBits .f32 x.toNat y.toNat)
  | .fmax => BitVec.ofNat 32 (fmaxBits .f32 x.toNat y.toNat)
  | .first => x

/-- The first value of a reduction: the float forms round it, which makes a NaN canonical (R167). -/
def reduceFirst (f : RedOp) (x : Word) : Word :=
  match f with
  | .fadd | .fmin | .fmax => ne32 (value .f32 x.toNat)
  | .add | .mins | .maxs | .minn | .maxn | .and | .or | .xor | .first => x

/-- The reduction of values in ascending lane order (R167). -/
def reduce (f : RedOp) : List Word → Word
  | [] => 0
  | x :: rest => rest.foldl (combine f) (reduceFirst f x)

/-- `JRED` (R167). -/
def execJred (d a : Reg) (f : RedOp) (s : State) : Host.Outcome State Fault Refusal :=
  .next (s.uniformOp { named := [a.toNat], reads := [a.toNat] }
    [(d.toNat, fun J => reduce f ((lanesOf s.cur.exec).map fun l => J.vreg l a.toNat))])

/-- The executing lanes whose predicate holds. -/
def Jet.ballot (J : Jet) (m : Lanes) (p : Nat) (inv : Bool) : Lanes :=
  maskOf ((lanesOf m).filter fun l => ((J.threads.get? l).map fun t => t.pred p).getD false != inv)

/-- `BALLOT` (R168). -/
def execBallot (d p : Reg) (inv : Bool) (s : State) : Host.Outcome State Fault Refusal :=
  .next (s.uniformOp { preds := [p.toNat] } [(d.toNat, fun J => J.ballot s.cur.exec p.toNat inv)])

/-- `PLOG` (R170). -/
def plog (f : PlogForm) (x y : Bool) : Bool :=
  match f with
  | .and => x && y
  | .or => x || y
  | .xor => x != y
  | .andn => x && !y
  | .orn => x || !y

/-- `PLOG` (R170). -/
def execPlog (d a b : Reg) (f : PlogForm) (s : State) : Host.Outcome State Fault Refusal :=
  .next (s.laneOp { preds := [a.toNat, b.toNat] } [] [d.toNat] fun _ _ t =>
    t.setPred d.toNat (plog f (t.pred a.toNat) (t.pred b.toNat)))

/-- `PMOV.pv` (R170): bit 0 of the register. -/
def execPmovPv (d a : Reg) (s : State) : Host.Outcome State Fault Refusal :=
  .next (s.laneOp { named := [a.toNat], reads := [a.toNat] } [] [d.toNat] fun J _ t =>
    t.setPred d.toNat ((t.word (mapReg J.wb a.toNat)).getLsbD 0))

/-- `PMOV.vp` (R170): 1 or 0. -/
def execPmovVp (d a : Reg) (s : State) : Host.Outcome State Fault Refusal :=
  .next (s.laneOp { named := [d.toNat], preds := [a.toNat] } [d.toNat] [] fun J _ t =>
    t.setWord (mapReg J.wb d.toNat) (if t.pred a.toNat then 1 else 0))

/-- `PMOV.pp` (R170). -/
def execPmovPp (d a : Reg) (s : State) : Host.Outcome State Fault Refusal :=
  .next (s.laneOp { preds := [a.toNat] } [] [d.toNat] fun _ _ t => t.setPred d.toNat (t.pred a.toNat))

/-- `MMOV.sm` (R149). -/
def execMmovSm (d m : Reg) (s : State) : Host.Outcome State Fault Refusal :=
  .next (s.uniformOp {} [(d.toNat, fun J => J.mask m.toNat)])

/-- `MMOV.ms` (R149): lanes without a live thread are cleared. -/
def execMmovMs (m a : Reg) (s : State) : Host.Outcome State Fault Refusal :=
  .next (s.maskOp { ureads := [a.toNat] } m.toNat fun J _ => J.sreg a.toNat &&& J.live)

/-- `MMOV.mm` (R149). -/
def execMmovMm (d m : Reg) (s : State) : Host.Outcome State Fault Refusal :=
  .next (s.maskOp {} d.toNat fun J _ => J.mask m.toNat &&& J.live)

/-- The current work identifier (R33): basin index, jet and lane. -/
def widOf (w1 index jet lane : Nat) : Dword := BitVec.ofNat 64 (index * 2 ^ (5 + w1) + jet * 32 + lane)

/-- `IDR` (R169). -/
def execIdr (d : Reg) (f : IdForm) (s : State) : Host.Outcome State Fault Refusal :=
  .next
    (match f with
    | .lane => s.laneOp { named := [d.toNat] } [d.toNat] [] fun J l t =>
        t.setWord (mapReg J.wb d.toNat) (BitVec.ofNat 32 l)
    | .jet => s.alu0 d (BitVec.ofNat 32 s.cur.jet)
    | .basin => s.alu0 d (BitVec.ofNat 32 (((s.basin? s.cur.basin).map (·.index)).getD 0))
    | .wid => s.laneOp { named := block d 2 } (block d 2) [] fun J l t =>
        t.setPair J.wb d.toNat
          (widOf (((s.basin? s.cur.basin).map (·.shape.w1)).getD 0)
            (((s.basin? s.cur.basin).map (·.index)).getD 0) s.cur.jet l)
    | .wid0 => s.laneOp { named := block d 2 } (block d 2) [] fun J _ t => t.setPair J.wb d.toNat t.wid0
    | .core => s.alu0 d (BitVec.ofNat 32 (s.coreOf s.cur.basin)))

end Sys2Proof.Machine
end

