-- ==== Sys2Proof/Machine/Dispatch.lean ====
section
/-! DEFINITION. The meaning of every instruction and event: one arm per constructor of `Instr`. -/

namespace Sys2Proof.Machine

/-- Performs one instruction, or one event, on a state. -/
def exec (i : Instr) (s : State) : Host.Outcome State Fault Refusal :=
  match i with
  | .nop => Sys2Proof.Machine.execNop s
  | .grd k neg n => Sys2Proof.Machine.execGrd k neg n s
  | .bra off => Sys2Proof.Machine.execBra off s
  | .brc neg p imm => Sys2Proof.Machine.execBrc neg p imm s
  | .brx a => Sys2Proof.Machine.execBrx a s
  | .call off => Sys2Proof.Machine.execCall off s
  | .callx a => Sys2Proof.Machine.execCallx a s
  | .ret => Sys2Proof.Machine.execRet s
  | .exit => Sys2Proof.Machine.execExit s
  | .mark m => Sys2Proof.Machine.execMark m s
  | .join m => Sys2Proof.Machine.execJoin m s
  | .leave m => Sys2Proof.Machine.execLeave m s
  | .waitm m => Sys2Proof.Machine.execWaitm m s
  | .bar k a => Sys2Proof.Machine.execBar k a s
  | .barArrive k a => Sys2Proof.Machine.execBarArrive k a s
  | .winb imm => Sys2Proof.Machine.execWinb imm s
  | .reord a => Sys2Proof.Machine.execReord a s
  | .iadd d a b it => Sys2Proof.Machine.execIadd d a b it s
  | .isub d a b it => Sys2Proof.Machine.execIsub d a b it s
  | .imul d a b => Sys2Proof.Machine.execImul d a b s
  | .imad d a b f => Sys2Proof.Machine.execImad d a b f s
  | .imulh d a b sg => Sys2Proof.Machine.execImulh d a b sg s
  | .iaddi d a imm => Sys2Proof.Machine.execIaddi d a imm s
  | .and d a b inv => Sys2Proof.Machine.execAnd d a b inv s
  | .or d a b inv => Sys2Proof.Machine.execOr d a b inv s
  | .xor d a b inv => Sys2Proof.Machine.execXor d a b inv s
  | .andi d a imm => Sys2Proof.Machine.execAndi d a imm s
  | .ori d a imm => Sys2Proof.Machine.execOri d a imm s
  | .shl d a b => Sys2Proof.Machine.execShl d a b s
  | .shlI d a n => Sys2Proof.Machine.execShlI d a n s
  | .shr d a b => Sys2Proof.Machine.execShr d a b s
  | .shrI d a n => Sys2Proof.Machine.execShrI d a n s
  | .sar d a b => Sys2Proof.Machine.execSar d a b s
  | .sarI d a n => Sys2Proof.Machine.execSarI d a n s
  | .bfe d a b sg => Sys2Proof.Machine.execBfe d a b sg s
  | .bfi d a b => Sys2Proof.Machine.execBfi d a b s
  | .popc d a => Sys2Proof.Machine.execPopc d a s
  | .clz d a => Sys2Proof.Machine.execClz d a s
  | .imin d a b sg => Sys2Proof.Machine.execImin d a b sg s
  | .imax d a b sg => Sys2Proof.Machine.execImax d a b sg s
  | .icmp p a b cc => Sys2Proof.Machine.execIcmp p a b cc s
  | .sel d a b p => Sys2Proof.Machine.execSel d a b p s
  | .movi d imm => Sys2Proof.Machine.execMovi d imm s
  | .movhi d imm => Sys2Proof.Machine.execMovhi d imm s
  | .fadd d a b ty rm => Sys2Proof.Machine.execFadd d a b ty rm s
  | .fsub d a b ty rm => Sys2Proof.Machine.execFsub d a b ty rm s
  | .fmul d a b ty rm => Sys2Proof.Machine.execFmul d a b ty rm s
  | .ffma d a b ty rm => Sys2Proof.Machine.execFfma d a b ty rm s
  | .fmin d a b ty => Sys2Proof.Machine.execFmin d a b ty s
  | .fmax d a b ty => Sys2Proof.Machine.execFmax d a b ty s
  | .fcmp p a b cc => Sys2Proof.Machine.execFcmp p a b cc s
  | .fclass d a => Sys2Proof.Machine.execFclass d a s
  | .cvt d a code sat rm => Sys2Proof.Machine.execCvt d a code sat rm s
  | .frnd d a ty rm => Sys2Proof.Machine.execFrnd d a ty rm s
  | .rcp d a => Sys2Proof.Machine.execRcp d a s
  | .rsq d a => Sys2Proof.Machine.execRsq d a s
  | .sqrt d a => Sys2Proof.Machine.execSqrt d a s
  | .exp2 d a => Sys2Proof.Machine.execExp2 d a s
  | .log2 d a => Sys2Proof.Machine.execLog2 d a s
  | .sin d a => Sys2Proof.Machine.execSin d a s
  | .cos d a => Sys2Proof.Machine.execCos d a s
  | .tanh d a => Sys2Proof.Machine.execTanh d a s
  | .fdot2 d a b ty rm => Sys2Proof.Machine.execFdot2 d a b ty rm s
  | .fdiv d a b => Sys2Proof.Machine.execFdiv d a b s
  | .pack d a b f => Sys2Proof.Machine.execPack d a b f s
  | .unpk d a f => Sys2Proof.Machine.execUnpk d a f s
  | .sadd d a b it => Sys2Proof.Machine.execSadd d a b it s
  | .smul d a b f => Sys2Proof.Machine.execSmul d a b f s
  | .slog d a b f => Sys2Proof.Machine.execSlog d a b f s
  | .sshf d a b f => Sys2Proof.Machine.execSshf d a b f s
  | .scmp d a b cc => Sys2Proof.Machine.execScmp d a b cc s
  | .smovi d imm => Sys2Proof.Machine.execSmovi d imm s
  | .smovhi d imm => Sys2Proof.Machine.execSmovhi d imm s
  | .bcast d a => Sys2Proof.Machine.execBcast d a s
  | .jred d a f => Sys2Proof.Machine.execJred d a f s
  | .ballot d p inv => Sys2Proof.Machine.execBallot d p inv s
  | .grow d a la => Sys2Proof.Machine.execGrow d a la s
  | .sld d a off sz la => Sys2Proof.Machine.execSld d a off sz la s
  | .plog d a b f => Sys2Proof.Machine.execPlog d a b f s
  | .pmovPv d a => Sys2Proof.Machine.execPmovPv d a s
  | .pmovVp d a => Sys2Proof.Machine.execPmovVp d a s
  | .pmovPp d a => Sys2Proof.Machine.execPmovPp d a s
  | .mmovSm d m => Sys2Proof.Machine.execMmovSm d m s
  | .mmovMs m a => Sys2Proof.Machine.execMmovMs m a s
  | .mmovMm d m => Sys2Proof.Machine.execMmovMm d m s
  | .idr d f => Sys2Proof.Machine.execIdr d f s
  | .ldG d a off sz la => Sys2Proof.Machine.execLdG d a off sz la s
  | .stG d a off sz => Sys2Proof.Machine.execStG d a off sz s
  | .lds d a off sz la => Sys2Proof.Machine.execLds d a off sz la s
  | .sts d a off sz => Sys2Proof.Machine.execSts d a off sz s
  | .atom d a op sc ord la => Sys2Proof.Machine.execAtom d a op sc ord la s
  | .atoms d a op sc ord la => Sys2Proof.Machine.execAtoms d a op sc ord la s
  | .ldnr d a p sz la => Sys2Proof.Machine.execLdnr d a p sz la s
  | .pgreq a => Sys2Proof.Machine.execPgreq a s
  | .fence sc ord => Sys2Proof.Machine.execFence sc ord s
  | .copy a sc ord => Sys2Proof.Machine.execCopy a sc ord s
  | .waitge a b sc ord => Sys2Proof.Machine.execWaitge a b sc ord s
  | .ctradd a b sc ord => Sys2Proof.Machine.execCtradd a b sc ord s
  | .pref a off lv => Sys2Proof.Machine.execPref a off lv s
  | .cas d a sc ord la => Sys2Proof.Machine.execCas d a sc ord la s
  | .txb => Sys2Proof.Machine.execTxb s
  | .txbIrr => Sys2Proof.Machine.execTxbIrr s
  | .txe p => Sys2Proof.Machine.execTxe p s
  | .txa imm => Sys2Proof.Machine.execTxa imm s
  | .txq d => Sys2Proof.Machine.execTxq d s
  | .rsvi q => Sys2Proof.Machine.execRsvi q s
  | .rsvu q a b => Sys2Proof.Machine.execRsvu q a b s
  | .rsvm q r b cap => Sys2Proof.Machine.execRsvm q r b cap s
  | .rsvf d q => Sys2Proof.Machine.execRsvf d q s
  | .rsvld q a off sp la => Sys2Proof.Machine.execRsvld q a off sp la s
  | .rsvst q a off sp => Sys2Proof.Machine.execRsvst q a off sp s
  | .rsvxGet d q f => Sys2Proof.Machine.execRsvxGet d q f s
  | .rsvxSet q a f => Sys2Proof.Machine.execRsvxSet q a f s
  | .drawSeed a b => Sys2Proof.Machine.execDrawSeed a b s
  | .drawKey d => Sys2Proof.Machine.execDrawKey d s
  | .drawCtr d => Sys2Proof.Machine.execDrawCtr d s
  | .drawInt d => Sys2Proof.Machine.execDrawInt d s
  | .drawF32 d => Sys2Proof.Machine.execDrawF32 d s
  | .drawSetc a => Sys2Proof.Machine.execDrawSetc a s
  | .setfmt imm => Sys2Proof.Machine.execSetfmt imm s
  | .mmavVv c a b => Sys2Proof.Machine.execMmavVv c a b s
  | .mmavVt c a t => Sys2Proof.Machine.execMmavVt c a t s
  | .mloop c a b k => Sys2Proof.Machine.execMloop c a b k s
  | .mwait c => Sys2Proof.Machine.execMwait c s
  | .mrdy => Sys2Proof.Machine.execMrdy s
  | .tmovDef t a => Sys2Proof.Machine.execTmovDef t a s
  | .tmovRd d t b => Sys2Proof.Machine.execTmovRd d t b s
  | .tmovWr t a b => Sys2Proof.Machine.execTmovWr t a b s
  | .tmovRel t => Sys2Proof.Machine.execTmovRel t s
  | .amovRd d c b => Sys2Proof.Machine.execAmovRd d c b s
  | .amovWr c a b => Sys2Proof.Machine.execAmovWr c a b s
  | .amovZero c => Sys2Proof.Machine.execAmovZero c s
  | .amovTile t c => Sys2Proof.Machine.execAmovTile t c s
  | .tstat d t => Sys2Proof.Machine.execTstat d t s
  | .trace d a b => Sys2Proof.Machine.execTrace d a b s
  | .trwait d a => Sys2Proof.Machine.execTrwait d a s
  | .trresAcc a b => Sys2Proof.Machine.execTrresAcc a b s
  | .trresIgn a => Sys2Proof.Machine.execTrresIgn a s
  | .trresTerm a => Sys2Proof.Machine.execTrresTerm a s
  | .trresRetry a => Sys2Proof.Machine.execTrresRetry a s
  | .trcan a => Sys2Proof.Machine.execTrcan a s
  | .trrec d a n => Sys2Proof.Machine.execTrrec d a n s
  | .asupd a => Sys2Proof.Machine.execAsupd a s
  | .texf d a b la => Sys2Proof.Machine.execTexf d a b la s
  | .hgrid d a b la => Sys2Proof.Machine.execHgrid d a b la s
  | .mfs d imm => Sys2Proof.Machine.execMfs d imm s
  | .mts d imm => Sys2Proof.Machine.execMts d imm s
  | .trap code => Sys2Proof.Machine.execTrap code s
  | .trapBrk code => Sys2Proof.Machine.execTrapBrk code s
  | .eret => Sys2Proof.Machine.execEret s
  | .reordRepack b => Sys2Proof.Machine.execReordRepack b s
  | .growPerform b j k => Sys2Proof.Machine.execGrowPerform b j k s
  | .trapEntry b j => Sys2Proof.Machine.execTrapEntry b j s
  | .launchPacket c q => Sys2Proof.Machine.execLaunchPacket c q s
  | .copyPacket c q => Sys2Proof.Machine.execCopyPacket c q s
  | .structureUpdatePacket c q => Sys2Proof.Machine.execStructureUpdatePacket c q s
  | .counterWaitSatisfied c q => Sys2Proof.Machine.execCounterWaitSatisfied c q s
  | .staging n => Sys2Proof.Machine.execStaging n s
  | .tailPoll c q => Sys2Proof.Machine.execTailPoll c q s
  | .basinPlace n => Sys2Proof.Machine.execBasinPlace n s
  | .placementWaitTimeout n => Sys2Proof.Machine.execPlacementWaitTimeout n s
  | .launchComplete n => Sys2Proof.Machine.execLaunchComplete n s
  | .basinExit b => Sys2Proof.Machine.execBasinExit b s
  | .rotationSwap core sp => Sys2Proof.Machine.execRotationSwap core sp s
  | .jetWake b j => Sys2Proof.Machine.execJetWake b j s
  | .longWriteLands b j k => Sys2Proof.Machine.execLongWriteLands b j k s
  | .storePerformed k => Sys2Proof.Machine.execStorePerformed k s
  | .writeDropReport k => Sys2Proof.Machine.execWriteDropReport k s
  | .storeAck k => Sys2Proof.Machine.execStoreAck k s
  | .atomicPerform b j k => Sys2Proof.Machine.execAtomicPerform b j k s
  | .requestAgePromotion b j k => Sys2Proof.Machine.execRequestAgePromotion b j k s
  | .faultResolved k => Sys2Proof.Machine.execFaultResolved k s
  | .faultUnresolvable k => Sys2Proof.Machine.execFaultUnresolvable k s
  | .pageRequestServiced k => Sys2Proof.Machine.execPageRequestServiced k s
  | .migration c va fr => Sys2Proof.Machine.execMigration c va fr s
  | .copyService k w => Sys2Proof.Machine.execCopyService k w s
  | .copyComplete k => Sys2Proof.Machine.execCopyComplete k s
  | .copyFaultEnd k => Sys2Proof.Machine.execCopyFaultEnd k s
  | .waitgeSatisfied b j l => Sys2Proof.Machine.execWaitgeSatisfied b j l s
  | .txSlotGrant core => Sys2Proof.Machine.execTxSlotGrant core s
  | .tokenGrant => Sys2Proof.Machine.execTokenGrant s
  | .txCommit b j l => Sys2Proof.Machine.execTxCommit b j l s
  | .timeout b j l => Sys2Proof.Machine.execTimeout b j l s
  | .matrixOpComplete b k => Sys2Proof.Machine.execMatrixOpComplete b k s
  | .filterLookup b j k => Sys2Proof.Machine.execFilterLookup b j k s
  | .rayArrive st => Sys2Proof.Machine.execRayArrive st s
  | .enginePick st => Sys2Proof.Machine.execEnginePick st s
  | .rayTraverse r => Sys2Proof.Machine.execRayTraverse r s
  | .nodeVersionTimeout r => Sys2Proof.Machine.execNodeVersionTimeout r s
  | .answerArrives k => Sys2Proof.Machine.execAnswerArrives k s
  | .sueUpdate => Sys2Proof.Machine.execSueUpdate s
  | .config => Sys2Proof.Machine.execConfig s
  | .linkDown p => Sys2Proof.Machine.execLinkDown p s
  | .flitCrcFailure p => Sys2Proof.Machine.execFlitCrcFailure p s
  | .moduleStart => Sys2Proof.Machine.execModuleStart s
  | .startStepTimeout n => Sys2Proof.Machine.execStartStepTimeout n s
  | .powerClockStep up => Sys2Proof.Machine.execPowerClockStep up s
  | .queueFirmwareSwap c q => Sys2Proof.Machine.execQueueFirmwareSwap c q s
  | .getconfig mb => Sys2Proof.Machine.execGetconfig mb s
  | .setpower mb => Sys2Proof.Machine.execSetpower mb s
  | .invalidate mb => Sys2Proof.Machine.execInvalidate mb s
  | .endlaunch mb => Sys2Proof.Machine.execEndlaunch mb s
  | .resolve mb => Sys2Proof.Machine.execResolve mb s
  | .refuse mb => Sys2Proof.Machine.execRefuse mb s
  | .report mb => Sys2Proof.Machine.execReport mb s
  | .update mb => Sys2Proof.Machine.execUpdate mb s
  | .setparam mb => Sys2Proof.Machine.execSetparam mb s
  | .clearjournal mb => Sys2Proof.Machine.execClearjournal mb s
  | .readlog mb => Sys2Proof.Machine.execReadlog mb s
  | .contextDescriptorWrite c off sz v => Sys2Proof.Machine.execContextDescriptorWrite c off sz v s
  | .queueDescriptorWrite c q off sz v => Sys2Proof.Machine.execQueueDescriptorWrite c q off sz v s
  | .controlSpaceWrite off sz v => Sys2Proof.Machine.execControlSpaceWrite off sz v s
  | .storePointPassed b j => Sys2Proof.Machine.execStorePointPassed b j s
  | .peerForwarding => Sys2Proof.Machine.execPeerForwarding s
  | .eccScrubbing g => Sys2Proof.Machine.execEccScrubbing g s

end Sys2Proof.Machine
end

