-- ==== Sys2Proof/Machine/Issue.lean ====
section
/-! DEFINITION. The issue of a spout: the choice of jet and group, the fetch, the passing of words by skipping threads, and
the call of the instruction's meaning (R54, R58, R59, R85, R88, R99, R197, R218, R244, R258). -/

namespace Sys2Proof.Machine

/-! ### The group that issues -/

/-- The jet notes the group that issues (R59). The spec does not say which group is the one that issued last once it has split
or merged: the model names it by the lowest lane that it had (DESIGN CHOICE, log 61). Nor does it say whether the count of four
starts again where the group is the only ready one: the model counts on, so that it yields as soon as another becomes ready
(DESIGN CHOICE, log 61). -/
def Jet.noteGroup (J : Jet) (l : Nat) : Jet :=
  { J with lastLane := l, inRow := if J.lastLane = l then J.inRow + 1 else 1 }

/-- A group of a jet begins its issue: the spout and the jet note their turns. -/
def State.begin (s : State) (core sp b j : Nat) (J : Jet) (l : Nat) (t : Thread) : State :=
  let s := s.setSpout core sp { s.spout core sp with position := J.position }
  let s := s.withJet b j fun J => J.noteGroup l
  { s with cur := State.issueOf b j J t }

/-- How an offer to a group ended, by the waits of its lanes: it did not issue, since it turned out not to be ready (R54); it
lost the turn of its jet under R24; or it issued. -/
inductive Offer where
  | notReady | turnLost | issued
  deriving DecidableEq, Repr

def Wait.offer : Wait → Offer
  | .operand _ | .landed | .drain _ | .slot | .fault | .short _ => .notReady
  | .held => .turnLost
  | .none | .acc _ _ | .ray _ _ | .counter _ _ _ _ _ | .bar | .mask _ | .reord _ | .token | .commit _ _ | .written
  | .saveExit => .issued

/-- An offer that did not end in an issue is no issue of the jet, nor of the spout unless the turn was lost under R24 (R58,
R59, R66): the turns are as they were. A resumed instruction was counted when it issued. -/
def State.settleOffer (before after : State) (core sp b j : Nat) (J : Jet) (t : Thread) : State :=
  let offers := (lanesOf (J.groupOf t)).filterMap fun l => (after.thread? b j l).map fun u => u.wait.offer
  let undo := fun s : State => s.withJet b j fun K => { K with lastLane := J.lastLane, inRow := J.inRow }
  if after.cur.resumed then undo (after.setSpout core sp { after.spout core sp with position := (before.spout core sp).position })
  else
    if offers.contains .notReady then
      undo (after.setSpout core sp { after.spout core sp with position := (before.spout core sp).position })
    else if offers.contains .turnLost then undo after
    else after

/-! ### Fetch -/

/-- The word that a fetch reads: while code is rewritten, the present value or one it held since the start of the launch, by
a free choice (R244, log 2). -/
def State.codeWord (s : State) (B : Basin) (pa : Nat) : Word :=
  let began := ((s.launches.get? B.launch).map (·.began)).getD 0
  let old := s.stale.filter fun e => decide (e.1 = pa / 4 ∧ began ≤ e.2.2)
  match (List.range old.length).find? fun i => Config.keeps s.tick (3000000 + i) with
  | some i => ((old[i]?).map (·.2.1)).getD (BitVec.ofNat 32 (s.homeNat pa 4))
  | none => BitVec.ofNat 32 (s.homeNat pa 4)

/-- The fetch of the group's next word (R197, R218): none where it faults, waits or meets poison. Where it traps, at poison or PRIV,
no instruction issues, and the spec does not say whether the position counts as the one that issued last (R66): the model counts it
(DESIGN CHOICE, log 69). -/
def State.fetch (s : State) (B : Basin) (J : Jet) : State × Option Word :=
  let pc := s.cur.pc
  match globalFault pc 4 with
  | some k => (s.trapSync .pagefault 0 s.cur.group pc pc k, none)
  | none =>
    match s.translateFor (s.holderAmong s.cur.basin s.cur.jet s.cur.group) (corePlace B.core) B.ctx J.sys pc.toNat
        .fetch with
    | (s, .held) => (s.hold (.short (.lines s.token.holder)), none)
    | (s, .fault k z) =>
      if offered k then
        ((s.hold .fault).raiseFault (.group s.cur.basin s.cur.jet s.cur.group true) B.ctx pc k z, none)
      else
        (s.giveUp s.cur.basin s.cur.jet .pagefault s.cur.group pc (J.grdOf (lowLane s.cur.group)) pc k, none)
    | (s, .ok pa) =>
      if s.mayTouch s.cur.basin s.cur.jet s.cur.group pa = false then
        (s.hold (.short (.lines s.token.holder)), none)
      else
        let r := s.homeCheck pa 4 (s.ctxOf s.cur.basin)
        if r.2 then (r.1.poisonLanes s.cur.basin s.cur.jet s.cur.group pc, none)
        else (r.1, some (r.1.codeWord B pa))

/-! ### Skipping threads (R258) -/

/-- The threads of a group pass one word: `f` is what it does to the skip count. The spec does not say whether such a word is
an issue of the jet in the sense of a uniform destination's shadow (R78): the model does not count it (DESIGN CHOICE, log 61). -/
def State.skipWord (s : State) (lanes : Lanes) (f : Nat → Nat) : State :=
  s.withJet s.cur.basin s.cur.jet fun J =>
    (J.moveOn lanes).withLanes lanes fun _ t => { t with tx := { t.tx with skip := f t.tx.skip, passed := t.tx.passed + 1 } }

/-- Threads that have passed 65,536 words with this one. The spec does not say whether the count starts again after a trap and its
`ERET`, or after a save and a restore: the model keeps it through a trap, and a restored thread counts anew (DESIGN CHOICE, log 69). -/
def Jet.lost (J : Jet) : Lanes := J.lanesWith fun t => decide (65536 ≤ t.tx.passed + 1)

/-- The skip count after a `TXB` word: the field has three bits (Table 15.1), and what an eighth level makes of it is not said,
so it is a free value there (log 62). -/
def State.deeper (s : State) (k : Nat) : Nat := if k < 7 then k + 1 else (s.free 800000).toNat % 8

/-- The words that skipping threads pass: `TXB` and `TXE` change the count; the `TXE` that ends it executes (R258). A thread
that has passed 65,536 words traps ILLEGAL with the whole issuing group (Table 25.1). -/
def State.skip (s : State) (J : Jet) (i : Option Instr) : Host.Outcome State Fault Refusal :=
  let go := fun (lanes : Lanes) (f : Nat → Nat) =>
    if lanes &&& J.lost = 0 then s.skipWord lanes f else s.trapSync .illegal 0 s.cur.group s.cur.pc 0 0
  match i with
  | some .txb => .next (go s.cur.group s.deeper)
  | some .txbIrr => .next (go s.cur.group s.deeper)
  | some (.txe p) =>
    let last := s.cur.group &&& J.lanesWith fun t => decide (t.tx.skip = 1)
    let rest := s.cur.group &&& ~~~ last
    if rest ≠ 0 then .next (go rest (· - 1))
    else exec (.txe p) { s with cur := { s.cur with exec := last, group := last, window := false } }
  | _ => .next (go s.cur.group id)

/-! ### The issue -/

/-- The word is decoded and its meaning performed; a word that is no instruction traps ILLEGAL (R99). -/
def State.perform (s : State) (J : Jet) (t : Thread) (w : Word) : Host.Outcome State Fault Refusal :=
  if 0 < t.tx.skip then s.skip J (decodeBytes (bytesOfWord w))
  else
    match decodeBytes (bytesOfWord w) with
    | some i => exec i s
    | none => .next (s.trapGroup .illegal)

/-- What follows a next state. -/
def thenNext (r : Host.Outcome State Fault Refusal) (f : State → State) : Host.Outcome State Fault Refusal :=
  match r with
  | .next t => .next (f t)
  | .fault e => .fault e
  | .refused e => .refused e

/-- One group is offered an issue (R58, R59). -/
def State.issueGroup (s : State) (core sp b j : Nat) (B : Basin) (J : Jet) (l : Nat) (t : Thread) :
    Host.Outcome State Fault Refusal :=
  thenNext
    (match (s.begin core sp b j J l t).fetch B J with
    | (s, none) => .next s
    | (s, some w) => s.perform J t w)
    fun r => s.settleOffer r core sp b j J t

/-- A jet's turn: a pending cause that it can take comes first (R379); otherwise its next group issues. A turn in which the cause is not
yet taken, since long writes have still to land (R82, R381), counts for the position that issued last, which the spec leaves open (R66;
DESIGN CHOICE, log 69). -/
def State.issueJet (s : State) (core sp b j : Nat) (B : Basin) (J : Jet) : Host.Outcome State Fault Refusal :=
  if s.jetTrapped b j J then exec (.trapEntry b j) (s.setSpout core sp { s.spout core sp with position := J.position })
  else
    match J.nextGroup (s.readyGroups b B j J) with
    | none => .next s
    | some l =>
      match J.threads.get? l with
      | none => .next s
      | some t => s.issueGroup core sp b j B J l t

/-- The turn of a spout. -/
def State.issueSpout (s : State) (core sp : Nat) : Host.Outcome State Fault Refusal :=
  match s.nextJet core sp with
  | none => .next s
  | some (b, j, J) =>
    match s.basin? b with
    | none => .next s
    | some B => s.issueJet core sp b j B J

end Sys2Proof.Machine
end

