-- ==== Sys2Proof/Machine/Events.lean ====
section
/-! DEFINITION. The events that may happen next, and the choice among them (R62, R140, log 2, log 3): what the module does by
itself, the outside event that comes next, and one issue for each spout that has a ready jet. -/

namespace Sys2Proof.Machine

/-! ### Events by their owners -/

/-- The items of a pending operation that may be performed or land next: words to be written to the scratchpad, destinations of one
that has been performed, words to be read, or a walk that waited and is tried again unless the jet waits for a fault. -/
def LongOp.items (faulted : Bool) (o : LongOp) : Nat :=
  Nat.max o.scr.length
    (match o.val with
    | some _ => o.dests.length
    | none =>
      if o.addressed && o.pa.isNone then (if faulted then 0 else 1)
      else if o.unperformed then o.wordsLeft.length else 0)

/-- The events of one pending operation of a jet. -/
def LongOp.events (faulted : Bool) (now mhz b j k : Nat) (o : LongOp) : List Instr :=
  (match o.val, o.kind with
    | none, .atom _ _ | none, .cas _ _ | none, .ctradd _ =>
      if o.pa.isSome || !faulted then [Instr.atomicPerform b j k] else []
    | none, .grow _ => [Instr.growPerform b j k]
    | none, .texf _ _ _ _ | none, .hgrid _ _ _ _ _ => [Instr.filterLookup b j k]
    | _, _ => (List.range (o.items faulted)).map fun d => Instr.longWriteLands b j (128 * k + d))
    ++ (if o.unperformed && !o.urgent && !o.promoted && decide (2048 * mhz ≤ (now - o.since) * 1200) then
        [Instr.requestAgePromotion b j (3 * k)] else [])

/-- The event of one thread's wait. -/
def Thread.events (b j l : Nat) (t : Thread) : List Instr :=
  match t.wait with
    | .counter _ _ _ _ _ => [Instr.waitgeSatisfied b j l]
    | .commit _ _ => [Instr.txCommit b j l]
    | .none | .operand _ | .landed | .drain _ | .acc _ _ | .ray _ _ | .bar | .mask _ | .reord _ | .slot | .token
    | .written | .fault | .saveExit | .held | .short _ => []

/-- The events of one jet. -/
def State.jetEvents (s : State) (b : Nat) (B : Basin) (j : Nat) (J : Jet) : List Instr :=
  (J.longs.mapIdx fun k (o : LongOp) => o.events (s.accessFaulted b j) s.cycle s.coreMhz b j k).flatten
    ++ J.threads.flatMap (fun e => e.2.events b j e.1)
    ++ (match J.storeQ with
        | q :: _ => if q.pa.isSome || !s.accessFaulted b j then [Instr.storePointPassed b j] else []
        | [] => [])
    ++ (if J.run = .blocked ∧ s.jetReady b B j J = true then [Instr.jetWake b j] else [])

/-- The events of one basin. -/
def State.basinEvents (s : State) (b : Nat) (B : Basin) : List Instr :=
  B.jets.flatMap (fun e => s.jetEvents b B e.1 e.2)
    ++ (List.range B.matQ.length).map (fun k => Instr.matrixOpComplete b k)
    ++ (if B.reordReady then [Instr.reordRepack b] else [])
    ++ (if s.exitDue b B then [Instr.basinExit b] else [])

/-- The events of one write on its way, the `k`-th: the whole of what is left of it, or one word where its words are events of their
own (R224), and its promotion (R25). -/
def State.writeEvents (s : State) (k : Nat) (w : Write) : List Instr :=
  match w.stage with
  | .sent =>
    [.storePerformed k]
      ++ ((List.range w.words.length).filter fun i => (w.words[i]?).any (s.divisible w)).map (fun i =>
          Instr.storePerformed (k + s.writes.length * (i + 1)))
      ++ (if !w.promoted && s.aged w.since then [Instr.requestAgePromotion w.basin w.jet (3 * k + 1)] else [])
  | .performed => [.storeAck k]
  | .dropped => [.writeDropReport k]

/-- The events of one launch. -/
def State.launchEvents (s : State) (n : Nat) (L : Launch) : List Instr :=
  (if L.stage = .staging then [Instr.staging n] else [])
    ++ (if L.unplaced then [Instr.basinPlace n] else [])
    ++ (if L.unplaced && (L.reserved.get? L.nextIndex).isNone && decide (L.waitedSince + microseconds 100 ≤ s.time) then
        [Instr.placementWaitTimeout n] else [])
    ++ (if s.launchOver n L then [Instr.launchComplete n] else [])

/-- The events of one copy. -/
def State.copyEvents (s : State) (k : Nat) (c : Copy) : List Instr :=
  (if s.copyReady c then
    ((List.range (copyRequests (copyDesc c.desc)).length).filter fun w => !c.done.contains w).map fun w =>
      Instr.copyService k w
  else [])
    ++ (if c.faulted then [] else if c.failed then [Instr.copyFaultEnd k]
        else if c.allDone then [Instr.copyComplete k] else [])
    ++ (if !c.promoted && s.aged c.since then
        let o := c.owner.getD (0, 0)
        [Instr.requestAgePromotion o.1 o.2 (3 * k + 2)]
      else [])

/-- The events of one enabled queue. -/
def State.queueEvents (s : State) (c q : Nat) : List Instr :=
  [Instr.tailPoll c q]
    ++ (if s.packetWaits c q then [Instr.launchPacket c q, .copyPacket c q, .structureUpdatePacket c q] else [])
    ++ (if s.wh.update.isSome then [Instr.queueFirmwareSwap c q] else [])

/-- The event of a mailbox in which a command waits (Table 27.6). -/
def State.mailboxEvents (s : State) (mb : Nat) : List Instr :=
  if s.mbNat mb 4 4 = 1 then
    match s.mbNat mb 0 4 with
    | 1 => [.getconfig mb]
    | 2 => [.setpower mb]
    | 3 => [.invalidate mb]
    | 4 => [.endlaunch mb]
    | 5 => [.resolve mb]
    | 6 => [.refuse mb]
    | 7 => [.report mb]
    | 8 => [.update mb]
    | 9 => [.setparam mb]
    | 10 => [.clearjournal mb]
    | 11 => [.readlog mb]
    | _ => []
  else []

/-- The events of the rays of the traversal units. -/
def State.rayEvents (s : State) : List Instr :=
  (if s.rays.isEmpty then []
    else (List.range 16).flatMap fun st => [Instr.rayArrive st, .enginePick st])
    ++ (s.rays.mapIdx fun k (r : Ray) =>
      (if r.state = .traversing then [Instr.rayTraverse k] else [])
        ++ (if r.oddSince.isSome then [Instr.nodeVersionTimeout k] else [])).flatten
    ++ (List.range s.answers.length).map Instr.answerArrives

/-- Everything that the module may do by itself. -/
def State.events (s : State) : List Instr :=
  if s.wh.started = false then [.moduleStart]
  else
    s.basins.flatMap (fun e => s.basinEvents e.1 e.2)
      ++ (s.writes.mapIdx fun k (w : Write) => s.writeEvents k w).flatten
      ++ s.launches.flatMap (fun e => s.launchEvents e.1 e.2)
      ++ (s.copies.mapIdx fun k (c : Copy) => s.copyEvents k c).flatten
      ++ s.enabledQueues.flatMap (fun e => s.queueEvents e.1 e.2)
      ++ (s.wh.queues.filter fun e => (s.headWait (e.1 / 256) (e.1 % 256)).isSome).map
          (fun e => Instr.counterWaitSatisfied (e.1 / 256) (e.1 % 256))
      ++ (if s.wh.update.isSome then [Instr.queueFirmwareSwap 0 0] else [])
      ++ (List.range s.faults.length).flatMap (fun k => [Instr.faultResolved k, .faultUnresolvable k])
      ++ (List.range s.pageReqs.length).map Instr.pageRequestServiced
      ++ s.rayEvents
      ++ (if s.updates.isEmpty then [] else [Instr.sueUpdate, .config])
      ++ s.slotQ.map (fun r => Instr.txSlotGrant r.1)
      ++ (if s.token.holder = none ∧ s.token.queue ≠ [] then [Instr.tokenGrant] else [])
      ++ (s.usedSpouts.filter fun e => s.rotationDue e.1 e.2).map (fun e => Instr.rotationSwap e.1 e.2)
      ++ (if s.wh.forward.isEmpty then [] else [Instr.peerForwarding])
      ++ s.mailboxEvents 0 ++ s.mailboxEvents 1

/-! ### The choice -/

/-- What a step may do. -/
inductive Action where
  | event (i : Instr)
  /-- The first event of the agenda. -/
  | outside (i : Instr)
  /-- The first access or error from outside. -/
  | foreign (f : Foreign)
  | issue (core sp : Nat)
  deriving DecidableEq, Repr

/-- An outside event that happens later: a migration that an irrevocable lane holds back (R215). -/
def State.outsideWaits (s : State) (i : Instr) : Bool :=
  match i with
  | .migration c va _ => s.moveWaits c va
  | _ => false

/-- The threads whose timer has run out: they abort at that moment, before anything else happens (R267). -/
def State.timeouts (s : State) : List Instr :=
  s.basins.flatMap fun e => e.2.jets.flatMap fun j =>
    (j.2.threads.filter fun t => t.2.timedOut s.cycle).map fun t => .timeout e.1 j.1 t.1

/-- Everything that may happen next. -/
def State.actions (s : State) : List Action :=
  if s.timeouts ≠ [] then s.timeouts.map Action.event
  else
  s.events.map Action.event
    ++ (match s.agenda with | i :: _ => if s.outsideWaits i then [] else [Action.outside i] | [] => [])
    ++ (match s.foreign with | f :: _ => [Action.foreign f] | [] => [])
    ++ (s.usedSpouts.filter fun e => (s.nextJet e.1 e.2).isSome).map fun e => Action.issue e.1 e.2

/-- The next action: the only one, or a free choice among several (R140). -/
def State.choose (s : State) : Option Action :=
  match s.actions with
  | [] => none
  | [a] => some a
  | a :: b :: rest => (a :: b :: rest)[Config.pick s.tick % (rest.length + 2)]?

/-- Events outside the module, and those whose parameters the controller chooses freely: the agenda holds only such (log 3). -/
def outsideEvent (i : Instr) : Bool :=
  match i with
  | .linkDown _ | .flitCrcFailure _ | .startStepTimeout _ | .powerClockStep _ | .contextDescriptorWrite _ _ _ _
  | .queueDescriptorWrite _ _ _ _ _ | .controlSpaceWrite _ _ _ | .eccScrubbing _ | .migration _ _ _ => true
  | _ => false

/-- Performs an action. -/
def State.act (s : State) (a : Action) : Host.Outcome State Fault Refusal :=
  match a with
  | .event i => exec i s
  | .outside i => if outsideEvent i then exec i { s with agenda := s.agenda.drop 1 } else .next { s with agenda := s.agenda.drop 1 }
  | .foreign f => .next (s.foreignAct f)
  | .issue core sp => s.issueSpout core sp

/-- What follows every action: the moves of Table 3.6 and the passing of time (log 4), in core cycles and, at the core clock in
force, in picoseconds (R14, R26). -/
def State.after (s : State) : State :=
  State.noteAll { s.settle.pass (Config.elapsed s.tick) with tick := s.tick + 1 }

end Sys2Proof.Machine
end

