-- ==== Sys2Proof/Machine/Loaded.lean ====
section
/-! DEFINITION. A module into which a one-word program has been loaded from outside (log 16): its page tables, its word, and
one running basin. -/

namespace Sys2Proof.Machine

/-- A leaf that is valid, readable, writable, executable, for user mode, accessed and dirty. -/
def loadedLeaf (frame : Nat) : Nat := frame + 0x7F

/-- Page tables at 0x1000 to 0x4FFF map the page at 0x1_0000 to the frame at 0x1_0000, where the word lies. -/
def loadedMemory (m : Memory) (w : Nat) : Memory :=
  let put := fun (m : Memory) (pa v n : Nat) =>
    (List.range n).foldl (fun (m : Memory) i => Cells.set 0 m (pa + i) (BitVec.ofNat 8 (v / 256 ^ i))) m
  put (put (put (put (put m 0x1000 0x2001 8) 0x2000 0x3001 8) 0x3000 0x4001 8) 0x4080 (loadedLeaf 0x10000) 8) 0x10000 w 4

/-- The device block and the descriptor of context 0: L is 48 GiB, core 0 is in service, the root is 0x1000, the trap
handler stands at 0x2_0000. -/
def loadedControl : Cells Byte :=
  [(0x1C, 48), (0x200, 1), (0x10000, 1), (0x10009, 0x10), (0x10012, 2)]

/-- The shape of the loaded launch: one jet, with every register, reservoir and accumulator. -/
def loadedShape : Shape := ⟨0, 1, 16, 8, 32, 0x80000, 0x100000⟩

/-- The loaded launch. -/
def loadedLaunch : Launch :=
  { ctx := 0, queue := 0, cls := 0, packet := 0x20000, stage := .running, shape := loadedShape, widths := [0, 0, 0, 0]
    entry := 0x10000, args := 0, const := [0, 0, 0, 0, 0, 0], count := 1, ceiling := 1, initial := 1, next := 1
    saved := [], dieMask := none, stackHint := none, cosched := false, signal := none, wait := none
    stagingList := none, pinned := [], passed := [], lastDie := 0, waitingSince := 0, reserved := [], served := 0 }

/-- The loaded basin: its jet is ACTIVE in slot 0. -/
def loadedBasin : Basin :=
  { launch := 1, ctx := 0, cls := 0, index := 0, core := 0, shape := loadedShape
    jets := [(0, { newJet loadedLaunch 0 0 0 0 with run := .active })] }

/-- `s` with the program loaded and nothing else to happen. -/
def State.loaded (s : State) (w : Nat) : State :=
  { s with
    agenda := [], foreign := [], mem := loadedMemory s.mem w, poison := [], latent := [], stale := [], l1 := [], tlb := []
    basins := [(0, loadedBasin)], nextBasin := 1, launches := [(1, loadedLaunch)]
    writes := [], faults := [], pageReqs := [], copies := [], updates := [], rays := [], answers := []
    token := {}, slotQ := [], spouts := [], ctl := loadedControl
    wh := { s.wh with started := true, seq := 2, queues := [], update := none, forward := [], sideband := [] } }

end Sys2Proof.Machine
end

