-- ==== Sys2Proof/Machine/Step.lean ====
section
/-! DEFINITION. One step of the module, and the state in which a given word is fetched next. -/

namespace Sys2Proof.Machine

/-- One step: one action, or the passing of time where nothing can happen. -/
def step (s : State) : Host.Outcome State Fault Refusal :=
  match s.choose with
  | none => .next s.after
  | some a =>
    match s.act a with
    | .next t => .next t.after
    | .fault r => .fault r
    | .refused r => .refused r

/-- `s` with one jet of one basin ACTIVE on core 0, whose threads are about to fetch the word at virtual address 0x1_0000,
and nothing else to happen (log 16). -/
def State.withFetchWord (s : State) (nbits w : Nat) : State := s.loaded (if nbits ≤ 32 then w % 2 ^ 32 else 0)

end Sys2Proof.Machine
end

