-- ==== Sys2Proof/Safety.lean ====
section
/-! DEFINITION. What the statements speak of: sound states, the conditions under which an issue acts, and the shapes of what
an issue leaves. -/

namespace Sys2Proof.Machine

/-! ### Sound states -/

/-- What every step keeps: memory and the control space are in canonical form, the next launch number is one that R46 gives
(1 to 2^32 − 1), and no more error records are kept than the ring holds (R404). -/
structure Sound (s : State) : Prop where
  memory : Memory.wf s.mem = true
  control : Cells.wf (0 : Byte) s.ctl = true
  launchNumber : 1 ≤ s.wh.seq ∧ s.wh.seq ≤ 4294967295
  errorRing : s.errors.length ≤ 16384

/-- The threads of a jet are listed by rising lanes, 0 to 31 (R33). -/
structure Jet.Ordered (J : Jet) : Prop where
  sorted : Cells.sortedFrom none J.threads = true
  lanes : ∀ e ∈ J.threads, e.1 < 32

/-- Every list that stands for a map is listed by rising keys, and what is in canonical form stays so; a jet that has exited
has no threads (R146), and a window base is at least 32 (R73, R91). -/
structure Regular (s : State) : Prop where
  basins : Cells.sortedFrom none s.basins = true
  jets : ∀ b B, (b, B) ∈ s.basins → Cells.sortedFrom none B.jets = true
  threads : ∀ b B j J, (b, B) ∈ s.basins → (j, J) ∈ B.jets → J.Ordered
  exited : ∀ b B j J, (b, B) ∈ s.basins → (j, J) ∈ B.jets → J.run = .exited → J.threads = []
  window : ∀ b B j J, (b, B) ∈ s.basins → (j, J) ∈ B.jets → 32 ≤ J.wb
  logs : ∀ b B j J l T, (b, B) ∈ s.basins → (j, J) ∈ B.jets → (l, T) ∈ J.threads →
    Cells.sortedFrom none T.tx.rlog = true ∧ Cells.sortedFrom none T.tx.wlog = true
  scratch : ∀ b B, (b, B) ∈ s.basins → Cells.wf (0 : Byte) B.scratch = true
  region : ∀ b B, (b, B) ∈ s.basins → Cells.wf (0 : Byte) B.region = true
  accs : ∀ b B, (b, B) ∈ s.basins → Cells.wf (0 : Word) B.accs = true
  tiles : ∀ b B, (b, B) ∈ s.basins → Cells.sortedFrom none B.tiles = true
  launches : Cells.sortedFrom none s.launches = true
  saved : ∀ n L r, (n, L) ∈ s.launches → r ∈ L.saved → List.Pairwise (fun (x y : Nat) => x < y) r.jets
  sideband : Cells.wf (0 : Byte) s.wh.sideband = true

/-- The unit of alignment of a pending operation (R173). -/
def LongKind.unit : LongKind → Nat
  | .load n => n
  | .ldnr n _ => n
  | .reservoir => 16
  | .atom _ _ | .cas _ _ => 4
  | .ctradd _ => 8
  | .ready _ | .grow _ | .texf _ _ _ _ | .hgrid _ _ _ _ _ => 1

/-- The bytes of one request lie in one 128-byte line (R190). -/
def InLine {β : Type} (c : Cells β) : Prop := Cells.sortedFrom none c = true ∧ ∀ e ∈ c, e.1 < 128

/-- Every request on its way is aligned as its instruction was (R173, R190, R253), before and after its translation. -/
structure Aligned (s : State) : Prop where
  tlb : ∀ e ∈ s.tlb, 12 ≤ e.bits
  longs : ∀ b B j J o, (b, B) ∈ s.basins → (j, J) ∈ B.jets → o ∈ J.longs →
    o.va.toNat % o.kind.unit = 0 ∧ ∀ pa, o.pa = some pa → pa % o.kind.unit = 0
  stores : ∀ b B j J q, (b, B) ∈ s.basins → (j, J) ∈ B.jets → q ∈ J.storeQ →
    q.va.toNat % 128 = 0 ∧ (∀ pa, q.pa = some pa → pa % 128 = 0) ∧ InLine q.data
  writes : ∀ w ∈ s.writes, w.pa % 128 = 0 ∧ InLine w.data
  logs : ∀ b B j J l T, (b, B) ∈ s.basins → (j, J) ∈ B.jets → (l, T) ∈ J.threads →
    (∀ e ∈ T.tx.wlog, e.1 % 4 = 0 ∧ e.1 < 0x180000000000) ∧ ∀ e ∈ T.tx.rlog, e.1 % 4 = 0 ∧ e.1 < 0x180000000000

/-! ### Issues -/

/-- The issue in hand passes the checks of R100 and the interlocks of R77 and R81 for the given operands, in basin `B` and
jet `J`, with some lane executing (R60). -/
structure Issues (s : State) (o : Operands) (B : Basin) (J : Jet) : Prop where
  basin : s.basins.get? s.cur.basin = some B
  jet : B.jets.get? s.cur.jet = some J
  allowed : ¬ (s.cur.window = true ∧ o.barred = true)
  registers : regsOk B.shape J.wb o = true
  lanes : s.cur.exec ≠ 0
  landed : ¬ (o.ends = true ∧ writesPending J.longs (o.endLanes J s.cur.exec) = true)
  operands : operandsPending J.longs s.cur.exec (o.laneDests B.shape J.wb) (o.ureads.map Dest.ureg) = false
  seen : o.seen J.longs s.cur.exec = false

/-- The pending operations `new` are `old` ones, each with some of its destinations discarded and its shadow shorter. -/
def Narrowed (old new : List LongOp) : Prop :=
  ∀ o' : LongOp, o' ∈ new → ∃ o : LongOp, o ∈ old ∧ o' = { o with shadow := o'.shadow, dests := o'.dests } ∧ o'.shadow ≤ o.shadow ∧
    ∀ e ∈ o'.dests, e ∈ o.dests

/-- The matrix operations `new` are the `old` ones, some of them marked touched (R239). -/
def Touched (old new : List MatOp) : Prop :=
  new.length = old.length ∧ ∀ (k : Nat) (o' : MatOp), new[k]? = some o' → ∃ o : MatOp, old[k]? = some o ∧ o' = { o with touched := o'.touched }

/-- What a thread of the issuing group keeps and gains by retiring: the next word's address, no wait, one word fewer of its
guard window (R85, R88). -/
def Thread.advanced (t : Thread) (issuing : Bool) : Thread := if issuing then t.pass else t

/-- `s` with nothing changed but the issuing jet, and the matrix operations of its basin. -/
def State.withIssued (s : State) (B : Basin) (J : Jet) (matQ matDone : List MatOp) : State :=
  { s with basins := s.basins.put s.cur.basin { B with
      jets := B.jets.put s.cur.jet J, matQ := matQ, matDone := matDone } }

/-- `t` is `s` after an issue that writes only words and predicates of its executing lanes and then retires: `words` and
`preds` give the destinations and their new values from a lane and its thread before the issue. Everything else of the module
is unchanged, but for pending long writes discarded (R80), their shadows (R78) and marks on matrix operations (R239). -/
structure LaneResult (s t : State) (B : Basin) (J : Jet) (words : Nat → Thread → List (Nat × Word))
    (preds : Nat → Thread → List (Nat × Bool)) : Prop where
  frame : ∃ threads longs matQ matDone,
    t = s.withIssued B { J with threads := threads, longs := longs } matQ matDone
      ∧ Narrowed J.longs longs ∧ Touched B.matQ matQ ∧ Touched B.matDone matDone
  lane : ∀ l T, J.threads.get? l = some T → ∃ T', t.thread? s.cur.basin s.cur.jet l = some T'
    ∧ T' = { T.advanced (s.cur.group.getLsbD l) with words := T'.words, preds := T'.preds }
    ∧ (∀ w, T'.word w = if s.cur.exec.getLsbD l then ((words l T).lookup w).getD (T.word w) else T.word w)
    ∧ (∀ p, T'.pred p = if p ≠ 0 ∧ s.cur.exec.getLsbD l = true then ((preds l T).lookup p).getD (T.pred p) else T.pred p)
  none : ∀ l, J.threads.get? l = none → t.thread? s.cur.basin s.cur.jet l = none

/-- `t` is `s` after an issue that writes only uniform registers of its jet, once (R61), and then retires: `regs` gives the
new values; s0 to s7 are never written (R76). -/
structure UniformResult (s t : State) (B : Basin) (J : Jet) (regs : List (Nat × Word)) : Prop where
  frame : ∃ threads sregs longs,
    t = s.withIssued B { J with threads := threads, sregs := sregs, longs := longs } B.matQ B.matDone
      ∧ Narrowed J.longs longs
  lane : ∀ l, t.thread? s.cur.basin s.cur.jet l = (J.threads.get? l).map fun T => T.advanced (s.cur.group.getLsbD l)
  register : ∀ J', t.jet? s.cur.basin s.cur.jet = some J' →
    ∀ r, J'.sreg r = if 8 ≤ r then (regs.lookup r).getD (J.sreg r) else J.sreg r

/-- The instruction completes with one value for each destination word of each executing lane. -/
def LaneCompletes (i : Instr) (s : State) (B : Basin) (J : Jet) (words : Nat → Thread → List (Nat × Word)) : Prop :=
  ∃ t, exec i s = .next t ∧ LaneResult s t B J words fun _ _ => []

/-- The instruction completes with one value for each destination predicate of each executing lane. -/
def PredCompletes (i : Instr) (s : State) (B : Basin) (J : Jet) (preds : Nat → Thread → List (Nat × Bool)) : Prop :=
  ∃ t, exec i s = .next t ∧ LaneResult s t B J (fun _ _ => []) preds

/-- The instruction completes with new values of uniform registers. -/
def UniformCompletes (i : Instr) (s : State) (B : Basin) (J : Jet) (regs : List (Nat × Word)) : Prop :=
  ∃ t, exec i s = .next t ∧ UniformResult s t B J regs

/-- `t` is `s` after an issue that changes only its own jet: the fields of the jet but its threads and pending operations
are those of `K`, and each thread becomes what `f` gives for its lane. -/
structure JetResult (s t : State) (B : Basin) (J K : Jet) (f : Nat → Thread → Thread) : Prop where
  frame : ∃ threads longs matQ matDone,
    t = s.withIssued B { K with threads := threads, longs := longs } matQ matDone ∧ Narrowed J.longs longs
      ∧ Touched B.matQ matQ ∧ Touched B.matDone matDone
  lane : ∀ l, t.thread? s.cur.basin s.cur.jet l = (J.threads.get? l).map (f l)

/-- The instruction completes so. -/
def JetCompletes (i : Instr) (s : State) (B : Basin) (J K : Jet) (f : Nat → Thread → Thread) : Prop :=
  ∃ t, exec i s = .next t ∧ JetResult s t B J K f

/-- Lane `l` executes, or belongs to the issuing group. -/
def State.executes (s : State) (l : Nat) : Bool := s.cur.exec.getLsbD l
def State.issues (s : State) (l : Nat) : Bool := s.cur.group.getLsbD l

/-- No executing lane is inside an ordinary transaction. -/
def NoTransaction (s : State) (J : Jet) : Prop :=
  ∀ l T, (l, T) ∈ J.threads → s.executes l = true → T.inTx = false

/-- The lanes of a jet that wait at mask `m` outside the issuing group (R150). -/
def waitersOn (s : State) (J : Jet) (m : Nat) : Lanes :=
  J.lanesWith (fun T => decide (T.wait = .mask m)) &&& ~~~ s.cur.group

/-! ### Memory as the statements read it -/

/-- The walk of an address ends at a leaf whose A bit, and D bit for a write, are set already, or at none: a translation then
changes no memory (R189). The lines that the irrevocable lane holds are no matter: they only hold others back (R268). -/
def Accessed (s : State) (ctx va : Nat) (acc : Access) : Prop :=
  ∀ a e level,
    State.findLeaf { s with token := { s.token with lines := [] } } va 3 (s.root ctx) = .leaf a e level →
    pteBit e 5 = true ∧ (acc = .write → pteBit e 6 = true)

/-- No granule of the `n` bytes at an address is poisoned, or holds an error not yet found (R217). -/
def Clean (s : State) (pa n : Nat) : Prop :=
  ∀ g ∈ granules pa n, s.poison.contains g = false ∧ s.latent.contains g = false

/-- Memory reads the same everywhere but at the `n` bytes at an address. -/
def SameOutside (s t : State) (pa n : Nat) : Prop :=
  ∀ a, ¬ (pa ≤ a ∧ a < pa + n) → Cells.get 0 t.mem a = Cells.get 0 s.mem a

/-- Every thread of a jet is as before, those of the issuing group one word further. -/
def Advanced (s t : State) (J : Jet) : Prop :=
  ∀ l T, J.threads.get? l = some T → t.thread? s.cur.basin s.cur.jet l = some (T.advanced (s.issues l))

/-- The byte that the L1 of a core holds at an offset of a line, where it holds one. -/
def State.cached (s : State) (core line off : Nat) : Option Byte :=
  ((s.l1.get? core).bind fun c => c.get? line).bind fun d => d.get? off

/-- The kind with which an access of `n` bytes to a global address fails at its issue (Table 11.6, R193). -/
def globalKind (va : Dword) (n : Nat) : Option (BitVec 4) :=
  if 2 ^ 48 ≤ va.toNat then some 7 else if va.toNat % n ≠ 0 then some 8 else none

/-- The same of an access to a scratchpad of some bytes. -/
def scratchKind (scr : Nat) (ea : Word) (n : Nat) : Option (BitVec 4) :=
  if ea.toNat % n ≠ 0 then some 8 else if scr < ea.toNat + n then some 9 else none

/-- A waiting thread at a phase of a barrier (R157): where the phase differs from the one it recorded, it is released, and the release
is latched if the thread is not at its `BAR` now. -/
def Thread.atPhase (T : Thread) (bar : Nat) (phase : Word) : Thread :=
  if T.bstate = 1 ∧ T.barno.toNat = bar ∧ T.arrphase ≠ phase then
    if T.wait = .bar then { T with wait := .none, bstate := 0 } else { T with bstate := 2 }
  else T

/-- A little-endian word of a scratchpad. -/
def Basin.scrWord (B : Basin) (off : Nat) : Word :=
  B.scr (off + 3) ++ B.scr (off + 2) ++ B.scr (off + 1) ++ B.scr off

/-- The values of `ATOMS` for lanes in order: memory by word offset, and the old words (R181). -/
def atomsInOrder (op : AtomOp) (ea v : Nat → Word) : List Nat → (Nat → Word) → (Nat → Word) × List Word
  | [], m => (m, [])
  | l :: rest, m =>
    let old := m (ea l).toNat
    let r := atomsInOrder op ea v rest fun x => if x = (ea l).toNat then atomResult op old (v l) else m x
    (r.1, old :: r.2)

/-! ### Accesses inside ordinary transactions -/

/-- A thread of the issue whose transaction aborts: the word at which it aborts was its own (R85), and it goes on behind its `TXB`,
skipping, its logs empty (R257); TXSTAT has the code, the depth and the fault kind (Table 15.4). -/
def Thread.aborted (T : Thread) (code kind : Nat) : Thread :=
  { T with
    pc := T.tx.txbpc + 4, wait := .none
    guardLeft := T.guardLeft - 1, guardBit := T.guardBit && decide (1 < T.guardLeft)
    tx := { T.tx with rlog := [], wlog := [], pages := [], since := none, depth := 0, irr := false, skip := 1, passed := 0,
                      stat := BitVec.ofNat 32 (code + T.tx.depth % 8 * 16 + kind * 65536) } }

/-- The issue aborts lane `l` and moves the rest of its group on; memory becomes `mem`, and no store leaves. -/
def TxAborts (i : Instr) (s : State) (J : Jet) (l code kind : Nat) (mem : List Host.Cell) : Prop :=
  ∃ t, exec i s = .next t ∧ t.mem = mem ∧ t.writes = s.writes
    ∧ ∀ k U, J.threads.get? k = some U → t.thread? s.cur.basin s.cur.jet k =
        some (if k = l then U.aborted code kind else U.advanced (s.issues k))

/-- Where the transactional access of lane `l` does not reach a word of memory (R254, R265): a bad address, and a page that the walk
finds faulty, abort it with FAULT (4) and the kind (but NOTVALID not at `LDNR`), and a page in the system window or the control
space aborts it with UNSUPP (8). A page found NOTVALID is asked for where the core has room for it (log 63). -/
def TxAddress (i : Instr) (s : State) (B : Basin) (J : Jet) (l : Nat) (ea : Dword) (n : Nat) (acc : Access) (ldnr : Bool) : Prop :=
  (∀ k, globalKind ea n = some k → TxAborts i s J l 4 k.toNat s.mem)
  ∧ (globalKind ea n = none →
    (∀ s1 k z, s.translate (corePlace B.core) B.ctx J.sys ea.toNat acc = (s1, .fault k z) → ¬ (ldnr = true ∧ k = 1) →
      TxAborts i s J l 4 k.toNat s1.mem
      ∧ (k = 1 → s1.pagesAsked B.core < 64 → ∃ t, exec i s = .next t
          ∧ ((∃ r ∈ t.pageReqs, r.core = B.core ∧ r.ctx = B.ctx ∧ r.vpn = ea.toNat / 4096)
            ∨ ∃ pa, s1.look B.ctx J.sys (4096 * (ea.toNat / 4096)) .read = .ok pa)))
    ∧ ∀ s1 pa, s.translate (corePlace B.core) B.ctx J.sys ea.toNat acc = (s1, .ok pa) →
      inWindow pa = true ∨ inControl pa = true → TxAborts i s J l 8 0 s1.mem)

/-- The byte that the write log of a transaction holds for an address (R253). -/
def Tx.logged (t : Tx) (x : Nat) : Option Byte :=
  (t.wlog.get? (x / 4 * 4)).bind fun e => if e.mask.getLsbD (x % 4) then some (e.val.extractLsb' (8 * (x % 4)) 8) else none

/-- The byte that a transaction reads at an address: its own write, else what its read log holds, else memory's (R252). -/
def Tx.sees (t : Tx) (mem : List Host.Cell) (x : Nat) : Byte :=
  (t.logged x).getD
    (match t.rlog.get? (x / 4 * 4) with
    | some w => w.extractLsb' (8 * (x % 4)) 8
    | none => Cells.get 0 mem x)

/-! ### Shapes of vector and uniform instructions -/

/-- d := f of nothing. -/
def NoSource (i : Instr) (d : Reg) (v : Word) : Prop :=
  ∀ s B J, Issues s { named := [d.toNat] } B J → LaneCompletes i s B J fun _ _ => [(mapReg J.wb d.toNat, v)]

/-- d := f A. -/
def OneSource (i : Instr) (d a : Reg) (f : Word → Word) : Prop :=
  ∀ s B J, Issues s { named := [d.toNat, a.toNat], reads := [a.toNat] } B J →
    LaneCompletes i s B J fun _ T => [(mapReg J.wb d.toNat, f (T.word (mapReg J.wb a.toNat)))]

/-- d := f A B. -/
def TwoSource (i : Instr) (d a b : Reg) (f : Word → Word → Word) : Prop :=
  ∀ s B J, Issues s { named := [d.toNat, a.toNat, b.toNat], reads := [a.toNat, b.toNat] } B J →
    LaneCompletes i s B J fun _ T =>
      [(mapReg J.wb d.toNat, f (T.word (mapReg J.wb a.toNat)) (T.word (mapReg J.wb b.toNat)))]

/-- d := f A B D. -/
def ThreeSource (i : Instr) (d a b : Reg) (f : Word → Word → Word → Word) : Prop :=
  ∀ s B J, Issues s { named := [d.toNat, a.toNat, b.toNat], reads := [a.toNat, b.toNat, d.toNat] } B J →
    LaneCompletes i s B J fun _ T =>
      [(mapReg J.wb d.toNat,
        f (T.word (mapReg J.wb a.toNat)) (T.word (mapReg J.wb b.toNat)) (T.word (mapReg J.wb d.toNat)))]

/-- The two words of a pair: the high one is listed first, so that it stands where both names one word. -/
def pairWords (wb d : Nat) (v : Dword) : List (Nat × Word) :=
  [(mapReg wb (d + 1), v.extractLsb' 32 32), (mapReg wb d, v.extractLsb' 0 32)]

/-- A pair of words of a thread (R75). -/
def Thread.two (T : Thread) (wb r : Nat) : Dword := T.word (mapReg wb (r + 1)) ++ T.word (mapReg wb r)

/-- Pair d := f (Pair a) (Pair b). -/
def PairSource (i : Instr) (d a b : Reg) (f : Dword → Dword → Dword) : Prop :=
  ∀ s B J,
    Issues s
      { named := [d.toNat, d.toNat + 1, a.toNat, a.toNat + 1, b.toNat, b.toNat + 1]
        reads := [a.toNat, a.toNat + 1, b.toNat, b.toNat + 1] } B J →
    LaneCompletes i s B J fun _ T => pairWords J.wb d.toNat (f (T.two J.wb a.toNat) (T.two J.wb b.toNat))

/-- Pair d := f A B (Pair d). -/
def WideSource (i : Instr) (d a b : Reg) (f : Word → Word → Dword → Dword) : Prop :=
  ∀ s B J,
    Issues s
      { named := [d.toNat, d.toNat + 1, a.toNat, b.toNat]
        reads := [a.toNat, b.toNat, d.toNat, d.toNat + 1] } B J →
    LaneCompletes i s B J fun _ T =>
      pairWords J.wb d.toNat
        (f (T.word (mapReg J.wb a.toNat)) (T.word (mapReg J.wb b.toNat)) (T.two J.wb d.toNat))

/-- p<d> := f A B. -/
def Compare (i : Instr) (p a b : Reg) (f : Word → Word → Bool) : Prop :=
  ∀ s B J, Issues s { named := [a.toNat, b.toNat], reads := [a.toNat, b.toNat] } B J →
    PredCompletes i s B J fun _ T =>
      [(p.toNat, f (T.word (mapReg J.wb a.toNat)) (T.word (mapReg J.wb b.toNat)))]

/-- s<d> := f s<a> s<b>. -/
def UniformTwo (i : Instr) (d a b : Reg) (f : Word → Word → Word) : Prop :=
  ∀ s B J, Issues s { ureads := [a.toNat, b.toNat] } B J →
    UniformCompletes i s B J [(d.toNat, f (J.sreg a.toNat) (J.sreg b.toNat))]

end Sys2Proof.Machine
end

