-- ==== Sys2Proof/Certificates/Slice0/Obligations.lean ====
section
/-! DEFINITION. The statements for the provers. -/

open Sys2Proof Sys2Proof.Machine

/-! ### Vector arithmetic -/

/-- O1. Table 7.5: the two-source integer instructions that write one word. -/
def Obligations.IntegerTwoSource : Prop :=
  ∀ d a b : Reg,
    TwoSource (.iadd d a b .wrap) d a b (fun x y => x + y)
    ∧ TwoSource (.iadd d a b .ssat) d a b
        (fun x y => BitVec.ofInt 32 (max (-2147483648) (min 2147483647 (x.toInt + y.toInt))))
    ∧ TwoSource (.iadd d a b .nsat) d a b (fun x y => BitVec.ofNat 32 (min (x.toNat + y.toNat) 4294967295))
    ∧ TwoSource (.isub d a b .wrap) d a b (fun x y => x - y)
    ∧ TwoSource (.isub d a b .ssat) d a b
        (fun x y => BitVec.ofInt 32 (max (-2147483648) (min 2147483647 (x.toInt - y.toInt))))
    ∧ TwoSource (.isub d a b .nsat) d a b (fun x y => BitVec.ofNat 32 (x.toNat - y.toNat))
    ∧ TwoSource (.imul d a b) d a b (fun x y => x * y)
    ∧ TwoSource (.imulh d a b .n32) d a b (fun x y => (x.zeroExtend 64 * y.zeroExtend 64).extractLsb' 32 32)
    ∧ TwoSource (.imulh d a b .s32) d a b (fun x y => (x.signExtend 64 * y.signExtend 64).extractLsb' 32 32)
    ∧ (∀ inv : Bool, TwoSource (.and d a b inv) d a b fun x y => x &&& (if inv then y ^^^ 0xFFFFFFFF#32 else y))
    ∧ (∀ inv : Bool, TwoSource (.or d a b inv) d a b fun x y => x ||| (if inv then y ^^^ 0xFFFFFFFF#32 else y))
    ∧ (∀ inv : Bool, TwoSource (.xor d a b inv) d a b fun x y => x ^^^ (if inv then y ^^^ 0xFFFFFFFF#32 else y))
    ∧ TwoSource (.shl d a b) d a b (fun x y => x <<< y.toNat)
    ∧ TwoSource (.shr d a b) d a b (fun x y => x >>> y.toNat)
    ∧ TwoSource (.sar d a b) d a b (fun x y => x.sshiftRight y.toNat)
    ∧ TwoSource (.imin d a b .s32) d a b (fun x y => if x.slt y then x else y)
    ∧ TwoSource (.imin d a b .n32) d a b (fun x y => if x.ult y then x else y)
    ∧ TwoSource (.imax d a b .s32) d a b (fun x y => if x.slt y then y else x)
    ∧ TwoSource (.imax d a b .n32) d a b (fun x y => if x.ult y then y else x)

/-- O2. Table 7.5, R92: the integer instructions with an immediate, and those with one source; the forms on register pairs, the
multiply-adds, the comparison and the selection. -/
def Obligations.IntegerOtherForms : Prop :=
  (∀ (d a : Reg) (imm : BitVec 11) (n : BitVec 5) (imm18 : BitVec 18),
      OneSource (.iaddi d a imm) d a (fun x => x + imm.signExtend 32)
      ∧ OneSource (.andi d a imm) d a (fun x => x &&& imm.signExtend 32)
      ∧ OneSource (.ori d a imm) d a (fun x => x ||| imm.signExtend 32)
      ∧ OneSource (.shlI d a n) d a (fun x => x <<< n.toNat)
      ∧ OneSource (.shrI d a n) d a (fun x => x >>> n.toNat)
      ∧ OneSource (.sarI d a n) d a (fun x => x.sshiftRight n.toNat)
      ∧ OneSource (.popc d a) d a
          (fun x => BitVec.ofNat 32 ((List.range 32).filter fun i => x.getLsbD i).length)
      ∧ OneSource (.clz d a) d a
          (fun x => BitVec.ofNat 32 ((List.range 32).takeWhile fun i => !x.getLsbD (31 - i)).length)
      ∧ NoSource (.movi d imm18) d (imm18.signExtend 32)
      ∧ OneSource (.movhi d imm18) d d (fun x => imm18.extractLsb' 0 16 ++ x.extractLsb' 0 16))
  ∧ (∀ d a b : Reg,
      PairSource (.iadd d a b .b64) d a b (fun x y => x + y)
      ∧ PairSource (.isub d a b .b64) d a b (fun x y => x - y)
      ∧ ThreeSource (.imad d a b .b32) d a b (fun x y z => x * y + z)
      ∧ WideSource (.imad d a b .n64) d a b (fun x y z => x.zeroExtend 64 * y.zeroExtend 64 + z)
      ∧ WideSource (.imad d a b .s64) d a b (fun x y z => x.signExtend 64 * y.signExtend 64 + z)
      ∧ (∀ cc : Cc, d.toNat < 16 → Compare (.icmp d a b cc) d a b fun x y =>
          match cc with
          | .eq => x == y
          | .ne => x != y
          | .lt => x.slt y
          | .le => x.sle y
          | .gt => y.slt x
          | .ge => y.sle x
          | .ltu => x.ult y
          | .leu => x.ule y
          | .gtu => y.ult x
          | .geu => y.ule x)
      ∧ (∀ (p : BitVec 4) (s : State) (B : Basin) (J : Jet),
          Issues s { named := [d.toNat, a.toNat, b.toNat], reads := [a.toNat, b.toNat], preds := [p.toNat] } B J →
          LaneCompletes (.sel d a b p) s B J fun _ T =>
            [(mapReg J.wb d.toNat,
              if T.pred p.toNat then T.word (mapReg J.wb a.toNat) else T.word (mapReg J.wb b.toNat))]))

/-- O3. R127: `BFE` and `BFI`, bit by bit: position and width from B, a field past bit 31 cut there, the sign of A above bit 31 for
the signed form, and a width of 0 gives 0. -/
def Obligations.BitFields : Prop :=
  ∃ (bfeN bfeS : Word → Word → Word) (ins : Word → Word → Word → Word),
    (∀ x y i, i < 32 → (bfeN x y).getLsbD i =
      (decide (i < min ((y.toNat >>> 8) % 256) 32) && x.getLsbD (y.toNat % 256 + i)))
    ∧ (∀ x y i, i < 32 → (bfeS x y).getLsbD i =
      (decide (0 < min ((y.toNat >>> 8) % 256) 32)
        && x.getLsbD (min (y.toNat % 256 + min i (min ((y.toNat >>> 8) % 256) 32 - 1)) 31)))
    ∧ (∀ x y z i, i < 32 → (ins x y z).getLsbD i =
      if y.toNat % 256 ≤ i ∧ i < y.toNat % 256 + min ((y.toNat >>> 8) % 256) 32 then x.getLsbD (i - y.toNat % 256)
      else z.getLsbD i)
    ∧ ∀ d a b : Reg,
      TwoSource (.bfe d a b .n32) d a b bfeN ∧ TwoSource (.bfe d a b .s32) d a b bfeS
        ∧ ThreeSource (.bfi d a b) d a b ins

/-- O4. R119, R128 to R137: the float instructions. Each element is decoded to an exact value, combined exactly and rounded once by
the rounding of its format (`quantise`, R119); `FMIN` and `FMAX` choose one operand bit for bit; then those with one source,
and the packing of two. What `FDIV` gives for an infinity by a finite value, and the sign of the zero that Table 7.6 leaves open,
are the model's choice (log 66). `EXP2`, `LOG2`, `SIN`, `COS` and `TANH` are not combined exactly: they round once a value that the
model computes to 320 fraction bits, which is its own reading (DEDUCED, log 10). -/
def Obligations.FloatArithmetic : Prop :=
  (∀ (d a b : Reg) (rm : Rm),
      (∀ ty : FTy, TwoSource (.fadd d a b ty rm) d a b
          (elements2 ty fun F x y => quantise (exactSum [value F x, value F y] rm) F rm false))
      ∧ (∀ ty : FTy, TwoSource (.fsub d a b ty rm) d a b
          (elements2 ty fun F x y => quantise (exactSum [value F x, (value F y).negate] rm) F rm false))
      ∧ (∀ ty : FTy, TwoSource (.fmul d a b ty rm) d a b
          (elements2 ty fun F x y => quantise (product (value F x) (value F y)) F rm false))
      ∧ (∀ ty : FTy, ThreeSource (.ffma d a b ty rm) d a b
          (elements3 ty fun F x y z => quantise (exactSum [product (value F x) (value F y), value F z] rm) F rm false))
      ∧ (∀ ty : FTy, TwoSource (.fmin d a b ty) d a b (elements2 ty fminBits))
      ∧ (∀ ty : FTy, TwoSource (.fmax d a b ty) d a b (elements2 ty fmaxBits))
      ∧ (∀ ty : FTy, ThreeSource (.fdot2 d a b ty rm) d a b fun x y z =>
          BitVec.ofNat 32 (quantise (exactSum
            [product (value (FTy.fmt ty) (x.toNat % 65536)) (value (FTy.fmt ty) (y.toNat % 65536)),
              product (value (FTy.fmt ty) (x.toNat / 65536)) (value (FTy.fmt ty) (y.toNat / 65536)),
              value .f32 z.toNat] rm) .f32 rm false))
      ∧ TwoSource (.fdiv d a b) d a b fdiv
      ∧ (∀ cc : Fcc, d.toNat < 16 → Compare (.fcmp d a b cc) d a b (Fcc.holds cc)))
  ∧ (∀ (d a b : Reg) (rm : Rm),
      OneSource (.fclass d a) d a fclass
      ∧ (∀ (c : CvtCode) (sat : Bool), OneSource (.cvt d a c sat rm) d a (cvt c sat rm))
      ∧ (∀ ty : FTy, OneSource (.frnd d a ty rm) d a (elements1 ty (frndBits rm)))
      ∧ OneSource (.rcp d a) d a frcp
      ∧ OneSource (.rsq d a) d a frsq
      ∧ OneSource (.sqrt d a) d a fsqrt
      ∧ OneSource (.exp2 d a) d a fexp2
      ∧ OneSource (.log2 d a) d a flog2
      ∧ OneSource (.sin d a) d a fsin
      ∧ OneSource (.cos d a) d a fcos
      ∧ OneSource (.tanh d a) d a ftanh
      ∧ TwoSource (.pack d a b .f16x2) d a b (fun x y =>
          BitVec.ofNat 32 (quantise (value .f32 x.toNat) .f16 .rn false
            + 65536 * quantise (value .f32 y.toNat) .f16 .rn false))
      ∧ TwoSource (.pack d a b .bf16x2) d a b (fun x y =>
          BitVec.ofNat 32 (quantise (value .f32 x.toNat) .bf16 .rn false
            + 65536 * quantise (value .f32 y.toNat) .bf16 .rn false))
      ∧ (∀ f : PackForm, f ≠ .f16x2 → f ≠ .bf16x2 → ThreeSource (.pack d a b f) d a b (packWord f))
      ∧ (∀ f : UnpkForm, OneSource (.unpk d a f) d a (unpkWord f)))

/-! ### Uniform, predicate and mask instructions -/

/-- O5. R138, Table 7.9; R168, R149, R167: the uniform arithmetic instructions execute once for the jet. `BALLOT`, `JRED` and
`MMOV.sm` write one uniform register: the ballot has bit l set exactly for the executing lanes l whose predicate holds (or
not), `JRED` folds the values of the executing lanes in ascending order. -/
def Obligations.UniformInstructions : Prop :=
  (∀ d a b : Reg,
      UniformTwo (.sadd d a b .wrap) d a b (fun x y => x + y)
      ∧ UniformTwo (.sadd d a b .ssat) d a b
          (fun x y => BitVec.ofInt 32 (max (-2147483648) (min 2147483647 (x.toInt + y.toInt))))
      ∧ UniformTwo (.sadd d a b .nsat) d a b (fun x y => BitVec.ofNat 32 (min (x.toNat + y.toNat) 4294967295))
      ∧ (∀ s B J, Issues s { ureads := [a.toNat, a.toNat + 1, b.toNat, b.toNat + 1] } B J → 8 ≤ d.toNat →
          UniformCompletes (.sadd d a b .b64) s B J
            [(d.toNat, (J.spair a.toNat + J.spair b.toNat).extractLsb' 0 32),
              (d.toNat + 1, (J.spair a.toNat + J.spair b.toNat).extractLsb' 32 32)])
      ∧ UniformTwo (.smul d a b .low) d a b (fun x y => x * y)
      ∧ UniformTwo (.smul d a b .hin) d a b (fun x y => (x.zeroExtend 64 * y.zeroExtend 64).extractLsb' 32 32)
      ∧ UniformTwo (.smul d a b .his) d a b (fun x y => (x.signExtend 64 * y.signExtend 64).extractLsb' 32 32)
      ∧ UniformTwo (.slog d a b .and) d a b (fun x y => x &&& y)
      ∧ UniformTwo (.slog d a b .or) d a b (fun x y => x ||| y)
      ∧ UniformTwo (.slog d a b .xor) d a b (fun x y => x ^^^ y)
      ∧ UniformTwo (.slog d a b .andn) d a b (fun x y => x &&& ~~~ y)
      ∧ UniformTwo (.sshf d a b .shl) d a b (fun x y => x <<< y.toNat)
      ∧ UniformTwo (.sshf d a b .shr) d a b (fun x y => x >>> y.toNat)
      ∧ UniformTwo (.sshf d a b .sar) d a b (fun x y => x.sshiftRight y.toNat)
      ∧ (∀ cc : Cc, UniformTwo (.scmp d a b cc) d a b fun x y => if Cc.holds cc x y then 1 else 0)
      ∧ (∀ (imm : BitVec 18) (s : State) (B : Basin) (J : Jet), Issues s {} B J →
          UniformCompletes (.smovi d imm) s B J [(d.toNat, imm.signExtend 32)])
      ∧ (∀ (imm : BitVec 18) (s : State) (B : Basin) (J : Jet), Issues s { ureads := [d.toNat] } B J →
          UniformCompletes (.smovhi d imm) s B J
            [(d.toNat, imm.extractLsb' 0 16 ++ (J.sreg d.toNat).extractLsb' 0 16)]))
  ∧ (∀ (d a : Reg) (s : State) (B : Basin) (J : Jet),
      (∀ inv : Bool, Issues s { preds := [a.toNat] } B J → 8 ≤ d.toNat → ∃ t, exec (.ballot d a inv) s = .next t ∧
        ∃ v, UniformResult s t B J [(d.toNat, v)] ∧
          ∀ l, l < 32 → v.getLsbD l =
            (s.cur.exec.getLsbD l && ((((J.threads.get? l).map fun T => T.pred a.toNat).getD false) != inv)))
      ∧ (∀ f : RedOp, Issues s { named := [a.toNat], reads := [a.toNat] } B J →
          UniformCompletes (.jred d a f) s B J
            [(d.toNat, match (lanesOf s.cur.exec).map fun l => J.vreg l a.toNat with
              | [] => 0
              | x :: rest => rest.foldl (combine f) (reduceFirst f x))])
      ∧ (Issues s {} B J → UniformCompletes (.mmovSm d a) s B J [(d.toNat, J.mask a.toNat)]))

/-- O6. R170, R169: predicates combined and moved, and the identity values of each thread. -/
def Obligations.PredicatesAndIdentity : Prop :=
  ∀ (d a b : Reg) (s : State) (B : Basin) (J : Jet),
    (∀ f : PlogForm, d.toNat < 16 → Issues s { preds := [a.toNat, b.toNat] } B J →
      PredCompletes (.plog d a b f) s B J fun _ T =>
        [(d.toNat, match f with
          | .and => T.pred a.toNat && T.pred b.toNat
          | .or => T.pred a.toNat || T.pred b.toNat
          | .xor => T.pred a.toNat != T.pred b.toNat
          | .andn => T.pred a.toNat && !T.pred b.toNat
          | .orn => T.pred a.toNat || !T.pred b.toNat)])
    ∧ (d.toNat < 16 → Issues s { named := [a.toNat], reads := [a.toNat] } B J →
        PredCompletes (.pmovPv d a) s B J fun _ T => [(d.toNat, (T.word (mapReg J.wb a.toNat)).getLsbD 0)])
    ∧ (Issues s { named := [d.toNat], preds := [a.toNat] } B J →
        LaneCompletes (.pmovVp d a) s B J fun _ T => [(mapReg J.wb d.toNat, if T.pred a.toNat then 1 else 0)])
    ∧ (d.toNat < 16 → Issues s { preds := [a.toNat] } B J →
        PredCompletes (.pmovPp d a) s B J fun _ T => [(d.toNat, T.pred a.toNat)])
    ∧ (Issues s { named := [d.toNat] } B J →
        (LaneCompletes (.idr d .lane) s B J fun l _ => [(mapReg J.wb d.toNat, BitVec.ofNat 32 l)])
        ∧ (LaneCompletes (.idr d .jet) s B J fun _ _ => [(mapReg J.wb d.toNat, BitVec.ofNat 32 s.cur.jet)])
        ∧ (LaneCompletes (.idr d .basin) s B J fun _ _ => [(mapReg J.wb d.toNat, BitVec.ofNat 32 B.index)])
        ∧ (LaneCompletes (.idr d .core) s B J fun _ _ => [(mapReg J.wb d.toNat, BitVec.ofNat 32 B.core)]))
    ∧ (Issues s { named := [d.toNat, d.toNat + 1] } B J →
        (LaneCompletes (.idr d .wid) s B J fun l _ => pairWords J.wb d.toNat
          (BitVec.ofNat 64 (B.index * 2 ^ (5 + B.shape.w1) + s.cur.jet * 32 + l)))
        ∧ (LaneCompletes (.idr d .wid0) s B J fun _ T => pairWords J.wb d.toNat T.wid0))

/-! ### Control transfers, guards, masks and barriers -/

/-- O7. R102 and R143: `CALL` and `CALLX` write the address of the call plus 4 into v28:v29 and then branch; `RET` branches to the
address in v28:v29. `CALLX` reads its target before it writes v28:v29; bits 1:0 of a target are cleared (R70). -/
def Obligations.CallsAndReturns : Prop :=
  ∀ (s : State) (B : Basin) (J : Jet),
    (∀ off : BitVec 25, Issues s { named := [28, 29], barred := true } B J →
      JetCompletes (.call off) s B J J fun l T =>
        if s.executes l then
          { (((T.setWord 28 ((s.cur.pc + 4).extractLsb' 0 32)).setWord 29 ((s.cur.pc + 4).extractLsb' 32 32)).advanced
              (s.issues l)) with
            pc := s.cur.pc + 4 * off.signExtend 64 }
        else T.advanced (s.issues l))
    ∧ (∀ a : Reg, Issues s { named := [28, 29, a.toNat, a.toNat + 1], reads := [a.toNat, a.toNat + 1], barred := true } B J →
      JetCompletes (.callx a) s B J J fun l T =>
        if s.executes l then
          { (((T.setWord 28 ((s.cur.pc + 4).extractLsb' 0 32)).setWord 29 ((s.cur.pc + 4).extractLsb' 32 32)).advanced
              (s.issues l)) with
            pc := T.two J.wb a.toNat &&& ~~~ 3#64 }
        else T.advanced (s.issues l))
    ∧ (Issues s { named := [28, 29], reads := [28, 29], barred := true } B J →
      JetCompletes .ret s B J J fun l T =>
        if s.executes l then { T.advanced (s.issues l) with pc := T.two J.wb 28 &&& ~~~ 3#64 }
        else T.advanced (s.issues l))

/-- O8. R143 and R144: the branches. `BRA` and `BRC` add four times their offset to the address of the transfer; `BRC` is taken by
the lanes whose predicate, negated with `!`, is true; `BRX` goes to the address in a register pair with bits 1:0 cleared. No
other lane's path changes. -/
def Obligations.BranchTargets : Prop :=
  ∀ (s : State) (B : Basin) (J : Jet),
    (∀ off : BitVec 25, Issues s { barred := true } B J →
      JetCompletes (.bra off) s B J J fun l T =>
        if s.executes l then { T.advanced (s.issues l) with pc := s.cur.pc + 4 * off.signExtend 64 }
        else T.advanced (s.issues l))
    ∧ (∀ (neg : Bool) (p : BitVec 4) (off : BitVec 18), Issues s { preds := [p.toNat], barred := true } B J →
      JetCompletes (.brc neg p off) s B J J fun l T =>
        if s.executes l = true ∧ T.pred p.toNat ≠ neg then
          { T.advanced (s.issues l) with pc := s.cur.pc + 4 * off.signExtend 64 }
        else T.advanced (s.issues l))
    ∧ (∀ a : Reg, Issues s { named := [a.toNat, a.toNat + 1], reads := [a.toNat, a.toNat + 1], barred := true } B J →
      JetCompletes (.brx a) s B J J fun l T =>
        if s.executes l then { T.advanced (s.issues l) with pc := T.two J.wb a.toNat &&& ~~~ 3#64 }
        else T.advanced (s.issues l))

/-- O9. R84, R85, R88, R91; R161, R293, R162: `NOP` only advances the group; `GRD` samples its predicate (or its negation) in each
executing lane and guards that lane's next n + 1 words; within a window a lane executes exactly where its guard bit is set.
`WINB` and `SETFMT` write the jet's window base and format mode, once for the issue; `REORD` makes its executing threads
wait with their keys, those that wait there already as before, and in system mode only retires. -/
def Obligations.GuardsAndJetRegisters : Prop :=
  ((∀ (s : State) (B : Basin) (J : Jet), Issues s {} B J →
      JetCompletes .nop s B J J fun l T => T.advanced (s.issues l))
    ∧ (∀ (s : State) (B : Basin) (J : Jet) (k : Reg) (neg : Bool) (n : BitVec 3),
        Issues s { preds := [k.toNat], barred := true } B J →
        JetCompletes (.grd k neg n) s B J J fun l T =>
          if s.executes l then
            { T.advanced (s.issues l) with guardBit := T.pred k.toNat != neg, guardLeft := n.toNat + 1 }
          else T.advanced (s.issues l))
    ∧ (∀ (b j : Nat) (J : Jet) (T U : Thread) (l : Nat), J.Ordered → J.threads.get? l = some U →
        ((State.issueOf b j J T).exec.getLsbD l = true ↔
          (State.issueOf b j J T).group.getLsbD l = true ∧ (U.guardLeft = 0 ∨ U.guardBit = true))))
  ∧ (∀ (s : State) (B : Basin) (J : Jet) (imm : BitVec 18) (a : Reg),
      (Issues s { barred := true, ends := true } B J →
        JetCompletes (.winb imm) s B J { J with wb := imm.toNat } fun l T => T.advanced (s.issues l))
      ∧ (Issues s {} B J →
        JetCompletes (.setfmt imm) s B J { J with fmode := imm } fun l T => T.advanced (s.issues l))
      ∧ (Issues s { named := [a.toNat], reads := [a.toNat], barred := true, ends := true } B J → J.sys = true →
        JetCompletes (.reord a) s B J J fun l T => T.advanced (s.issues l))
      ∧ (Issues s { named := [a.toNat], reads := [a.toNat], barred := true, ends := true } B J → J.sys = false →
        NoTransaction s J →
        JetCompletes (.reord a) s B J J fun l T =>
          if s.executes l = true ∧ T.atReord = false then { T with wait := .reord (mapReg J.wb a.toNat) } else T))

/-- O10. R149, R150, R377: `MARK`, `JOIN`, `LEAVE` and the `MMOV` forms that write a mask: the mask has its new value, every other
mask is as before, and then the threads blocked on a complete mask, and only those, are released. `WAITM`, once
the jet's stores have passed the store point (R236) and its read-modify-writes have been performed (the model's reading, log 50:
R236 names the store queue alone), blocks its executing threads, and releases every thread blocked on a mask
whose lanes are all blocked on it, those of the issue among them; before that it waits; in system mode it only retires. -/
def Obligations.Masks : Prop :=
  (∀ (s : State) (B : Basin) (J : Jet) (m a : Reg),
      let Writes := fun (i : Instr) (o : Operands) (v : Lanes) =>
        Issues s o B J → J.Ordered → m.toNat < 12 → ∃ t K, exec i s = .next t ∧ t.jet? s.cur.basin s.cur.jet = some K
          ∧ (∀ k, K.mask k = if k = m.toNat then v else J.mask k)
          ∧ (∃ longs, t = s.withIssued B { K with longs := longs } B.matQ B.matDone)
          ∧ K = { J with threads := K.threads, masks := K.masks, longs := K.longs, causes := K.causes, run := K.run,
                         since := K.since }
          ∧ (∀ l T, J.threads.get? l = some T → ∃ T', K.threads.get? l = some T'
              ∧ (s.issues l = true → T' = T.pass)
              ∧ (s.issues l = false → ∀ k, T.wait = .mask k → k < 12 →
                  T' = if K.mask k &&& ~~~ waitersOn s J k = 0 then T.pass else T)
              ∧ (s.issues l = false → (∀ k, T.wait ≠ .mask k) → T' = T))
      Writes (.mark m) {} s.cur.exec
      ∧ Writes (.join m) {} (J.mask m.toNat ||| s.cur.exec)
      ∧ Writes (.leave m) {} (J.mask m.toNat &&& ~~~ s.cur.exec)
      ∧ Writes (.mmovMs m a) { ureads := [a.toNat] } (J.sreg a.toNat &&& J.live)
      ∧ Writes (.mmovMm m a) {} (J.mask a.toNat &&& J.live))
  ∧ (∀ (s : State) (B : Basin) (J : Jet) (m : Reg), Issues s { ends := true } B J → J.Ordered → m.toNat < 12 →
      (J.sys = true → JetCompletes (.waitm m) s B J J fun l T => T.advanced (s.issues l))
      ∧ (J.sys = false → NoTransaction s J → J.drained .bsn = false → exec (.waitm m) s = .next (s.hold (.drain false)))
      ∧ (J.sys = false → NoTransaction s J → J.drained .bsn = true → (∀ l, s.executes l = true → s.issues l = true) →
        ∃ t K, exec (.waitm m) s = .next t ∧ t.jet? s.cur.basin s.cur.jet = some K ∧ K.masks = J.masks
          ∧ ∀ l T, J.threads.get? l = some T → ∃ T', K.threads.get? l = some T'
            ∧ (s.executes l = true → T' =
                if J.mask m.toNat &&& ~~~ (waitersOn s J m.toNat ||| (s.cur.exec &&& J.live)) = 0 then T.pass
                else { T with wait := .mask m.toNat })
            ∧ (s.executes l = false → s.issues l = true → T' = T.pass)
            ∧ (s.issues l = false → ∀ k, T.wait = .mask k → k < 12 → T' =
                if J.mask k &&& ~~~ (waitersOn s J k ||| (if k = m.toNat then s.cur.exec &&& J.live else 0)) = 0 then T.pass
                else T)
            ∧ (s.issues l = false → (∀ k, T.wait ≠ .mask k) → T' = T)))

/-- O11. R146; R391 to R393: `EXIT` ends each executing thread: no executing lane has a thread any more, every other lane keeps its
thread, the lanes leave every mask, and a jet left without threads has exited. (Outside the context-save handler, and where no
lane that holds the irrevocable token has an access still to be performed, R270, the last thread of a basin not before its copies
have completed, R209, and in a basin none of whose jets is saved, R393.) In the context-save handler it waits until the jet's
stores are acknowledged and its read-modify-writes performed (the model's reading for the latter, log 50), and then its executing
threads wait; once every thread of the jet does, the jet is SAVED. The last jet of a basin to be saved, all others being saved or
exited and no matrix operation pending, takes the basin from its core to the head of its launch's placement order, with what its
restore will need. -/
def Obligations.ExitEndsThreads : Prop :=
  (∀ (s : State) (B : Basin) (J : Jet), Issues s { barred := true, ends := true } B J → J.handler ≠ .save →
    s.unpublished s.cur.basin s.cur.jet s.cur.exec false = false →
    s.lastExitWaits s.cur.basin s.cur.jet s.cur.exec = false → (∀ e ∈ B.jets, e.2.run ≠ .saved) →
    ∃ t K, exec .exit s = .next t ∧ t.jet? s.cur.basin s.cur.jet = some K
      ∧ (∀ l T, (l, T) ∈ K.threads → s.executes l = false)
      ∧ (∀ l T, (l, T) ∈ J.threads → s.executes l = false → ∃ T', (l, T') ∈ K.threads)
      ∧ (∀ k l, (K.mask k).getLsbD l = ((J.mask k).getLsbD l && !s.executes l))
      ∧ ((∀ l T, (l, T) ∈ J.threads → s.executes l = true) → K.run = .exited)
      ∧ (∀ b, b ≠ s.cur.basin → t.basins.get? b = s.basins.get? b) ∧ t.mem = s.mem ∧ t.ctl = s.ctl)
  ∧ (∀ (s : State) (B : Basin) (J : Jet), Issues s { barred := true, ends := true } B J → Regular s → J.handler = .save →
      J.run = .active →
      (J.drained .pkg = false → exec .exit s = .next (s.hold (.drain true)))
      ∧ (J.drained .pkg = true →
        let last := ∀ e ∈ J.threads, s.executes e.1 = true ∨ e.2.wait = .saveExit
        let others := ∀ e ∈ B.jets, e.1 ≠ s.cur.jet → e.2.run = .saved ∨ e.2.run = .exited
        let leaves := last ∧ others ∧ B.matQ = [] ∧ B.gone = false
        (¬ leaves → ∃ t K, exec .exit s = .next t ∧ t = s.withIssued B K B.matQ B.matDone
          ∧ K = { J with threads := K.threads, run := K.run } ∧ (last → K.run = .saved) ∧ (¬ last → K.run = .active)
          ∧ ∀ l, K.threads.get? l = (J.threads.get? l).map fun T => if s.executes l then { T with wait := .saveExit } else T)
        ∧ (leaves → ∀ L, s.launches.get? B.launch = some L →
          ∃ t r, exec .exit s = .next t ∧ t.launches.get? B.launch = some { L with saved := insertSaved r L.saved }
            ∧ r.index = B.index ∧ r.bsave = B.bsave ∧ r.since = s.time ∧ t.mem = s.mem
            ∧ (∀ j, j ∈ r.jets ↔ ∃ M, (j, M) ∈ B.jets ∧ (j = s.cur.jet ∨ M.run = .saved))
            ∧ (∀ j M l T, (j, M) ∈ B.jets → j = s.cur.jet ∨ M.run = .saved → (l, T) ∈ M.threads →
                (32 * j + l, T.wid0) ∈ r.wids)
            ∧ (∀ b, b ≠ s.cur.basin → t.basins.get? b = s.basins.get? b)
            ∧ ∀ B', t.basins.get? s.cur.basin = some B' → B'.gone = true
                ∧ ∀ e ∈ B'.jets, e.2.threads = [] ∧ e.2.run = .exited)))

/-- O12. R155, R157, R158: `BAR` and `BAR.arrive` by n lanes with a good count: the arrivals are counted one by one in ascending
order of the lanes; at the count the phase advances and the arrivals begin again, those past the count in the next phase. Each
lane of `BAR` records the phase at its arrival and waits; both forms move the group on; and then every thread of the basin,
earlier waiters and lanes of this issue alike, that waits at the barrier with another phase than it has now is released. With the
error set, or a count that is out of range or differs from the one fixed, no lane arrives: the barrier's error is set, the failing
lanes stay at their `BAR` and BARMISMATCH becomes pending for them, and for every thread waiting there where the error is new; the
other lanes of the group move on. In system mode both forms only retire. An arrival is a release at basin scope: both wait until
the jet's stores have passed the store point (R231, R236) and its read-modify-writes have been performed (the model's reading,
log 50). -/
def Obligations.BarrierArrivals : Prop :=
  ∀ (s : State) (B : Basin) (J : Jet) (k a : Reg) (sync : Bool),
    Issues s { ureads := [a.toNat], ends := true } B J →
    (J.sys = true → JetCompletes (if sync then .bar k a else .barArrive k a) s B J J fun l T => T.advanced (s.issues l))
    ∧ (J.sys = false → NoTransaction s J →
    (J.drained .bsn = false → exec (if sync then .bar k a else .barArrive k a) s = .next (s.hold (.drain false)))
    ∧ (J.drained .bsn = true →
    (∀ l, s.executes l = true → (J.threads.get? l).isSome = true ∧ s.issues l = true) → k.toNat < 16 →
    let K : Barrier := Cells.get {} B.barriers k.toNat
    let cnt := (J.sreg a.toNat).toNat
    let n := (lanesOf s.cur.exec).length
    let below := fun l => ((List.range l).filter s.executes).length
    let phaseAfter := fun i => K.phase + BitVec.ofNat 32 ((K.arrived + i) / cnt)
    (K.err = false → 1 ≤ cnt → cnt ≤ 32 * B.shape.jets → cnt < 2048 → (K.arrived = 0 ∨ K.count = cnt) → K.arrived < cnt →
      ∃ t B', exec (if sync then .bar k a else .barArrive k a) s = .next t ∧ t.basins.get? s.cur.basin = some B'
        ∧ Cells.get {} B'.barriers k.toNat =
            { phase := phaseAfter n, count := cnt, arrived := (K.arrived + n) % cnt, err := false }
        ∧ (∀ k', k' ≠ k.toNat → Cells.get {} B'.barriers k' = Cells.get {} B.barriers k')
        ∧ ∀ j K0 l T, B.jets.get? j = some K0 → K0.threads.get? l = some T →
            t.thread? s.cur.basin j l = some (Thread.atPhase
              (if j ≠ s.cur.jet then T
                else if sync = true ∧ s.executes l = true then
                  { T.pass with wait := .bar, bstate := 1, barno := BitVec.ofNat 4 k.toNat, arrphase := phaseAfter (below l) }
                else T.advanced (s.issues l)) k.toNat (phaseAfter n)))
    ∧ (Regular s →
      (K.err = true ∨ (K.arrived = 0 ∧ (cnt < 1 ∨ 32 * B.shape.jets < cnt)) ∨ (0 < K.arrived ∧ cnt ≠ K.count)) →
      ∃ t B', exec (if sync then .bar k a else .barArrive k a) s = .next t ∧ t.basins.get? s.cur.basin = some B'
        ∧ Cells.get {} B'.barriers k.toNat = { K with err := true }
        ∧ (∀ k', k' ≠ k.toNat → Cells.get {} B'.barriers k' = Cells.get {} B.barriers k')
        ∧ ∀ j K0, B.jets.get? j = some K0 → ∃ K1, B'.jets.get? j = some K1
            ∧ (let hit := (if K.err then 0 else K0.lanesWith fun T =>
                  decide (T.bstate = 1 ∧ T.barno.toNat = k.toNat ∧ T.arrphase = K.phase))
                ||| (if j = s.cur.jet then s.cur.exec else 0)
              K1.causes = if hit = 0 then K0.causes
                else joinCause K0.causes { cause := .barmismatch, lanes := hit, bar := k.toNat })
            ∧ ∀ l T, K0.threads.get? l = some T → K1.threads.get? l = some (Thread.atPhase
                (if j = s.cur.jet then if s.executes l then { T with wait := .none } else T.advanced (s.issues l)
                  else T) k.toNat K.phase))))

/-! ### Memory -/

/-- O13. R172 to R175, R198; R252, R254, R265, R272: the loads. Where no lane's address is out of range or misaligned and the core's
requests leave room for one for each 128-byte line (R13, R190), each executing lane of `LD.g` and `LDNR` has one pending operation
at its effective address, and `SLD` one for the issue; the group moves on and no register changes yet. Where every page's A bit is
set, no byte of memory changes. The one executing lane that is inside an ordinary transaction reads at its issue: the words that its
logs do not hold enter its read log with the values that memory holds, and what it reads, under the bytes of its write log, has only
to land. A read log without room aborts it with ROVF (2), a poisoned word with FAULT (4), kind 15, a bad address or page as
`TxAddress` says; `LDNR` of a page that is not valid gives zero words and a false predicate. It waits where an earlier access comes
first. -/
def Obligations.LoadsIssue : Prop :=
  ∀ (s : State) (B : Basin) (J : Jet) (d a off p : Reg) (sz : Size) (la : BitVec 2),
    let n := Size.bytes sz
    let regs := if sz = .b64 then [d.toNat, d.toNat + 1] else [d.toNat]
    let words := regs.map fun r => Dest.word (mapReg J.wb r)
    let Good := fun (ea : Nat → Dword) =>
      NoTransaction s J ∧ s.full (lineCount ((lanesOf s.cur.exec).map ea)) = false
        ∧ ∀ l, s.executes l = true → (ea l).toNat < 2 ^ 48 ∧ (ea l).toNat % n = 0
    let Done := fun (i : Instr) (ops : List LongOp) =>
      ∃ t, exec i s = .next t ∧ t = s.retire.enterOps s.cur.basin s.cur.jet ops ∧ Advanced s t J
        ∧ ((∀ o ∈ ops, Accessed s B.ctx o.va.toNat .read) → t.mem = s.mem)
    (Issues s { named := regs ++ [a.toNat, a.toNat + 1], reads := [a.toNat, a.toNat + 1] } B J →
      let ea := fun l => J.vpair l a.toNat + BitVec.ofInt 64 (off.toInt * (n : Int))
      Good ea → Done (.ldG d a off sz la)
        ((lanesOf s.cur.exec).map fun l => s.newOp J l la.toNat words (.load n) (ea l)))
    ∧ (Issues s { named := regs ++ [a.toNat, a.toNat + 1], reads := [a.toNat, a.toNat + 1] } B J →
      let ea := fun l => J.vpair l a.toNat
      Good ea → Done (.ldnr d a p sz la)
        ((lanesOf s.cur.exec).map fun l => s.newOp J l la.toNat (words ++ [.pred p.toNat]) (.ldnr n true) (ea l)))
    ∧ (Issues s { ureads := [a.toNat, a.toNat + 1] } B J →
      let ea := J.spair a.toNat + BitVec.ofInt 64 (off.toInt * (n : Int))
      NoTransaction s J → s.full 1 = false → ea.toNat < 2 ^ 48 → ea.toNat % n = 0 →
      Done (.sld d a off sz la)
        [{ s.newOp J (lowLane s.cur.exec) la.toNat (regs.map Dest.ureg) (.load n) ea with
           lane := 32, lanes := s.cur.exec, irr := false }])
    ∧ (Issues s { named := regs ++ [a.toNat, a.toNat + 1], reads := [a.toNat, a.toNat + 1] } B J →
      ∀ l T, J.Ordered → l < 32 → J.threads.get? l = some T → T.inTx = true → s.cur.exec = laneBit l → s.issues l = true →
      s.full 1 = false → J.acquirePending s.tick (laneBit l) = false →
      s.releaseOpen s.cur.basin s.cur.jet J s.tick (laneBit l) false = false → Cells.sortedFrom none T.tx.rlog = true →
      let Reads := fun (i : Instr) (ea : Dword) (dests : List Dest) (kind : LongKind) (ldnr : Bool) =>
        TxAddress i s B J l ea n .read ldnr
        ∧ (globalKind ea n = none → ∀ s1 pa, s.translate (corePlace B.core) B.ctx J.sys ea.toNat .read = (s1, .ok pa) →
          inWindow pa = false → inControl pa = false → pa % 8 = ea.toNat % 8 →
          let words := if n = 8 then [pa, pa + 4] else [pa / 4 * 4]
          let fresh := words.filter fun w => !T.tx.covered w
          (32 < T.tx.rlog.length + fresh.length → TxAborts i s J l 2 0 s1.mem)
          ∧ (T.tx.rlog.length + fresh.length ≤ 32 →
            (∀ u, s1.txReadHold B.core J l fresh = some u → exec i s = .next (s.hold (.short u)))
            ∧ (s1.txReadHold B.core J l fresh = none →
              ((∃ w ∈ fresh, s1.poison.contains (w / 32) = true) → TxAborts i s J l 4 15 s1.mem)
              ∧ ((∀ w ∈ fresh, Clean s1 w 4) →
                ∃ t K tx, exec i s = .next t ∧ t.mem = s1.mem ∧ t.writes = s.writes ∧ t.jet? s.cur.basin s.cur.jet = some K
                  ∧ K.storeQ = J.storeQ ∧ tx = { T.tx with rlog := tx.rlog, pages := tx.pages }
                  ∧ (∀ k U, J.threads.get? k = some U → t.thread? s.cur.basin s.cur.jet k =
                      some (if k = l then { U.pass with tx := tx } else U.advanced (s.issues k)))
                  ∧ (∀ w, tx.rlog.get? w = if w ∈ fresh then some (BitVec.ofNat 32 (s1.homeNat w 4)) else T.tx.rlog.get? w)
                  ∧ (tx.pages.get? (ea.toNat / 4096)).isSome = true
                  ∧ { s.newOp J l la.toNat dests kind ea with
                      val := some (if n = 8 then
                          [BitVec.ofNat 32 (bytesNat (T.tx.sees s1.mem) pa 4),
                            BitVec.ofNat 32 (bytesNat (T.tx.sees s1.mem) (pa + 4) 4)]
                        else [BitVec.ofNat 32 (bytesNat (T.tx.sees s1.mem) pa n)]) } ∈ K.longs))))
      Reads (.ldG d a off sz la) (J.vpair l a.toNat + BitVec.ofInt 64 (off.toInt * (n : Int))) words (.ready n) false
      ∧ Reads (.ldnr d a p sz la) (J.vpair l a.toNat) (words ++ [.pred p.toNat]) (.ldnr n true) true
      ∧ (globalKind (J.vpair l a.toNat) n = none → ∀ s1 z,
        s.translate (corePlace B.core) B.ctx J.sys (J.vpair l a.toNat).toNat .read = (s1, .fault 1 z) →
        ∃ t K, exec (.ldnr d a p sz la) s = .next t ∧ t.mem = s1.mem ∧ Advanced s t J
          ∧ t.jet? s.cur.basin s.cur.jet = some K
          ∧ { s.newOp J l la.toNat (words ++ [.pred p.toNat]) (.ldnr n false) (J.vpair l a.toNat) with val := some [0, 0] }
              ∈ K.longs))

/-- O14. R172, R173, R192, R193: an address of an executing lane at or above 2^48 (kind 7) or, below it, misaligned (kind 8), and in
the scratchpad a misaligned one (kind 8) or, aligned, one that passes its end (kind 9), traps the lanes concerned with PAGEFAULT
before anything is done: nothing is loaded, stored or added, and the trap is taken as `State.trapFault` says, with the lowest such
lane's address and kind. An access that is made once for the issue traps all its lanes. That `CTRADD` is among them is the model's
reading (DEDUCED, log 36): R211 names no trap for it. -/
def Obligations.BadAddressesTrap : Prop :=
  ∀ (s : State) (B : Basin) (J : Jet) (d a b off p q : Reg) (sz : Size) (la : BitVec 2) (la4 : BitVec 4) (op : AtomOp)
      (sc : Scope) (ord : MemOrder),
    let n := Size.bytes sz
    let data := if sz = .b64 then [d.toNat, d.toNat + 1] else [d.toNat]
    let pair := [a.toNat, a.toNat + 1]
    let Traps := fun (i : Instr) (o : Operands) (kind : Nat → Option (BitVec 4)) (va : Nat → Dword) =>
      Issues s o B J → ∀ l rest k, (lanesOf s.cur.exec).filter (fun x => (kind x).isSome) = l :: rest → kind l = some k →
        exec i s = .next (s.trapFault (maskOf (l :: rest)) (va l) k)
    let TrapsOnce := fun (i : Instr) (o : Operands) (va : Dword) (bytes : Nat) =>
      Issues s o B J → ∀ k, globalKind va bytes = some k → exec i s = .next (s.trapFault s.cur.exec va k)
    let global := fun (scale : Nat) l => J.vpair l a.toNat + BitVec.ofInt 64 (off.toInt * (scale : Int))
    let scratch := fun (scale : Nat) l => J.vreg l a.toNat + BitVec.ofInt 32 (off.toInt * (scale : Int))
    (NoTransaction s J →
      Traps (.ldG d a off sz la) { named := data ++ pair, reads := pair } (fun l => globalKind (global n l) n) (global n)
      ∧ Traps (.ldnr d a p sz la) { named := data ++ pair, reads := pair }
          (fun l => globalKind (J.vpair l a.toNat) n) (fun l => J.vpair l a.toNat)
      ∧ Traps (.stG d a off sz) { named := data ++ pair, reads := data ++ pair }
          (fun l => globalKind (global n l) n) (global n)
      ∧ TrapsOnce (.sld d a off sz la) { ureads := pair } (J.spair a.toNat + BitVec.ofInt 64 (off.toInt * (n : Int))) n
      ∧ Traps (.atom d a op sc ord la4) { named := [d.toNat] ++ pair, reads := [d.toNat] ++ pair }
          (fun l => globalKind (J.vpair l a.toNat) 4) (fun l => J.vpair l a.toNat)
      ∧ Traps (.cas d a sc ord la4)
          { named := [d.toNat, d.toNat + 1] ++ pair, reads := [d.toNat, d.toNat + 1] ++ pair }
          (fun l => globalKind (J.vpair l a.toNat) 4) (fun l => J.vpair l a.toNat)
      ∧ TrapsOnce (.ctradd a b sc ord) { ureads := pair ++ [b.toNat, b.toNat + 1] } (J.spair a.toNat) 8
      ∧ TrapsOnce (.waitge a b sc ord) { ureads := pair ++ [b.toNat, b.toNat + 1] } (J.spair a.toNat) 8
      ∧ Traps (.rsvld q a off .g la) { named := pair, reads := pair, rsv := [q.toNat] }
          (fun l => globalKind (global 16 l) 16) (global 16)
      ∧ Traps (.rsvst q a off .g) { named := pair, reads := pair, rsv := [q.toNat], rsvReads := [q.toNat] }
          (fun l => globalKind (global 16 l) 16) (global 16))
    ∧ Traps (.lds d a off sz la) { named := data ++ [a.toNat], reads := [a.toNat] }
        (fun l => scratchKind B.shape.scr (scratch n l) n) (fun l => (scratch n l).zeroExtend 64)
    ∧ Traps (.sts d a off sz) { named := data ++ [a.toNat], reads := data ++ [a.toNat] }
        (fun l => scratchKind B.shape.scr (scratch n l) n) (fun l => (scratch n l).zeroExtend 64)
    ∧ Traps (.atoms d a op sc ord la4) { named := [d.toNat, a.toNat], reads := [d.toNat, a.toNat] }
        (fun l => scratchKind B.shape.scr (J.vreg l a.toNat) 4) (fun l => (J.vreg l a.toNat).zeroExtend 64)
    ∧ Traps (.rsvld q a off .s la) { named := [a.toNat], reads := [a.toNat], rsv := [q.toNat] }
        (fun l => scratchKind B.shape.scr (scratch 16 l) 16) (fun l => (scratch 16 l).zeroExtend 64)
    ∧ Traps (.rsvst q a off .s) { named := [a.toNat], reads := [a.toNat], rsv := [q.toNat], rsvReads := [q.toNat] }
        (fun l => scratchKind B.shape.scr (scratch 16 l) 16) (fun l => (scratch 16 l).zeroExtend 64)

/-- O15. R176, R190; R174, R175, R227; R253, R254, R265, R272: the requests of one store carry, for every byte that some lane writes, the byte of the highest
lane that writes it, and no other byte; each request lies in one 128-byte line. `ST.g` puts the bytes of its executing
lanes, low byte first, into the jet's store queue and moves on; no register changes, and where every page's A and D bits are
set no byte of memory changes yet. The one executing lane that is inside an ordinary transaction puts its bytes into its write log
instead, or aborts: with WOVF (3) where the log has no room, and as `TxAddress` says. -/
def Obligations.StoresEnterTheQueue : Prop :=
  (∀ (s : State) (J : Jet) (m : Lanes) (irr : Nat → Bool) (ea : Nat → Dword) (bs : Nat → List Byte) (n : Nat), n ∈ [1, 2, 4, 8] →
      (∀ l, m.getLsbD l = true → (ea l).toNat < 2 ^ 48 ∧ (ea l).toNat % n = 0 ∧ (bs l).length = n) →
      let reqs := storeReqs s J irr (lanesOf m) ea bs
      (∀ q ∈ reqs, q.va.toNat % 128 = 0 ∧ q.pa = none ∧ ∀ e ∈ q.data, e.1 < 128)
      ∧ (∀ x v, (∃ q ∈ reqs, q.va.toNat = x / 128 * 128 ∧ (q.data.get? (x % 128)).map (·.val) = some v) ↔
          ∃ l, m.getLsbD l = true ∧ (ea l).toNat ≤ x ∧ (bs l)[x - (ea l).toNat]? = some v
            ∧ ∀ k, l < k → m.getLsbD k = true → ¬ ((ea k).toNat ≤ x ∧ x < (ea k).toNat + n)))
  ∧ (∀ (s : State) (B : Basin) (J : Jet) (d a off : Reg) (sz : Size),
      let n := Size.bytes sz
      let regs := if sz = .b64 then [d.toNat, d.toNat + 1] else [d.toNat]
      let ea := fun l => J.vpair l a.toNat + BitVec.ofInt 64 (off.toInt * (n : Int))
      let bs := fun l => (List.range n).map fun i =>
        (if sz = .b64 then J.vpair l d.toNat else (J.vreg l d.toNat).zeroExtend 64).extractLsb' (8 * i) 8
      Issues s { named := regs ++ [a.toNat, a.toNat + 1], reads := regs ++ [a.toNat, a.toNat + 1] } B J →
      let reqs := storeReqs s J J.irrLane (lanesOf s.cur.exec) ea bs
      NoTransaction s J → s.full reqs.length = false →
      (∀ l, s.executes l = true → (ea l).toNat < 2 ^ 48 ∧ (ea l).toNat % n = 0) →
      ∃ t, exec (.stG d a off sz) s = .next t
        ∧ t = s.retire.enterStores s.cur.basin s.cur.jet reqs
        ∧ Advanced s t J
        ∧ ((∀ q ∈ reqs, Accessed s B.ctx q.va.toNat .write) → t.mem = s.mem))
  ∧ (∀ (s : State) (B : Basin) (J : Jet) (d a off : Reg) (sz : Size) (l : Nat) (T : Thread),
      let n := Size.bytes sz
      let regs := if sz = .b64 then [d.toNat, d.toNat + 1] else [d.toNat]
      let ea := J.vpair l a.toNat + BitVec.ofInt 64 (off.toInt * (n : Int))
      let value := if sz = .b64 then J.vpair l d.toNat else (J.vreg l d.toNat).zeroExtend 64
      let i := Instr.stG d a off sz
      Issues s { named := regs ++ [a.toNat, a.toNat + 1], reads := regs ++ [a.toNat, a.toNat + 1] } B J →
      J.Ordered → l < 32 → J.threads.get? l = some T → T.inTx = true → s.cur.exec = laneBit l → s.issues l = true →
      s.full 0 = false → Cells.sortedFrom none T.tx.wlog = true →
      TxAddress i s B J l ea n .write false
      ∧ (globalKind ea n = none → ∀ s1 pa, s.translate (corePlace B.core) B.ctx J.sys ea.toNat .write = (s1, .ok pa) →
        inWindow pa = false → inControl pa = false → pa % 8 = ea.toNat % 8 →
        let words := if n = 8 then [pa, pa + 4] else [pa / 4 * 4]
        let need := T.tx.wlog.length + (words.filter fun w => (T.tx.wlog.get? w).isNone).length
        (16 < need → TxAborts i s J l 3 0 s1.mem)
        ∧ (need ≤ 16 →
          ∃ t K tx, exec i s = .next t ∧ t.mem = s1.mem ∧ t.writes = s.writes ∧ t.jet? s.cur.basin s.cur.jet = some K
            ∧ K.storeQ = J.storeQ ∧ tx = { T.tx with wlog := tx.wlog, pages := tx.pages }
            ∧ (∀ k U, J.threads.get? k = some U → t.thread? s.cur.basin s.cur.jet k =
                some (if k = l then { U.pass with tx := tx } else U.advanced (s.issues k)))
            ∧ (∀ x, tx.logged x = if pa ≤ x ∧ x < pa + n then some (value.extractLsb' (8 * (x - pa)) 8) else T.tx.logged x)
            ∧ (∀ w, (tx.wlog.get? w).isSome = true ↔ w ∈ words ∨ (T.tx.wlog.get? w).isSome = true)
            ∧ (tx.pages.get? (ea.toNat / 4096)).isSome = true)))

/-- O16. R177, R227, R236; R219, R221, R236: the head of a store queue passes the store point, where the jet has fewer than 512
unacknowledged writes: it leaves the queue, is on its way home, and the jet counts one more (unless a part of the same request is
counted already, R190); the bytes that it writes change in the L1 of its core where the L1 holds them, and in no other copy; but a store of the irrevocable
lane, which is performed in place (R270), leaves every copy as it is (the model's reading, log 69: its core drops the copy when the
store is performed). Nothing in memory changes. An acknowledged write leaves the list, and each jet that counts it counts one fewer; a write that met poison is
dropped, which its core learns, and it loses its copy of that line and no other. Neither changes memory. -/
def Obligations.StorePassage : Prop :=
  (∀ (s : State) (b j : Nat) (B : Basin) (J : Jet) (q : StoreReq) (rest : List StoreReq) (pa : Nat),
      s.basins.get? b = some B → B.jets.get? j = some J → J.storeQ = q :: rest → q.pa = some pa →
      J.storeWaits q = false → J.unacked < 512 →
      ∃ t, exec (.storePointPassed b j) s = .next t ∧ t.mem = s.mem
        ∧ t.writes = s.writes ++ [{ core := B.core, basin := b, jet := j, tag := q.tag, sent := s.tick, lanes := q.lanes,
                                    irr := q.irr, since := s.cycle, pa := pa, data := q.data.map fun e => (e.1, e.2.val) }]
        ∧ t.jet? b j = some { J with
            storeQ := rest
            unacked := J.unacked
              + if s.writes.any fun x => decide (x.request = (b, q.tag, pa / 128, q.irr)) && x.countedBy b j then 0 else 1 }
        ∧ (Cells.sortedFrom none q.data = true → ∀ core line off, t.cached core line off =
            if core = B.core ∧ line = pa / 128 ∧ q.irr = false then
              (s.cached core line off).map fun v => ((q.data.get? off).map (·.val)).getD v
            else s.cached core line off))
  ∧ (∀ (s : State) (k : Nat) (w : Write), s.writes[k]? = some w → (w.writers.map (·.1)).Nodup →
      (∀ B, s.basins.get? w.basin = some B → ∀ e ∈ B.jets, e.2.run ≠ .saved) →
      let Fewer := fun (t : State) => t.writes = s.writes.eraseIdx k ∧ t.mem = s.mem
        ∧ ∀ j J, s.jet? w.basin j = some J → t.jet? w.basin j = some { J with
            unacked := J.unacked
              - if j ∈ w.writers.map (·.1)
                  ∧ ∀ x ∈ s.writes.eraseIdx k, ¬ (x.request = w.request ∧ x.countedBy w.basin j = true) then 1 else 0 }
      (w.stage = .performed → ∃ t, exec (.storeAck k) s = .next t ∧ Fewer t ∧ t.l1 = s.l1)
      ∧ (w.stage = .dropped → ∃ t, exec (.writeDropReport k) s = .next t ∧ Fewer t
        ∧ ((∀ c, s.l1.get? w.core = some c → Cells.sortedFrom none c = true) →
          ∀ core line off, t.cached core line off =
            if core = w.core ∧ line = w.pa / 128 then none else s.cached core line off)))

/-- O17. R219, R227; R23, R224: a write performed at its home place gives every byte that it carries its new value and leaves every
other byte of memory as it was; where its granules hold no poison it is not dropped. One of the words of a write may be performed by
itself, and the rest of it stays on its way. While an earlier request of its way, or one that the memory serves first, comes before
it, nothing happens. -/
def Obligations.StorePerformedFrame : Prop :=
  ∀ (s : State) (k : Nat) (w : Write), Sound s → s.writes[k]? = some w → w.stage = .sent → w.pa % 128 = 0 →
    inControl w.pa = false → Cells.sortedFrom none w.data = true → (∀ e ∈ w.data, e.1 < 128) →
    (s.writeWaits k w = false → s.writeHeld w = false →
    (w.irr = true → s.holdReady w.core w.pa = true) → Clean s w.pa 128 →
    ∃ t, exec (.storePerformed k) s = .next t ∧ t.writes[k]? = some { w with stage := .performed }
      ∧ ∀ a, Cells.get 0 t.mem a =
          if w.pa ≤ a then (w.data.get? (a - w.pa)).getD (Cells.get 0 s.mem a) else Cells.get 0 s.mem a)
    ∧ (∀ i x, s.writeWaits k w = false → s.writeHeld w = false → Clean s w.pa 128 → w.words[i]? = some x →
      s.divisible w x = true →
      ∃ t, exec (.storePerformed (k + s.writes.length * (i + 1))) s = .next t
        ∧ t.writes = s.writes.set k { w with data := w.data.filter fun e => decide ((w.pa + e.1) / 4 ≠ x) }
        ∧ ∀ a, Cells.get 0 t.mem a =
            if w.pa ≤ a ∧ a / 4 = x then (w.data.get? (a - w.pa)).getD (Cells.get 0 s.mem a) else Cells.get 0 s.mem a)
    ∧ (s.writeWaits k w = true → exec (.storePerformed k) s = .next s)

/-- O18. R78 to R80, R175, R177, R198: a result that a pending operation already has lands in its destination, a word or a predicate of
its lane or a uniform register of its jet (`SLD`, `GROW`), and nowhere else; the words of an `LDNR` and its residency predicate
land together; a load that nothing holds back and that meets no store of its core and no cached copy reads the bytes that memory holds at its address, low
byte first, and no thread and no byte of memory changes. It reads them word by word (log 8, the model's choice): after its last
word it has its result, which then lands. -/
def Obligations.LongWritesLand : Prop :=
  ∀ (s : State) (b j i k : Nat) (B : Basin) (J : Jet) (o : LongOp),
    s.basins.get? b = some B → B.jets.get? j = some J → J.longs[i]? = some o → k < 128 →
    let Lane := fun (t : State) (f : Thread → Thread → Prop) =>
      ∃ K, t.jet? b j = some K ∧ K.sregs = J.sregs ∧ (∀ l, l ≠ o.lane → K.threads.get? l = J.threads.get? l)
        ∧ ∀ T, J.threads.get? o.lane = some T → ∃ T', K.threads.get? o.lane = some T'
            ∧ T' = { T with words := T'.words, preds := T'.preds } ∧ f T T'
    (∀ ws idx e, o.val = some ws → o.scr = [] → (∀ n r, o.kind ≠ .ldnr n r) → J.lookupsDone o = true →
      o.dests[k]? = some (idx, e) →
      ∃ t, exec (.longWriteLands b j (128 * i + k)) s = .next t ∧ t.mem = s.mem
        ∧ match e with
          | .word w => Lane t fun T T' =>
              (∀ x, T'.word x = if x = w then (ws[idx]?).getD 0 else T.word x) ∧ ∀ p, T'.pred p = T.pred p
          | .pred q => q < 16 → Lane t fun T T' =>
              (∀ x, T'.word x = T.word x)
                ∧ ∀ p, T'.pred p = if p = q ∧ p ≠ 0 then decide ((ws[idx]?).getD 0 ≠ 0) else T.pred p
          | .ureg r => ∃ K, t.jet? b j = some K ∧ K.threads = J.threads
              ∧ ∀ x, K.sreg x = if x = r then (ws[idx]?).getD 0 else J.sreg x)
    ∧ (∀ ws n r, o.val = some ws → o.scr = [] → o.kind = .ldnr n r → k < o.dests.length → (o.dests.map (·.2)).Nodup →
      (∀ e ∈ o.dests, (∃ w, e.2 = .word w) ∨ ∃ q, q < 16 ∧ e.2 = .pred q) →
      ∃ t, exec (.longWriteLands b j (128 * i + k)) s = .next t ∧ t.mem = s.mem ∧ Lane t fun T T' =>
        (∀ idx w, (idx, .word w) ∈ o.dests → T'.word w = (ws[idx]?).getD 0)
          ∧ (∀ w, (∀ idx, (idx, .word w) ∉ o.dests) → T'.word w = T.word w)
          ∧ (∀ idx p, p ≠ 0 → (idx, .pred p) ∈ o.dests → T'.pred p = r)
          ∧ (∀ p, (p = 0 ∨ ∀ idx, (idx, .pred p) ∉ o.dests) → T'.pred p = T.pred p))
    ∧ (∀ size pa a n, o.kind = .load size → o.val = none → o.scr = [] → o.pa = some pa → size ∈ [1, 2, 4, 8] →
        pa % size = 0 → n < 128 → o.wordsLeft[n]? = some a → J.storeQ = [] → s.writes = [] → s.l1 = [] →
        s.token.holder = none → o.irr = false → Clean s a 4 →
        s.mayRead b j B.core J (J.readers o a) o a = true →
        ∃ t K, exec (.longWriteLands b j (128 * i + n)) s = .next t ∧ t.mem = s.mem ∧ t.jet? b j = some K
          ∧ K.threads = J.threads
          ∧ (size ≠ 8 → o.got = [] → o.dests ≠ [] →
              { o with got := [(a, some (BitVec.ofNat 32 (s.homeNat a 4)))]
                       val := some [BitVec.ofNat 32 (s.homeNat pa size)] } ∈ K.longs)
          ∧ (size = 8 → o.got = [] →
              { o with got := [(a, some (BitVec.ofNat 32 (s.homeNat a 4)))] } ∈ K.longs)
          ∧ (∀ lo, size = 8 → o.got = [(pa, some lo)] → a = pa + 4 → o.dests ≠ [] →
              { o with got := [(pa, some lo), (a, some (BitVec.ofNat 32 (s.homeNat a 4)))]
                       val := some [lo, BitVec.ofNat 32 (s.homeNat a 4)] } ∈ K.longs)
          ∧ (∀ hi, size = 8 → o.got = [(pa + 4, some hi)] → a = pa → o.dests ≠ [] →
              { o with got := [(a, some (BitVec.ofNat 32 (s.homeNat a 4))), (pa + 4, some hi)]
                       val := some [BitVec.ofNat 32 (s.homeNat a 4), hi] } ∈ K.longs))

/-- O19. R174, R175, R178; R180, R181: the scratchpad accesses act at once, where no earlier scratchpad access or acquire of their
lanes is still to be performed (log 65, the model's choice) and, for `ATOMS` with a release, the earlier accesses of their
lanes are done. `LDS` reads the words that its lanes will receive when
they land; `STS` gives every byte the value of the highest lane that writes it and leaves the other bytes. `ATOMS` performs
its lanes one after another in ascending order, each on the word as the previous lane left it; the old words land later. -/
def Obligations.Scratchpads : Prop :=
  (∀ (s : State) (B : Basin) (J : Jet) (d a off : Reg) (sz : Size) (la : BitVec 2),
      let n := Size.bytes sz
      let regs := if sz = .b64 then [d.toNat, d.toNat + 1] else [d.toNat]
      let ea := fun l => J.vreg l a.toNat + BitVec.ofInt 32 (off.toInt * (n : Int))
      let value := fun l => if sz = .b64 then J.vpair l d.toNat else (J.vreg l d.toNat).zeroExtend 64
      (∀ l, s.executes l = true → (ea l).toNat % n = 0 ∧ (ea l).toNat + n ≤ B.shape.scr) →
      B.scratchPoison = [] → Cells.wf (0 : Byte) B.scratch = true → J.scratchWaits s.tick s.cur.exec = false →
      (Issues s { named := regs ++ [a.toNat], reads := [a.toNat] } B J →
        ∃ t K, exec (.lds d a off sz la) s = .next t ∧ t = s.withIssued B K B.matQ B.matDone ∧ Advanced s t J
          ∧ K.longs = (J.retire s.cur.group (!s.cur.resumed)).longs ++ (lanesOf s.cur.exec).map fun l =>
              { s.newOp J l la.toNat (regs.map fun r => .word (mapReg J.wb r)) (.ready n) ((ea l).zeroExtend 64) with
                val := some (if n = 8 then
                    [BitVec.ofNat 32 (B.scrNat (ea l).toNat 4), BitVec.ofNat 32 (B.scrNat ((ea l).toNat + 4) 4)]
                  else [BitVec.ofNat 32 (B.scrNat (ea l).toNat n)]) })
      ∧ (Issues s { named := regs ++ [a.toNat], reads := regs ++ [a.toNat] } B J →
        ∃ t B', exec (.sts d a off sz) s = .next t ∧ t.basins.get? s.cur.basin = some B' ∧ Advanced s t J
          ∧ t = { s with basins := s.basins.put s.cur.basin B' }
          ∧ (∀ x l, s.executes l = true → (ea l).toNat ≤ x → x < (ea l).toNat + n →
              (∀ k, l < k → s.executes k = true → ¬ ((ea k).toNat ≤ x ∧ x < (ea k).toNat + n)) →
              B'.scr x = (value l).extractLsb' (8 * (x - (ea l).toNat)) 8)
          ∧ (∀ x, (∀ l, s.executes l = true → ¬ ((ea l).toNat ≤ x ∧ x < (ea l).toNat + n)) → B'.scr x = B.scr x)))
  ∧ (∀ (s : State) (B : Basin) (J : Jet) (d a : Reg) (op : AtomOp) (ord : MemOrder) (la : BitVec 4),
      Issues s { named := [d.toNat, a.toNat], reads := [d.toNat, a.toNat] } B J →
      (ord = .rel ∨ ord = .ar → J.drained .bsn = true ∧ J.readsDone s.tick s.cur.exec = true) →
      J.scratchWaits s.tick s.cur.exec = false →
      B.scratchPoison = [] → Cells.wf (0 : Byte) B.scratch = true →
      (∀ l, s.executes l = true → (J.vreg l a.toNat).toNat % 4 = 0 ∧ (J.vreg l a.toNat).toNat + 4 ≤ B.shape.scr) →
      let r := atomsInOrder op (fun l => J.vreg l a.toNat) (fun l => J.vreg l d.toNat) (lanesOf s.cur.exec) B.scrWord
      ∃ t B' K, exec (.atoms d a op .bsn ord la) s = .next t ∧ t.basins.get? s.cur.basin = some B'
        ∧ B'.jets.get? s.cur.jet = some K ∧ Advanced s t J ∧ t.mem = s.mem
        ∧ (∀ x, x % 4 = 0 → B'.scrWord x = r.1 x)
        ∧ K.longs = (J.retire s.cur.group (!s.cur.resumed)).longs ++ ((lanesOf s.cur.exec).zip r.2).map fun e =>
            { s.newOp J e.1 la.toNat [.word (mapReg J.wb d.toNat)] (.ready 4) ((J.vreg e.1 a.toNat).zeroExtend 64) with
              val := some [e.2] })

/-- O20. R180 to R183, R193, R211: `ATOM`, `CAS` and `CTRADD` put one pending operation for each lane (for `CTRADD` one for the
issue) at the address, with the operand read now; the group moves on, and where every page's A and D bits are set no byte of
memory changes yet. -/
def Obligations.AtomicsIssue : Prop :=
  ∀ (s : State) (B : Basin) (J : Jet) (d a b : Reg) (op : AtomOp) (sc : Scope) (ord : MemOrder) (la : BitVec 4),
    NoTransaction s J →
    let Done := fun (i : Instr) (ops : List LongOp) =>
      ∃ t, exec i s = .next t ∧ t = s.retire.enterOps s.cur.basin s.cur.jet ops ∧ Advanced s t J
        ∧ ((∀ o ∈ ops, Accessed s B.ctx o.va.toNat .write) → t.mem = s.mem)
    let Good := s.full (lineCount ((lanesOf s.cur.exec).map fun l => J.vpair l a.toNat)) = false
      ∧ ∀ l, s.executes l = true → (J.vpair l a.toNat).toNat < 2 ^ 48 ∧ (J.vpair l a.toNat).toNat % 4 = 0
    (Issues s { named := [d.toNat, a.toNat, a.toNat + 1], reads := [d.toNat, a.toNat, a.toNat + 1] } B J → Good →
      Done (.atom d a op sc ord la) ((lanesOf s.cur.exec).map fun l =>
        { s.newOp J l la.toNat [.word (mapReg J.wb d.toNat)] (.atom op (J.vreg l d.toNat)) (J.vpair l a.toNat) with
          irr := J.irrLane l && decide (sc ≠ .bsn), scope := sc, release := decide (ord = .rel ∨ ord = .ar), acquire := decide (ord = .acq ∨ ord = .ar) }))
    ∧ (Issues s { named := [d.toNat, d.toNat + 1, a.toNat, a.toNat + 1]
                  reads := [d.toNat, d.toNat + 1, a.toNat, a.toNat + 1] } B J → Good →
      Done (.cas d a sc ord la) ((lanesOf s.cur.exec).map fun l =>
        { s.newOp J l la.toNat [.word (mapReg J.wb d.toNat)] (.cas (J.vreg l d.toNat) (J.vreg l (d.toNat + 1)))
            (J.vpair l a.toNat) with
          irr := J.irrLane l && decide (sc ≠ .bsn), scope := sc, release := decide (ord = .rel ∨ ord = .ar), acquire := decide (ord = .acq ∨ ord = .ar) }))
    ∧ (Issues s { ureads := [a.toNat, a.toNat + 1, b.toNat, b.toNat + 1] } B J → s.full 1 = false →
      (J.spair a.toNat).toNat < 2 ^ 48 → (J.spair a.toNat).toNat % 8 = 0 →
      Done (.ctradd a b sc ord)
        [{ s.newOp J (lowLane s.cur.exec) 0 [] (.ctradd (J.spair b.toNat)) (J.spair a.toNat) with
           lane := 32, lanes := s.cur.exec, irr := false, scope := sc, release := decide (ord = .rel ∨ ord = .ar) }])

/-- O21. R180, R182, R184, R185, R211: an atomic at its home place, where nothing holds it back, reads the old word, which the
operation will return, and writes the combined word (for `CAS` only where the old word is the expected one; for `CTRADD` the
64-bit sum); every other byte of memory stays. At basin scope it reads the word, or `CTRADD` the two words of its counter, as its
core sees them and sends the combined value on its way home, and memory stays as it is. -/
def Obligations.AtomicsPerform : Prop :=
  ∀ (s : State) (b j k pa : Nat) (B : Basin) (J : Jet) (o : LongOp), Sound s →
    s.basins.get? b = some B → B.jets.get? j = some J → J.longs[k]? = some o → o.pa = some pa → o.val = none →
    J.comesFirst k o o.pendingWords = false → s.atomWaits b j B.core J o pa = false →
    pa < 0x100000000000 → Clean s pa 8 →
    let old := BitVec.ofNat 32 (s.homeNat pa 4)
    let Result := fun (t : State) (old : Word) =>
      ∃ K, t.jet? b j = some K ∧ K.threads = J.threads
        ∧ ∀ e ∈ o.dests, { o with val := some [old] } ∈ K.longs
    let SentBytes := fun (t : State) (n : Nat) (new : Dword) =>
      t.writes = s.writes ++
        [{ core := B.core, basin := b, jet := j, tag := o.tag, sent := s.tick, lanes := o.lanes, irr := false
           since := s.cycle, single := decide (n = 8), pa := pa / 128 * 128
           data := (List.range n).map fun i => (pa % 128 + i, new.extractLsb' (8 * i) 8) }]
    let Sent := fun (t : State) (new : Word) => SentBytes t 4 (new.zeroExtend 64)
    (∀ s1 s2 lo hi inc, o.scope = .bsn → o.kind = .ctradd inc → s.coreWord B.ctx B.core pa = (s1, some lo) →
      s1.coreWord B.ctx B.core (pa + 4) = (s2, some hi) → pa % 8 = 0 →
      ∃ t K, exec (.atomicPerform b j k) s = .next t ∧ t.mem = s.mem ∧ SentBytes t 8 ((hi ++ lo) + inc)
        ∧ t.jet? b j = some K ∧ K.threads = J.threads)
    ∧ (∀ s1 seen, o.scope = .bsn → s.coreWord B.ctx B.core pa = (s1, some seen) → pa % 4 = 0 →
      (∀ op v, o.kind = .atom op v →
        ∃ t, exec (.atomicPerform b j k) s = .next t ∧ Result t seen ∧ t.mem = s.mem ∧ Sent t (atomResult op seen v))
      ∧ (∀ expected new, o.kind = .cas expected new →
        ∃ t, exec (.atomicPerform b j k) s = .next t ∧ Result t seen ∧ t.mem = s.mem
          ∧ (seen = expected → Sent t new) ∧ (seen ≠ expected → t.writes = s.writes)))
    ∧ (o.scope ≠ .bsn →
    (∀ op v, o.kind = .atom op v → pa % 4 = 0 →
      ∃ t, exec (.atomicPerform b j k) s = .next t ∧ Result t old ∧ SameOutside s t pa 4
        ∧ BitVec.ofNat 32 (t.homeNat pa 4) = atomResult op old v)
    ∧ (∀ expected new, o.kind = .cas expected new → pa % 4 = 0 →
      ∃ t, exec (.atomicPerform b j k) s = .next t ∧ Result t old ∧ SameOutside s t pa 4
        ∧ BitVec.ofNat 32 (t.homeNat pa 4) = if old = expected then new else old)
    ∧ (∀ inc, o.kind = .ctradd inc → pa % 8 = 0 →
      ∃ t, exec (.atomicPerform b j k) s = .next t ∧ SameOutside s t pa 8
        ∧ BitVec.ofNat 64 (t.homeNat pa 8) = BitVec.ofNat 64 (s.homeNat pa 8) + inc))

/-- O22. R179, R199, R200: `FENCE` waits, where it releases, until the jet has drained, which at every scope the model takes to mean its
read-modify-writes too (log 50), and where it acquires at package or system scope until the earlier reads of its lanes are done
(R247), and then moves on; at package or system scope an acquire leaves the core no cached line. Where the core's requests leave
room (R24), `PGREQ` asks for the pages of its lanes and moves on, and a prefetch only moves on. None of them changes memory. -/
def Obligations.FencesAndRequests : Prop :=
  ∀ (s : State) (B : Basin) (J : Jet) (a off : Reg) (sc : Scope) (ord : MemOrder) (l1 : Bool),
    (Issues s { ends := true } B J → NoTransaction s J →
      (ord = .rel ∨ ord = .ar → J.drained sc = true) →
      ((ord = .acq ∨ ord = .ar) → sc ≠ .bsn → J.readsDone s.tick s.cur.exec = false →
        exec (.fence sc ord) s = .next (s.hold (.short .reads)))
      ∧ (((ord = .acq ∨ ord = .ar) → sc ≠ .bsn → J.readsDone s.tick s.cur.exec = true) →
        ∃ t, exec (.fence sc ord) s = .next t ∧ Advanced s t J ∧ t.mem = s.mem
          ∧ (ord = .acq ∨ ord = .ar → sc ≠ .bsn → t.l1 = s.l1.del B.core)))
    ∧ (Issues s { ends := true } B J → NoTransaction s J →
      (ord = .rel ∨ ord = .ar) → J.drained sc = false →
      exec (.fence sc ord) s = .next (s.hold (.drain (decide (sc ≠ .bsn)))))
    ∧ (Issues s { named := [a.toNat, a.toNat + 1], reads := [a.toNat, a.toNat + 1] } B J →
      s.full 1 = false → s.pagesAsked B.core + (lanesOf s.cur.exec).length ≤ 64 →
      ∃ t, exec (.pgreq a) s = .next t ∧ Advanced s t J ∧ t.mem = s.mem
        ∧ (∀ r ∈ s.pageReqs, r ∈ t.pageReqs)
        ∧ ∀ l, s.executes l = true → (J.vpair l a.toNat).toNat < 2 ^ 48 →
            (∃ r ∈ t.pageReqs, r.core = B.core ∧ r.ctx = B.ctx ∧ r.vpn = (J.vpair l a.toNat).toNat / 4096)
              ∨ ∃ pa, s.look B.ctx J.sys ((J.vpair l a.toNat).toNat / 4096 * 4096) .read = .ok pa)
    ∧ (Issues s { named := [a.toNat, a.toNat + 1], reads := [a.toNat, a.toNat + 1] } B J →
      s.full 1 = false → ∃ t, exec (.pref a off l1) s = .next t ∧ Advanced s t J ∧ t.mem = s.mem ∧ t.tlb = s.tlb
        ∧ (l1 = false ∨ s.latent = [] → t.errors = s.errors ∧ t.poison = s.poison))

/-- O23. R210, R13: `WAITGE`, where nothing holds its read back and the core's requests leave room for one, reads its counter once for
the issue; at the target or above it moves on,
below it the executing threads wait on the counter; the event that finds the counter at the target moves them on. At package
and system scope the counter is read at its home place. -/
def Obligations.CounterWaits : Prop :=
  ∀ (s : State) (B : Basin) (J : Jet) (a b : Reg) (sc : Scope) (ord : MemOrder) (pa : Nat) (s' : State),
    let va := J.spair a.toNat
    let target := J.spair b.toNat
    (Issues s { ureads := [a.toNat, a.toNat + 1, b.toNat, b.toNat + 1] } B J → NoTransaction s J →
      va.toNat < 2 ^ 48 → va.toNat % 8 = 0 →
      s.translateFor (s.holderAmong s.cur.basin s.cur.jet s.cur.exec) (corePlace B.core) B.ctx J.sys va.toNat .read
        = (s', .ok pa) →
      s'.full 1 = false →
      s'.counterHold s.cur.basin s.cur.jet J B.core pa s.cur.exec (decide (ord = .acq ∨ ord = .ar)) sc = none →
      ∀ v, (s'.readCounter B.ctx B.core pa sc).2 = some v →
      (target.toNat ≤ v.toNat →
        ∃ t, exec (.waitge a b sc ord) s = .next t ∧ Advanced s t J ∧ t.mem = s'.mem)
      ∧ (v.toNat < target.toNat →
        ∃ t, exec (.waitge a b sc ord) s = .next t ∧ t.mem = s'.mem
          ∧ ∀ l T, J.threads.get? l = some T → t.thread? s.cur.basin s.cur.jet l =
              some (if s.issues l then { T with wait := .counter pa va target (decide (ord = .acq ∨ ord = .ar)) sc }
                else T)))
    ∧ (sc ≠ .bsn → Clean s pa 8 → (s.readCounter B.ctx B.core pa sc).2 = some (BitVec.ofNat 64 (s.homeNat pa 8)))
    ∧ (∀ bas j l T acq (va target v : Dword), s.basins.get? bas = some B → B.jets.get? j = some J → J.Ordered → J.threads.get? l = some T →
      T.wait = .counter pa va target acq sc →
      s.counterHold bas j J B.core pa (J.lanesWith fun U => decide (U.wait = T.wait ∧ U.pc = T.pc)) acq sc = none →
      (s.readCounter B.ctx B.core pa sc).2 = some v → target.toNat ≤ v.toNat →
      ∃ t, exec (.waitgeSatisfied bas j l) s = .next t ∧ t.mem = s.mem ∧ t.thread? bas j l = some T.pass)

/-- O24. R139: `BCAST` gives each executing lane the uniform register's value, or that of a write to it that is still pending (a free
choice, log 38, the model's choice); beside that it changes only the notes, of the pending writes, of which lanes have received
their values (R79). -/
def Obligations.Broadcasts : Prop :=
  ∀ (s : State) (B : Basin) (J : Jet) (d a : Reg), Issues s { named := [d.toNat], ureads := [a.toNat], perLane := true } B J →
    ∃ (t : State) (K : Jet) (longs : List LongOp) (v : Nat → Word), exec (.bcast d a) s = .next t
      ∧ t.jet? s.cur.basin s.cur.jet = some K ∧ K.longs.length = longs.length
      ∧ (∀ (k : Nat) (o : LongOp), K.longs[k]? = some o → ∃ o0 : LongOp, longs[k]? = some o0 ∧ o = { o0 with seen := o.seen })
      ∧ LaneResult s (t.withJet s.cur.basin s.cur.jet fun K => { K with longs := longs }) B J
          (fun l _ => [(mapReg J.wb d.toNat, v l)]) (fun _ _ => [])
      ∧ ∀ l, v l = J.sreg a.toNat
          ∨ ∃ o ∈ J.longs, ∃ ws e, o.lane = 32 ∧ o.val = some ws ∧ e ∈ o.dests ∧ e.2 = .ureg a.toNat
              ∧ v l = (ws[e.1]?).getD 0

/-! ### Copies -/

/-- O25. R201, R203, R205: `COPY` with a good descriptor in eight uniform registers, its tiles READY and fewer than 64 copies of the
core pending, queues one copy with its deadline and moves on; a descriptor that breaks a rule traps PAGEFAULT with kind DESC
(10). -/
def Obligations.CopiesQueue : Prop :=
  ∀ (s : State) (B : Basin) (J : Jet) (a : Reg) (sc : Scope) (ord : MemOrder),
    let regs := (List.range 8).map fun k => a.toNat + k
    let ws := regs.map J.sreg
    let d := copyDesc ws
    Issues s { ureads := regs } B J →
    (copyDescOk ws (some B) = false → exec (.copy a sc ord) s = .next (s.trapFault s.cur.exec 0 0xA))
    ∧ (∀ va, copyDescOk ws (some B) = true → copyRange d = some va →
        exec (.copy a sc ord) s = .next (s.trapFault s.cur.exec (BitVec.ofNat 64 va) 7))
    ∧ (copyDescOk ws (some B) = true → copyRange d = none → NoTransaction s J →
        (d.src.kind = 2 → B.tileState d.src.addr = 2) → (d.dst.kind = 2 → B.tileState d.dst.addr = 2) →
        (s.copies.filter fun c => decide (c.core = some B.core)).length < 64 →
        ∃ t c, exec (.copy a sc ord) s = .next t ∧ Advanced s t J ∧ t.mem = s.mem ∧ t.copies = s.copies ++ [c]
          ∧ c.desc = ws ∧ c.core = some B.core ∧ c.ctx = B.ctx ∧ c.sys = J.sys ∧ c.owner = some (s.cur.basin, s.cur.jet)
          ∧ c.release = decide (ord = .rel ∨ ord = .ar) ∧ c.done = [] ∧ c.packet = none
          ∧ c.tag = s.tick ∧ c.threads = [(s.cur.jet, s.cur.exec)]
          ∧ c.deadline = s.time + 1000000 * ((J.sreg (a.toNat + 6)).toNat / 16777216))

/-- O26. R204, R205, R207; R206, R208, R295: a copy engine performs one request of a ready copy, one of the four of earliest
deadline, where the memory of a global destination serves no other request first (R25): the bytes of a row that lie in one granule of the destination, in one event (log 43, the model's choice). Each word of a
global, scratchpad or tile destination takes its source word (an undefined one where the copy's own source shares it),
no other byte of memory, of the scratchpad or of the tile region changes, and the request is done. A copy whose every word is written adds its increment to its
counter, after its tiles have returned to READY, and is over; one that cannot be carried out poisons the counter's granule
in place of the addition and logs an error. -/
def Obligations.CopyWork : Prop :=
  (∀ (s s1 s2 : State) (k w pa : Nat) (c : Copy) (q : Nat × Nat × Nat) (raw : List Word),
      let d := copyDesc c.desc
      let cols := (List.range (q.2.2 / 4)).map fun i => q.2.1 + 4 * i
      s.copies[k]? = some c → (copyRequests d)[w]? = some q → s.copyReady c = true → w ∉ c.done →
      s.copiesBefore c < 4 → copyReads c d q.1 cols s = (s1, .ok (raw.map some)) → raw.length = cols.length →
      let Done := fun (t : State) => ∃ c' ∈ t.copies, c'.id = c.id ∧ c'.done = w :: c.done
      (d.dst.kind = 0 →
      s1.translate ioPlace c.ctx c.sys (d.dst.addr + q.1 * d.dst.stride + q.2.1) .write = (s2, .ok pa) →
      s2.token.holder = none → pa % 4 = 0 → pa / 32 = (pa + q.2.2 - 1) / 32 → 4 ≤ q.2.2 → q.2.2 % 4 = 0 →
      inControl pa = false → Memory.wf s2.mem = true → Clean s2 pa q.2.2 → s2.servedLater pa c.rank = false →
      ∃ t, exec (.copyService k w) s = .next t ∧ SameOutside s2 t pa q.2.2
        ∧ (∀ i v, raw[i]? = some v → s.copyOverlap c d q.1 (q.2.1 + 4 * i) = false →
            BitVec.ofNat 32 (bytesNat (Cells.get 0 t.mem) (pa + 4 * i) 4) = v)
        ∧ Done t)
      ∧ ∀ b j B, c.owner = some (b, j) → s1.basins.get? b = some B →
        (d.dst.kind = 1 → Cells.wf (0 : Byte) B.scratch = true →
          let start := d.dst.addr + q.1 * d.dst.stride + q.2.1
          ∃ t B', exec (.copyService k w) s = .next t ∧ t.mem = s1.mem ∧ t.basins.get? b = some B' ∧ Done t
            ∧ (∀ i v, raw[i]? = some v → s.copyOverlap c d q.1 (q.2.1 + 4 * i) = false → B'.scrWord (start + 4 * i) = v)
            ∧ ∀ x, ¬ (start ≤ x ∧ x < start + q.2.2) → B'.scr x = B.scr x)
        ∧ (∀ tile, d.dst.kind = 2 → B.tiles.get? d.dst.addr = some tile → Cells.wf (0 : Byte) B.region = true →
          let start := 1024 * (tileFirstRow tile.handle + q.1) + tileFirstCol tile.handle + q.2.1
          ∃ t B', exec (.copyService k w) s = .next t ∧ t.mem = s1.mem ∧ t.basins.get? b = some B' ∧ Done t
            ∧ (∀ i v, raw[i]? = some v → BitVec.ofNat 32 (bytesNat B'.regionByte (start + 4 * i) 4) = v)
            ∧ ∀ x, ¬ (start ≤ x ∧ x < start + q.2.2) → B'.regionByte x = B.regionByte x))
  ∧ (∀ (s s1 : State) (k pa : Nat) (c : Copy), s.copies[k]? = some c → c.faulted = false → c.lost = false → c.packet = none →
      (s.returnTiles c).translate ioPlace c.ctx c.sys (copyDesc c.desc).ctr .write = (s1, .ok pa) →
      s1.token.holder = none → pa % 8 = 0 → inControl pa = false → Memory.wf s1.mem = true →
      (c.allDone = true → c.failed = false → Clean s1 pa 8 →
        ∃ t, exec (.copyComplete k) s = .next t ∧ SameOutside s1 t pa 8 ∧ (∀ x ∈ t.copies, x.id ≠ c.id)
          ∧ BitVec.ofNat 64 (t.homeNat pa 8)
              = BitVec.ofNat 64 (s1.homeNat pa 8) + BitVec.ofNat 64 (copyDesc c.desc).inc)
      ∧ (c.failed = true → s1.isHbm pa = true →
        ∃ t, exec (.copyFaultEnd k) s = .next t ∧ t.mem = s1.mem ∧ pa / 32 ∈ t.poison ∧ (∀ x ∈ t.copies, x.id ≠ c.id)
          ∧ t.errorCount = s1.errorCount + 2))

/-! ### Transactions -/

/-- O27. R250, R251; R251, R269: `TXB` in lanes at nesting depth 0 to 6, with a slot held or free, starts a transaction in each (its
logs empty, TXSTAT zero, its timer running) or nests one deeper, and moves on; without a free slot the jet waits for one. A slot that
the jet was given for lanes that waited is kept for those of them that have not executed their `TXB` (log 70, the model's reading).
`TXB.irr` of one lane outside every transaction: with the token free and nobody in line the lane has it and is irrevocable;
otherwise it waits in line, and where 4,096 wait already it aborts with NOSLOT (9); inside an irrevocable transaction it nests;
inside an ordinary transaction the lane aborts with NOSLOT (9). At depth 7 either form aborts the lane with UNSUPP (8); that an
irrevocable lane then releases the token is the model's reading (log 19). -/
def Obligations.TransactionsBegin : Prop :=
  (∀ (s : State) (B : Basin) (J : Jet), Issues s { ends := true } B J →
      (∃ l, l < 32 ∧ s.executes l = true ∧ (J.threads.get? l).isSome = true) →
      ((∀ l T, J.threads.get? l = some T → s.executes l = true → T.tx.depth < 7) →
        (J.slotHeld = true ∨ ((∀ l T, J.threads.get? l = some T → s.executes l = true → T.tx.depth = 0)
          ∧ s.slotsHeld B.core < 8 ∧ ∀ r ∈ s.slotQ, r.1 ≠ B.core)) →
        let outermost := ∃ l T, l < 32 ∧ J.threads.get? l = some T ∧ s.executes l = true ∧ T.tx.depth = 0
        ∃ waits : Lanes, (outermost → waits = J.slotFor &&& ~~~ s.cur.exec) ∧ (¬ outermost → waits = J.slotFor) ∧
        JetCompletes .txb s B J { J with slotHeld := true, slotFor := waits } fun l T =>
          if s.executes l then
            { T.advanced (s.issues l) with
              tx := if T.tx.depth = 0 then
                  { T.tx with depth := 1, irr := false, txbpc := s.cur.pc, stat := 0, rlog := [], wlog := [], pages := [],
                              since := some s.cycle }
                else { T.tx with depth := T.tx.depth + 1 } }
          else T.advanced (s.issues l))
      ∧ (J.slotHeld = false → (∀ l T, J.threads.get? l = some T → s.executes l = true → T.tx.depth = 0) →
        (∃ l T, l < 32 ∧ J.threads.get? l = some T ∧ s.executes l = true) → 8 ≤ s.slotsHeld B.core →
        ∃ t, (exec .txb s = .next t ∧ exec .txbIrr s = .next t) ∧ (B.core, s.cur.basin, s.cur.jet) ∈ t.slotQ
          ∧ t.basins = (s.hold .slot).basins ∧ t.mem = s.mem))
  ∧ (∀ (s : State) (B : Basin) (J : Jet) (l : Nat) (T : Thread), Issues s { ends := true } B J → J.Ordered → l < 32 →
      J.threads.get? l = some T → s.cur.exec = laneBit l → s.issues l = true → J.slotHeld = true →
      (T.tx.depth = 0 → s.token.holder = none → s.token.queue = [] →
        ∃ t, exec .txbIrr s = .next t ∧ t.mem = s.mem
          ∧ t.token = { holder := some ⟨s.cur.basin, s.cur.jet, l⟩, lines := [], queue := [] }
          ∧ t.thread? s.cur.basin s.cur.jet l = some { T.pass with
              tx := { T.tx with depth := 1, irr := true, txbpc := s.cur.pc, stat := 0, rlog := [], wlog := [], pages := [], since := none } })
      ∧ (T.tx.depth = 0 → s.token.holder.isSome = true → s.token.queue.length < 4096 →
        ∃ t, exec .txbIrr s = .next t ∧ t.mem = s.mem
          ∧ t.token = { s.token with queue := s.token.queue ++ [⟨s.cur.basin, s.cur.jet, l⟩] }
          ∧ t.thread? s.cur.basin s.cur.jet l = some { T with wait := .token, tx := { T.tx with txbpc := s.cur.pc } })
      ∧ (T.tx.depth = 0 → s.token.holder ≠ some ⟨s.cur.basin, s.cur.jet, l⟩ →
        s.token.holder.isSome = true ∨ s.token.queue ≠ [] → 4096 ≤ s.token.queue.length →
        ∃ t, exec .txbIrr s = .next t ∧ t.mem = s.mem ∧ t.token = s.token ∧ t.thread? s.cur.basin s.cur.jet l =
          some (Thread.aborted { T with tx := { T.tx with txbpc := s.cur.pc } } 9 0))
      ∧ (1 ≤ T.tx.depth → T.tx.depth < 7 →
        (T.tx.irr = false → s.token.holder ≠ some ⟨s.cur.basin, s.cur.jet, l⟩ → TxAborts .txbIrr s J l 9 0 s.mem)
        ∧ (T.tx.irr = true → ∃ t, exec .txbIrr s = .next t ∧ t.mem = s.mem ∧ t.token = s.token
            ∧ t.thread? s.cur.basin s.cur.jet l = some { T.pass with tx := { T.tx with depth := T.tx.depth + 1 } }))
      ∧ (T.tx.depth = 7 → ∀ i ∈ [Instr.txb, Instr.txbIrr], TxAborts i s J l 8 0 s.mem
          ∧ ∃ t, exec i s = .next t ∧ t.token =
              if s.token.holder = some ⟨s.cur.basin, s.cur.jet, l⟩ then { s.token with holder := none, lines := [] } else s.token))

/-- O28. R250, R269, R267: a free slot goes to the jet that has waited longest for one of its core, for its lanes that wait (log 70,
the model's reading), the free token to the head of its line, and a lane whose transaction has run 2^20 cycles aborts with TIMEOUT
(7). The word at which it waits does not count for its guard residue, so that its guard state stays as it is: the model's choice (log
67). -/
def Obligations.GrantsAndTimeouts : Prop :=
  ∀ (s : State) (b j l : Nat) (B : Basin) (J : Jet) (T : Thread),
    s.basins.get? b = some B → B.jets.get? j = some J → J.threads.get? l = some T → l < 32 →
    (∀ core rest, s.slotQ = (core, b, j) :: rest → s.slotsHeld core < 8 →
      ∃ t, exec (.txSlotGrant core) s = .next t ∧ t.mem = s.mem ∧ (core, b, j) ∉ t.slotQ
        ∧ (∀ r ∈ rest, r ≠ (core, b, j) → r ∈ t.slotQ) ∧ (∃ K, t.jet? b j = some K ∧ K.slotHeld = true
          ∧ K.slotFor = J.lanesWith fun U => decide (U.wait = .slot))
        ∧ t.thread? b j l = some (if T.wait = .slot then { T with wait := .none } else T))
    ∧ (∀ rest, s.token.holder = none → s.token.queue = ⟨b, j, l⟩ :: rest →
      ∃ t, exec .tokenGrant s = .next t ∧ t.mem = s.mem ∧ t.token = { holder := some ⟨b, j, l⟩, lines := [], queue := rest }
        ∧ t.thread? b j l = some { T.pass with
            tx := { T.tx with depth := 1, irr := true, stat := 0, rlog := [], wlog := [], pages := [], since := none } })
    ∧ (∀ c, T.tx.since = some c → T.inTx = true → c + 1048576 ≤ s.cycle → (∀ p k, T.wait ≠ .commit p k) →
      ∃ t, exec (.timeout b j l) s = .next t ∧ t.mem = s.mem
        ∧ t.thread? b j l = some { T with
            pc := T.tx.txbpc + 4, wait := .none
            tx := { T.tx with rlog := [], wlog := [], pages := [], since := none, depth := 0, irr := false, skip := 1,
                              passed := 0, stat := BitVec.ofNat 32 (7 + T.tx.depth % 8 * 16) } })

/-- O29. R259, R270, R231; R255; R262, R263: `TXE` of lanes that end no outermost ordinary transaction: a skipping lane stops skipping with
a false predicate, a nested one is one level less deep with a true one, and an irrevocable lane that ends its outermost
transaction publishes: the jet waits until the accesses of the lane, and its own earlier ones, are performed (a release at
package scope), and then the token is free, its lines are held no longer, and the core's L1 is empty (an acquire). For which
accesses it waits is the model's reading (`State.unpublished`, log 24), and that a jet with a lane that waits for the token at depth
0, or for a slot, keeps its slot (log 70). Lanes that end an outermost ordinary transaction wait for their commits. An instruction of
the first row of Table 15.2, where its operands stand and no check of a descriptor traps (R275, R331), aborts with UNSUPP (8) the
lanes that are inside an ordinary transaction: shown where all its executing lanes are, and then it has no other effect.
`TXA` aborts its executing lanes that are inside an ordinary transaction, with code 5 and its own code in TXSTAT, and its
other lanes only move on; `TXQ` reads TXSTAT. -/
def Obligations.TransactionEnds : Prop :=
  (∀ (s : State) (B : Basin) (J : Jet) (p : Reg), Issues s { ends := true } B J → p.toNat < 16 →
      let publishes := fun T : Thread => decide (T.tx.skip = 0 ∧ T.tx.depth = 1) && T.tx.irr
      let publishing := s.cur.exec &&& J.lanesWith publishes
      let published : State := if publishing = 0 then s else
        { s with token := { s.token with holder := none, lines := [] }, l1 := s.l1.del B.core }
      let slot := J.slotHeld && !(decide (J.slotFor = 0) && J.threads.all fun e => decide (e.2.wait ≠ .token)
        && (decide (e.2.tx.depth = 0) || (s.executes e.1 && publishes e.2)))
      (s.unpublished s.cur.basin s.cur.jet publishing true = true →
        exec (.txe p) s = .next (s.hold (.short (.published true))))
      ∧ (s.unpublished s.cur.basin s.cur.jet publishing true = false → J.Ordered →
        (∀ l T, (l, T) ∈ J.threads → s.executes l = true →
          T.tx.skip = 1 ∨ (T.tx.skip = 0 ∧ T.tx.depth ≠ 1) ∨ publishes T = true) →
        ∃ t, exec (.txe p) s = .next t ∧ JetResult published t B J { J with slotHeld := slot } fun l T =>
          if s.executes l then
            if T.tx.skip = 1 then
              { T.advanced (s.issues l) with
                preds := (T.setPred p.toNat false).preds, tx := { T.tx with skip := 0, passed := 0 } }
            else
              { T.advanced (s.issues l) with
                preds := (T.setPred p.toNat true).preds
                tx := if T.tx.depth ≤ 1 then
                    { T.tx with depth := 0, irr := false, rlog := [], wlog := [], pages := [], since := none }
                  else { T.tx with depth := T.tx.depth - 1 } }
          else T.advanced (s.issues l))
      ∧ ((∀ l, s.executes l = true → ∃ T, J.threads.get? l = some T ∧ T.tx.skip = 0 ∧ T.tx.depth = 1 ∧ T.tx.irr = false) →
        J.Ordered → (∀ l, s.executes l = true → s.issues l = true) →
        ∃ t, exec (.txe p) s = .next t ∧ t.mem = s.mem
          ∧ ∀ l T, J.threads.get? l = some T → ∃ T', t.thread? s.cur.basin s.cur.jet l = some T' ∧ T'.tx = T.tx
              ∧ T'.words = T.words ∧ T'.preds = T.preds
              ∧ (s.executes l = true → T'.pc = T.pc ∧ T'.wait = .commit p.toNat s.tick)
              ∧ (s.executes l = false → s.issues l = true → T'.pc = T.pc + 4 ∧ T'.wait = .written)))
  ∧ (∀ (s : State) (B : Basin) (J : Jet) (d : Reg) (imm : BitVec 18),
      (Issues s {} B J → J.Ordered → (∀ l, s.executes l = true → s.issues l = true) →
        (∀ l T, J.threads.get? l = some T → T.inTx = true → s.token.holder ≠ some ⟨s.cur.basin, s.cur.jet, l⟩) →
        ∃ t, exec (.txa imm) s = .next t ∧ t.mem = s.mem ∧ t.token = s.token ∧ ∀ l T, J.threads.get? l = some T →
          t.thread? s.cur.basin s.cur.jet l = some
            (if s.executes l = true ∧ T.inTx = true then
              { T with
                pc := T.tx.txbpc + 4, wait := .none
                guardLeft := T.guardLeft - 1, guardBit := T.guardBit && decide (1 < T.guardLeft)
                tx := { T.tx with rlog := [], wlog := [], pages := [], since := none, depth := 0, irr := false, skip := 1,
                                  passed := 0, stat := BitVec.ofNat 32 (5 + T.tx.depth % 8 * 16 + imm.toNat % 256 * 256) } }
            else T.advanced (s.issues l)))
      ∧ (Issues s { named := [d.toNat] } B J →
        LaneCompletes (.txq d) s B J fun _ T => [(mapReg J.wb d.toNat, T.tx.stat)]))
  ∧ (∀ (s : State) (B : Basin) (J : Jet) (d a b q off : Reg) (op : AtomOp) (sc : Scope) (ord : MemOrder) (sz : Size) (la : BitVec 4)
      (la2 n : BitVec 2) (code : BitVec 16), J.Ordered → s.cur.resumed = false →
      (∀ l, s.executes l = true → s.issues l = true ∧ ∃ T, J.threads.get? l = some T ∧ T.inTx = true) →
      let block := fun (r : Reg) (n : Nat) => (List.range n).map fun i => r.toNat + i
      let pair := fun r : Reg => block r 2
      let Aborts := fun (i : Instr) (o : Operands) => Issues s o B J →
        ∃ t K, exec i s = .next t ∧ t = { s.withIssued B K B.matQ B.matDone with cur := t.cur } ∧ Narrowed J.longs K.longs
          ∧ K = { J with threads := K.threads, longs := K.longs, slotHeld := K.slotHeld }
          ∧ ∀ l T, J.threads.get? l = some T → K.threads.get? l = some
              (if s.executes l then T.aborted 8 0 else T.advanced (s.issues l))
      let one := fun r : Reg => ({ named := [r.toNat], reads := [r.toNat] } : Operands)
      Aborts (.atom d a op sc ord la) { named := [d.toNat] ++ pair a, reads := [d.toNat] ++ pair a }
      ∧ Aborts (.cas d a sc ord la) { named := pair d ++ pair a, reads := pair d ++ pair a }
      ∧ Aborts (.fence sc ord) { ends := true }
      ∧ Aborts (.waitge a b sc ord) { ureads := pair a ++ pair b }
      ∧ Aborts (.ctradd a b sc ord) { ureads := pair a ++ pair b }
      ∧ Aborts (.sld d a off sz la2) { ureads := pair a }
      ∧ Aborts (.rsvld q a off .g la2) { named := pair a, reads := pair a, rsv := [q.toNat] }
      ∧ Aborts (.rsvst q a off .g) { named := pair a, reads := pair a, rsv := [q.toNat], rsvReads := [q.toNat] }
      ∧ Aborts (.trwait d a) { named := block d 8 ++ [a.toNat], reads := [a.toNat] }
      ∧ Aborts (.trresIgn a) (one a) ∧ Aborts (.trresTerm a) (one a) ∧ Aborts (.trresRetry a) (one a)
      ∧ Aborts (.trresAcc a b) { named := [a.toNat, b.toNat], reads := [a.toNat, b.toNat] }
      ∧ Aborts (.trcan a) (one a)
      ∧ Aborts (.trrec d a n) { named := block d 8 ++ [a.toNat], reads := [a.toNat] }
      ∧ Aborts (.asupd a) { ureads := pair a }
      ∧ Aborts (.trap code) { barred := true, ends := true } ∧ Aborts (.trapBrk code) { barred := true, ends := true }
      ∧ (J.sys = false →
        Aborts (.bar q a) { ureads := [a.toNat], ends := true } ∧ Aborts (.barArrive q a) { ureads := [a.toNat], ends := true }
        ∧ Aborts (.waitm q) { ends := true }
        ∧ Aborts (.reord a) { named := [a.toNat], reads := [a.toNat], barred := true, ends := true })
      ∧ (copyDescOk ((block a 8).map J.sreg) (some B) = true → copyRange (copyDesc ((block a 8).map J.sreg)) = none →
        Aborts (.copy a sc ord) { ureads := block a 8 })
      ∧ (texDescOk ((block b 8).map J.sreg) = true →
        Aborts (.texf d a b la) { named := block d 4 ++ block a 3, reads := block a 3, ureads := block b 8 })
      ∧ (gridDescOk ((block b 8).map J.sreg) = true → operandsPending J.longs 0 [] [.ureg (b.toNat + 1)] = false →
        uniformSeen J.longs s.cur.group [b.toNat + 1] = false →
        let w1 := (J.sreg (b.toNat + 1)).toNat
        let words := (if w1.testBit 20 then 4 else 2) * (w1 / 65536 % 16 + 1)
        d.toNat + words ≤ 128 →
        Aborts (.hgrid d a b la) { named := block d words ++ block a 3, reads := block a 3, ureads := block b 8 })
      ∧ ((J.sreg b.toNat).toNat ≤ 255 → (s.travs.get? (256 * B.ctx + (J.sreg b.toNat).toNat)).isSome = true →
        Aborts (.trace d a b) { named := [d.toNat] ++ block a 10, reads := block a 10, ureads := [b.toNat] }))

/-- O30. R260, R257, R259: the commit of a lane whose jet has drained (of stores, and of read-modify-writes by the model's reading, log
50), whose earlier reads are done (R247) and whose lines nobody holds. Where every word of its read log
still has the logged value, exactly the bytes of its write log change in memory, and its predicate becomes true; otherwise
memory does not change, the predicate becomes false and TXSTAT says CONFLICT (1) with the depth. Either way its transaction
is over and it goes on. -/
def Obligations.CommitOutcome : Prop :=
  ∀ (s : State) (b j l p k : Nat) (B : Basin) (J : Jet) (T : Thread), Sound s →
    s.basins.get? b = some B → B.jets.get? j = some J → J.threads.get? l = some T → l < 32 → J.Ordered →
    T.wait = .commit p k → p < 16 → T.inTx = true → J.drained .pkg = true → J.readsDone s.tick (laneBit l) = true →
    J.commitBlocked l T = false → s.token.holder = none → Cells.sortedFrom none T.tx.wlog = true →
    (∀ e ∈ T.tx.wlog, e.1 % 4 = 0 ∧ e.1 < 0x180000000000) → (∀ e ∈ T.tx.rlog, e.1 % 4 = 0 ∧ e.1 < 0x180000000000) →
    (∀ e ∈ T.tx.wlog, Clean s e.1 4) → (∀ e ∈ T.tx.rlog, Clean s e.1 4) →
    ∃ t T', exec (.txCommit b j l) s = .next t ∧ t.thread? b j l = some T' ∧ T'.pc = T.pc + 4 ∧ T'.words = T.words
      ∧ T'.tx.depth = 0 ∧ T'.tx.rlog = [] ∧ T'.tx.wlog = [] ∧ T'.tx.pages = [] ∧ T'.tx.since = none
      ∧ ((∀ e ∈ T.tx.rlog, BitVec.ofNat 32 (s.homeNat e.1 4) = e.2) →
          T'.pred p = true ∧ T'.tx.stat = 0
            ∧ ∀ x, Cells.get 0 t.mem x =
                match T.tx.wlog.get? (x / 4 * 4) with
                | some e => if e.mask.getLsbD (x % 4) then e.val.extractLsb' (8 * (x % 4)) 8 else Cells.get 0 s.mem x
                | none => Cells.get 0 s.mem x)
      ∧ ((∃ e ∈ T.tx.rlog, BitVec.ofNat 32 (s.homeNat e.1 4) ≠ e.2) →
          (T'.pred p = decide (p = 0)) ∧ T'.tx.stat = BitVec.ofNat 32 (1 + T.tx.depth % 8 * 16) ∧ t.mem = s.mem)

/-! ### Reservoirs and draws -/

/-- O31. R367, R369, R372; R366, R370, R371: `RSVI` clears the four words of a reservoir, `RSVX` reads or writes one of them, and
`RSVF` gives W / (M × p̂), from words made sane, or 0 where the density or the count is 0. Reservoir q stands in the
allocation words A − 4q − 4 to A − 4q − 1 (R72). `RSVU` and `RSVM` draw once, add the candidate's weight (for `RSVM` the
density at the target times the merged reservoir's weight times its capped count), keep the candidate exactly where u24 × W
< w × 2^24, and add the counts up to 2^24 − 1, with HELD, MSAT and ADJ as the rules set them; a minus zero that is read as
zero does not count as altered for ADJ (log 20, the model's reading). -/
def Obligations.ReservoirUpdates : Prop :=
  (∀ (s : State) (B : Basin) (J : Jet) (q d : Reg) (f : RsvField),
      let w := 32 * B.shape.vgran - 4 * q.toNat - 4
      let field := match f with | .pay => 0 | .phat => 1 | .wsum => 2 | .mf => 3
      (Issues s { rsv := [q.toNat] } B J →
        LaneCompletes (.rsvi q) s B J fun _ _ => [(w, 0), (w + 1, 0), (w + 2, 0), (w + 3, 0)])
      ∧ (Issues s { named := [d.toNat], rsv := [q.toNat], rsvReads := [q.toNat] } B J →
        LaneCompletes (.rsvxGet d q f) s B J (fun _ T => [(mapReg J.wb d.toNat, T.word (w + field))])
        ∧ LaneCompletes (.rsvf d q) s B J fun _ T =>
            [(mapReg J.wb d.toNat,
              if (sane (T.word (w + 1))).1.num = 0 ∨ (T.word (w + 3)).toNat % 16777216 = 0 then 0
              else saturate (Q.div (sane (T.word (w + 2))).1
                (Q.mul (Q.ofNat ((T.word (w + 3)).toNat % 16777216)) (sane (T.word (w + 1))).1)))])
      ∧ (Issues s { named := [d.toNat], reads := [d.toNat], rsv := [q.toNat] } B J →
        LaneCompletes (.rsvxSet q d f) s B J fun _ T => [(w + field, T.word (mapReg J.wb d.toNat))]))
  ∧ (∀ (s : State) (B : Basin) (J : Jet) (q a b : Reg) (cap : BitVec 4),
      let w := 32 * B.shape.vgran - 4 * q.toNat - 4
      let wa := 32 * B.shape.vgran - 4 * a.toNat - 4
      let result := fun (r : Rsv) (pay phat : Word) (weight : Q) (bad : Bool) (n : Nat) (draw : Word) =>
        let sum := Q.add (sane r.wsum).1 weight
        let wsum := saturate sum
        let keep := Q.lt (Q.mul (Q.ofNat (draw.toNat / 256)) (value .f32 wsum.toNat).toQ) (Q.mul weight (Q.ofNat 16777216))
        let m := r.mf.toNat % 16777216
        let flags := (if keep then 0x01000000#32 else 0) ||| (if 16777215 < m + n then 0x02000000#32 else 0)
          ||| (if bad = true ∨ (sane r.wsum).2 = true ∨ Q.lt (Fmt.mag .f32 254 8388607) sum = true then 0x04000000#32 else 0)
        Rsv.mk (if keep then pay else r.pay) (if keep then phat else r.phat) wsum
          ((r.mf &&& 0xFF000000#32) ||| BitVec.ofNat 32 (min (m + n) 16777215) ||| flags)
      let Streams := fun (i : Instr) (f : Thread → Rsv) =>
        JetCompletes i s B J J fun l T =>
          if s.executes l then { (T.setRsv w (f T)).advanced (s.issues l) with drawC := T.drawC + 1 }
          else T.advanced (s.issues l)
      (Issues s { named := [a.toNat, a.toNat + 1, b.toNat], reads := [a.toNat, a.toNat + 1, b.toNat], rsv := [q.toNat],
                  rsvReads := [q.toNat] } B J →
        Streams (.rsvu q a b) fun T =>
          let x := sane (T.word (mapReg J.wb b.toNat))
          result (T.rsv w) (T.word (mapReg J.wb a.toNat)) (T.word (mapReg J.wb (a.toNat + 1))) x.1 x.2 1
            (drawValue T.drawK T.drawC))
      ∧ (Issues s { named := [b.toNat], reads := [b.toNat], rsv := [q.toNat, a.toNat], rsvReads := [q.toNat, a.toNat] } B J →
        Streams (.rsvm q a b cap) fun T =>
          let other := T.rsv wa
          let n := if cap = 0 then other.mf.toNat % 16777216 else min (other.mf.toNat % 16777216) (4 * cap.toNat)
          let dens := T.word (mapReg J.wb b.toNat)
          let W := rsvWeight other
          let weight := (value .f32 (saturate (Q.mul (Q.mul (sane dens).1 (value .f32 W.1.toNat).toQ) (Q.ofNat n))).toNat).toQ
          result (T.rsv w) other.pay dens weight (W.2 || (sane dens).2) n (drawValue T.drawK T.drawC)))

/-- O32. R373, R374, R174: `RSVLD` and `RSVST` move a reservoir between a thread and 16 aligned bytes: a load is one pending
operation of four words for each lane; a store to global memory goes through the store queue, and one to the scratchpad is one
pending operation for the issue, which holds its words, the highest lane standing, and writes them one by one (R374). Every word
of a pending scratchpad load is read, and every word of a pending scratchpad store written, in a step of its own. -/
def Obligations.ReservoirMemory : Prop :=
  ∀ (s : State) (B : Basin) (J : Jet) (q a off : Reg) (la : BitVec 2),
    let w := 32 * B.shape.vgran - 4 * q.toNat - 4
    let dests := [Dest.word w, .word (w + 1), .word (w + 2), .word (w + 3)]
    let ea := fun l => J.vpair l a.toNat + BitVec.ofInt 64 (off.toInt * 16)
    let sa := fun l => J.vreg l a.toNat + BitVec.ofInt 32 (off.toInt * 16)
    let bytes := fun l => (List.range 16).map fun i =>
      ((((J.threads.get? l).map fun (T : Thread) => T.word (w + i / 4)).getD 0).extractLsb' (8 * (i % 4)) 8)
    let Global := NoTransaction s J
      ∧ ∀ l, s.executes l = true → (J.threads.get? l).isSome = true ∧ (ea l).toNat < 2 ^ 48 ∧ (ea l).toNat % 16 = 0
    let Local := J.scratchWaits s.tick s.cur.exec = false
      ∧ ∀ l, s.executes l = true → (J.threads.get? l).isSome = true ∧ (sa l).toNat % 16 = 0
          ∧ (sa l).toNat + 16 ≤ B.shape.scr
    (Issues s { named := [a.toNat, a.toNat + 1], reads := [a.toNat, a.toNat + 1], rsv := [q.toNat] } B J → Global →
      s.full (lineCount ((lanesOf s.cur.exec).map ea)) = false →
      ∃ t, exec (.rsvld q a off .g la) s = .next t ∧ Advanced s t J
        ∧ t = s.retire.enterOps s.cur.basin s.cur.jet
            ((lanesOf s.cur.exec).map fun l => s.newOp J l la.toNat dests .reservoir (ea l)))
    ∧ (Issues s { named := [a.toNat], reads := [a.toNat], rsv := [q.toNat] } B J → Local →
      ∃ t K, exec (.rsvld q a off .s la) s = .next t ∧ t = s.withIssued B K B.matQ B.matDone ∧ Advanced s t J
        ∧ K.longs = (J.retire s.cur.group (!s.cur.resumed)).longs ++ (lanesOf s.cur.exec).map fun l =>
            s.newOp J l la.toNat dests (.ready 16) ((sa l).zeroExtend 64))
    ∧ (Issues s { named := [a.toNat, a.toNat + 1], reads := [a.toNat, a.toNat + 1], rsv := [q.toNat],
                  rsvReads := [q.toNat] } B J → Global →
      s.full (storeReqs s J (fun _ => false) (lanesOf s.cur.exec) ea bytes).length = false →
      ∃ t, exec (.rsvst q a off .g) s = .next t ∧ Advanced s t J
        ∧ t = s.retire.enterStores s.cur.basin s.cur.jet
            (storeReqs s J (fun _ => false) (lanesOf s.cur.exec) ea bytes))
    ∧ (Issues s { named := [a.toNat], reads := [a.toNat], rsv := [q.toNat], rsvReads := [q.toNat] } B J → Local →
      ∃ t K scr, exec (.rsvst q a off .s) s = .next t ∧ t = s.withIssued B K B.matQ B.matDone ∧ Advanced s t J
        ∧ K.longs = (J.retire s.cur.group (!s.cur.resumed)).longs ++
            [{ s.newOp J (lowLane s.cur.exec) 0 [] (.ready 0) 0 with lanes := s.cur.exec, scr := scr }]
        ∧ (∀ x l v, s.executes l = true → (sa l).toNat ≤ x → (bytes l)[x - (sa l).toNat]? = some v →
            (∀ k, l < k → s.executes k = true → ¬ ((sa k).toNat ≤ x ∧ x < (sa k).toNat + 16)) →
            (Cells.get? scr (x / 4 * 4)).map (fun w => w.extractLsb' (8 * (x % 4)) 8) = some v)
        ∧ (∀ x, (∀ l, s.executes l = true → ¬ ((sa l).toNat ≤ x ∧ x < (sa l).toNat + 16)) → Cells.get? scr x = none))
    ∧ (∀ (bas j k : Nat) (C : Basin) (K : Jet) (o : LongOp), s.basins.get? bas = some C → C.jets.get? j = some K →
      K.longs[0]? = some o → k < 128 → Cells.wf (0 : Byte) C.scratch = true →
      (∀ x v, o.scr[k]? = some (x, v) → x % 4 = 0 →
        ∃ t C', exec (.longWriteLands bas j k) s = .next t ∧ t.basins.get? bas = some C' ∧ t.mem = s.mem
          ∧ (∀ i, i < 4 → C'.scr (x + i) = v.extractLsb' (8 * i) 8)
          ∧ ∀ y, ¬ (x ≤ y ∧ y < x + 4) → C'.scr y = C.scr y)
      ∧ (∀ x, o.scr = [] → o.val = none → o.kind = .ready 16 → o.dests ≠ [] → o.wordsLeft[k]? = some x →
        (∀ e ∈ o.got, e.2 ≠ none) → x / 4 ∉ C.scratchPoison →
        ∃ t K', exec (.longWriteLands bas j k) s = .next t ∧ t.mem = s.mem ∧ t.jet? bas j = some K' ∧ K'.threads = K.threads
          ∧ o.record x (some (BitVec.ofNat 32 (C.scrNat x 4))) ∈ K'.longs
          ∧ (t.basins.get? bas).map (·.scratch) = some C.scratch))

/-- O33. R366, R368: the draws. `DRAW.seed` and `DRAW.setc` write a thread's key and counter; `DRAW.key` and `DRAW.ctr` read them;
`DRAW.int` and `DRAW.f32` give the next value of the thread's sequence and advance its counter by one. -/
def Obligations.Draws : Prop :=
  ∀ (s : State) (B : Basin) (J : Jet) (d a b : Reg),
    let next := fun (T : Thread) =>
      let v := T.drawC * 0x9E3779B1#32 + T.drawK
      let v := (v ^^^ (v >>> 15)) * 0x2C1B3C6D#32
      v ^^^ (v >>> 12)
    (Issues s { named := [a.toNat, b.toNat], reads := [a.toNat, b.toNat] } B J →
      JetCompletes (.drawSeed a b) s B J J fun l T =>
        if s.executes l then
          { T.advanced (s.issues l) with
            drawK := T.word (mapReg J.wb a.toNat), drawC := T.word (mapReg J.wb b.toNat) }
        else T.advanced (s.issues l))
    ∧ (Issues s { named := [a.toNat], reads := [a.toNat] } B J →
      JetCompletes (.drawSetc a) s B J J fun l T =>
        if s.executes l then { T.advanced (s.issues l) with drawC := T.word (mapReg J.wb a.toNat) }
        else T.advanced (s.issues l))
    ∧ (Issues s { named := [d.toNat] } B J →
      LaneCompletes (.drawKey d) s B J (fun _ T => [(mapReg J.wb d.toNat, T.drawK)])
      ∧ LaneCompletes (.drawCtr d) s B J (fun _ T => [(mapReg J.wb d.toNat, T.drawC)])
      ∧ JetCompletes (.drawInt d) s B J J (fun l T =>
          if s.executes l then
            { (T.setWord (mapReg J.wb d.toNat) (next T)).advanced (s.issues l) with drawC := T.drawC + 1 }
          else T.advanced (s.issues l))
      ∧ JetCompletes (.drawF32 d) s B J J fun l T =>
          if s.executes l then
            { (T.setWord (mapReg J.wb d.toNat)
                (BitVec.ofNat 32 (quantise (FV.ofQ ⟨(((next T).toNat / 256 : Nat) : Int), 16777216⟩) .f32 .rn false))).advanced
                  (s.issues l) with drawC := T.drawC + 1 }
          else T.advanced (s.issues l))

/-! ### The matrix engine and the tile store -/

/-- O34. R305, R306, R308, R310, R313, R315, R316: `MMAV` and `MLOOP` with good operands enter the matrix engine behind the
operations before them and move on, changing no accumulator yet; the fragments are those of the executing lanes, zero in the
others. `MMAV` of either form in an MX mode is ILLEGAL. `MRDY` moves on with nothing unperformed; `MWAIT` moves on once no operation on its
accumulator is pending; a lane for which one is that entered before it came to the `MWAIT` waits, by itself: it reports the operations that entered before it was accepted, and changes no element but where one of
them was touched in its interval (R239), and then none of another accumulator. That the fragments and the rows are those of the
issue, and that a completed operation waits for its `MWAIT`, is the model's reading (log 18). -/
def Obligations.MatrixIssue : Prop :=
  ∀ (s : State) (B : Basin) (J : Jet) (c a b : Reg) (k : BitVec 4),
    let eight := fun r : Reg => (List.range 8).map fun i => r.toNat + i
    let fa := J.fmode.toNat % 16
    let fb := J.fmode.toNat / 16 % 16
    let fragment := fun r : Reg => (List.range 32).map fun l =>
      if s.executes l then (eight r).map (J.vreg l) else List.replicate 8 (0 : Word)
    let ps := ((List.range 8).map fun i => 8 * k.toNat + i).map J.sreg
    let p := loopParams ps
    let Enters := fun (i : Instr) (kind : MatKind) =>
      ∃ t B' op, exec i s = .next t ∧ t.basins.get? s.cur.basin = some B' ∧ B'.matQ = B.matQ ++ [op]
        ∧ B'.matDone = B.matDone ∧ B'.accs = B.accs
        ∧ Advanced s t J ∧ t.mem = s.mem
        ∧ op.kind = kind ∧ op.acc = c.toNat ∧ op.mode = J.fmode ∧ op.jet = s.cur.jet ∧ op.tag = s.tick
        ∧ op.touched = false
    (Issues s { named := eight a ++ eight b, reads := eight a ++ eight b, acc := [c.toNat] } B J →
      (codeClass fa = 4 → exec (.mmavVv c a b) s = .next (s.trapGroup .illegal))
      ∧ (codeClass fa ≠ 4 → s.matrixLoad B.core < 64 → Enters (.mmavVv c a b) (.vv (fragment a) (fragment b))))
    ∧ (Issues s { named := eight a, reads := eight a, acc := [c.toNat] } B J → codeClass fa = 4 →
      exec (.mmavVt c a b) s = .next (s.trapGroup .illegal))
    ∧ (∀ x, Issues s { named := eight a, reads := eight a, acc := [c.toNat] } B J → codeClass fa ≠ 4 →
      B.tiles.get? b.toNat = some x → x.state = .ready → tileFmt x.handle = fb → tileCols x.handle = 32 →
      tileRows x.handle ≤ 64 → s.matrixLoad B.core < 64 →
      Enters (.mmavVt c a b) (.vt (fragment a) b.toNat (tileRows x.handle)))
    ∧ (Issues s { acc := [c.toNat], ureads := (List.range 8).map fun i => 8 * k.toNat + i } B J →
      loopRanges p ps (codeClass fa) = true →
      (∀ e ∈ loopTiles p (codeClass fa) fa fb a.toNat b.toNat, ∃ x, B.tiles.get? e.1 = some x ∧ x.state = .ready
        ∧ loopTileOk p.steps x.handle e = true) →
      s.matrixLoad B.core < 64 → Enters (.mloop c a b k) (.loop a.toNat b.toNat ps))
    ∧ (Issues s { ends := true } B J → JetCompletes .mrdy s B J { J with dirty := [] } fun l T => T.advanced (s.issues l))
    ∧ (Issues s { acc := [c.toNat] } B J → (∀ o ∈ B.matQ, o.acc ≠ c.toNat) → (∀ x ∈ B.accPoison, x / 4096 ≠ c.toNat) →
      let mark := ((lanesOf s.cur.exec).map fun l => J.accMark l c.toNat s.tick).foldl Nat.max 0
      let Untouched := ∀ o ∈ B.matDone, o.acc = c.toNat → o.tag < mark → o.touched = false
      ∃ t B', exec (.mwait c) s = .next t ∧ t.basins.get? s.cur.basin = some B' ∧ Advanced s t J ∧ t.mem = s.mem
        ∧ B'.matDone = B.matDone.filter (fun o => !decide (o.acc = c.toNat ∧ o.tag < mark))
        ∧ (Cells.wf (0 : Word) B.accs = true → ∀ n i j, i < 64 → j < 64 → n ≠ c.toNat → B'.acc n i j = B.acc n i j)
        ∧ (Untouched → JetResult s (t.withBasin s.cur.basin fun K => { K with matDone := B.matDone }) B J J
            fun l T => T.advanced (s.issues l)))
    ∧ (Issues s { acc := [c.toNat] } B J → J.Ordered → (∀ l, s.executes l = true → s.issues l = true) →
      (∀ x ∈ B.accPoison, x / 4096 ≠ c.toNat) →
      let late := fun l => ∃ o ∈ B.matQ, o.acc = c.toNat ∧ o.tag < J.accMark l c.toNat s.tick
      (∃ l, l < 32 ∧ s.executes l = true ∧ late l) →
      ∃ t, exec (.mwait c) s = .next t ∧ t.mem = s.mem ∧ ∀ l T, J.threads.get? l = some T →
        (s.executes l = true → late l →
          t.thread? s.cur.basin s.cur.jet l = some { T with wait := .acc c.toNat (J.accMark l c.toNat s.tick) })
        ∧ (s.executes l = true → ¬ late l → t.thread? s.cur.basin s.cur.jet l = some T.pass)
        ∧ (s.executes l = false → t.thread? s.cur.basin s.cur.jet l = some T))

/-- O35. R294, R297, R299, R301, R303: the tile moves. `TMOV.def` gives an EMPTY tile a good handle, `TMOV.rel` empties a READY one;
`TMOV.rd` reads, and `TMOV.wr` writes, one word for each executing lane in the row and from the column that the selector
names, and no other byte of the region changes; a `TMOV.wr` whose columns all lie outside the tile touches no operation (R239); `TSTAT` reads a tile's state. -/
def Obligations.TileMoves : Prop :=
  ∀ (s : State) (B : Basin) (J : Jet) (d t a : Reg) (x : Tile),
    let sel := (J.sreg a.toNat).toNat
    let col := fun l => sel / 65536 % 1024 + 4 * l
    let place := fun l => 1024 * (tileFirstRow x.handle + sel % 1024) + tileFirstCol x.handle + col l
    let Good := B.tiles.get? t.toNat = some x ∧ x.state = .ready ∧ B.regionPoison = [] ∧ sel % 1024 < tileRows x.handle
      ∧ sel / 65536 % 4 = 0 ∧ sel / 1024 % 64 = 0 ∧ sel / 67108864 = 0
    (Issues s { ureads := [a.toNat, a.toNat + 1] } B J → B.tiles.get? t.toNat = none → B.handleOk (J.spair a.toNat) = true →
      ∃ u B', exec (.tmovDef t a) s = .next u ∧ u.basins.get? s.cur.basin = some B' ∧ Advanced s u J ∧ u.mem = s.mem
        ∧ B'.region = B.region ∧ B'.tiles.get? t.toNat = some ⟨J.spair a.toNat, .ready⟩
        ∧ ∀ k, k ≠ t.toNat → B'.tiles.get? k = B.tiles.get? k)
    ∧ (Issues s {} B J → B.tiles.get? t.toNat = some x → x.state = .ready → Cells.sortedFrom none B.tiles = true →
      ∃ u B', exec (.tmovRel t) s = .next u ∧ u.basins.get? s.cur.basin = some B' ∧ Advanced s u J ∧ u.mem = s.mem
        ∧ B'.region = B.region ∧ B'.tiles.get? t.toNat = none
        ∧ ∀ k, k ≠ t.toNat → B'.tiles.get? k = B.tiles.get? k)
    ∧ (Issues s { named := [d.toNat], ureads := [a.toNat] } B J → Good →
      LaneCompletes (.tmovRd d t a) s B J fun l _ =>
        [(mapReg J.wb d.toNat,
          if col l < tileCols x.handle then BitVec.ofNat 32 (bytesNat B.regionByte (place l) 4) else 0)])
    ∧ (Issues s { named := [d.toNat], reads := [d.toNat], ureads := [a.toNat] } B J → Good →
      Cells.wf (0 : Byte) B.region = true →
      ∃ u B', exec (.tmovWr t d a) s = .next u ∧ u.basins.get? s.cur.basin = some B' ∧ Advanced s u J ∧ u.mem = s.mem
        ∧ (∀ l, s.executes l = true → col l < tileCols x.handle →
            BitVec.ofNat 32 (bytesNat B'.regionByte (place l) 4) = J.vreg l d.toNat)
        ∧ (∀ k, (∀ l, s.executes l = true → col l < tileCols x.handle → ¬ (place l ≤ k ∧ k < place l + 4)) →
            B'.regionByte k = B.regionByte k)
        ∧ ((∀ l, s.executes l = true → tileCols x.handle ≤ col l) → B'.matQ = B.matQ ∧ B'.matDone = B.matDone))
    ∧ (Issues s {} B J →
      UniformCompletes (.tstat d t) s B J
        [(d.toNat, ((B.tiles.get? t.toNat).map fun (y : Tile) =>
          match y.state with
          | .filling => 1
          | .ready => 2
          | .draining => (3 : Word)).getD 0)])

/-- O36. R239, R300 to R302: the accumulator moves. `AMOV.rd` and `AMOV.wr` move one element for each executing lane, in the row and
half that the selector names; while an operation on the accumulator is pending, or not yet reported by `MWAIT`, a read gives an
undefined value (a free value). `AMOV.zero` clears the accumulator; `AMOV.tile` converts its elements into a READY tile, and no other byte of the
region changes. -/
def Obligations.AccumulatorMoves : Prop :=
  ∀ (s : State) (B : Basin) (J : Jet) (d c a t : Reg) (x : Tile),
    let sel := (J.sreg a.toNat).toNat
    let f := tileFmt x.handle
    let per := 32 / codeBits f
    let place := fun i w => 1024 * (tileFirstRow x.handle + i) + tileFirstCol x.handle + 4 * w
    let Idle := B.accBusy c.toNat = false ∧ B.accPoison = [] ∧ Cells.wf (0 : Word) B.accs = true
    (Issues s { named := [d.toNat], acc := [c.toNat], ureads := [a.toNat] } B J → sel < 128 →
      (Idle → LaneCompletes (.amovRd d c a) s B J fun l _ =>
        [(mapReg J.wb d.toNat, B.acc c.toNat (sel % 64) (32 * (sel / 64) + l))])
      ∧ (B.accPoison = [] → ∃ (u : State) (v : Nat → Word), exec (.amovRd d c a) s = .next u
          ∧ LaneResult s u B J (fun l _ => [(mapReg J.wb d.toNat, v l)]) fun _ _ => []))
    ∧ (Issues s { named := [d.toNat], reads := [d.toNat], acc := [c.toNat], ureads := [a.toNat] } B J → sel < 128 →
      Cells.wf (0 : Word) B.accs = true →
      ∃ u B', exec (.amovWr c d a) s = .next u ∧ u.basins.get? s.cur.basin = some B' ∧ Advanced s u J ∧ u.mem = s.mem
        ∧ (∀ l, s.executes l = true → B'.acc c.toNat (sel % 64) (32 * (sel / 64) + l) = J.vreg l d.toNat)
        ∧ ∀ n i j, i < 64 → j < 64 →
            ¬ (n = c.toNat ∧ i = sel % 64 ∧ ∃ l, s.executes l = true ∧ j = 32 * (sel / 64) + l) → B'.acc n i j = B.acc n i j)
    ∧ (Issues s { acc := [c.toNat] } B J → Cells.wf (0 : Word) B.accs = true →
      ∃ u B', exec (.amovZero c) s = .next u ∧ u.basins.get? s.cur.basin = some B' ∧ Advanced s u J ∧ u.mem = s.mem
        ∧ ∀ n i j, i < 64 → j < 64 → B'.acc n i j = if n = c.toNat then 0 else B.acc n i j)
    ∧ (Issues s { acc := [c.toNat] } B J → Idle → B.tiles.get? t.toNat = some x → x.state = .ready → f ≤ 5 →
      tileRows x.handle ≤ 64 → tileCols x.handle * 8 / codeBits f ≤ 64 → tileFirstCol x.handle + tileCols x.handle ≤ 1024 →
      Cells.wf (0 : Byte) B.region = true →
      ∃ u B', exec (.amovTile t c) s = .next u ∧ u.basins.get? s.cur.basin = some B' ∧ Advanced s u J ∧ u.mem = s.mem
        ∧ (∀ i w, i < tileRows x.handle → w < tileCols x.handle / 4 →
            BitVec.ofNat 32 (bytesNat B'.regionByte (place i w) 4) = convWord f per w fun j => B.acc c.toNat i j)
        ∧ ∀ k, (∀ i w, i < tileRows x.handle → w < tileCols x.handle / 4 → ¬ (place i w ≤ k ∧ k < place i w + 4)) →
            B'.regionByte k = B.regionByte k)

/-- O37. R304, R305, R311, R313: the completion of the oldest operation on an accumulator, none of whose operands was touched (R239):
each element that it computes takes its result, every other element of every accumulator stays, and the operation leaves the
engine and waits for the `MWAIT` that reports it (log 18, the model's reading). An `MMAV.vv` adds to each element of its quarter the products of its group of fragment elements. -/
def Obligations.MatrixCompletes : Prop :=
  ∀ (s : State) (b k : Nat) (B : Basin) (o : MatOp), s.basins.get? b = some B → B.matQ[k]? = some o →
    (∀ x ∈ B.matQ.take k, x.acc ≠ o.acc) → o.touched = false → o.stale = false → Cells.wf (0 : Word) B.accs = true →
    (∀ e ∈ B.matrixResult o, e.1 < 64 ∧ e.2.1 < 64) → (∀ e ∈ B.jets, e.2.run ≠ .saved) →
    ∃ t B', exec (.matrixOpComplete b k) s = .next t ∧ t.basins.get? b = some B' ∧ B'.matQ = B.matQ.eraseIdx k
      ∧ B'.matDone = B.matDone ++ [o] ∧ B'.jets = B.jets ∧ t.mem = s.mem
      ∧ (∀ e ∈ B.matrixResult o, B'.acc o.acc e.1 e.2.1 = e.2.2.1)
      ∧ (∀ n i j, i < 64 → j < 64 → (n ≠ o.acc ∨ ∀ e ∈ B.matrixResult o, ¬ (e.1 = i ∧ e.2.1 = j)) →
          B'.acc n i j = B.acc n i j)
      ∧ ∀ fragA fragB, o.kind = .vv fragA fragB → ∀ i j, i < 32 → j < 32 →
          let fa := o.mode.toNat % 16
          let fb := o.mode.toNat / 16 % 16
          let cls := codeClass fa
          let r := (if o.mode.getLsbD 8 then 32 else 0) + i
          let c := (if o.mode.getLsbD 9 then 32 else 0) + j
          let row := fun (frag : List (List Word)) (n : Nat) => (frag[n]?).getD []
          B'.acc o.acc r c = accumulate cls (B.acc o.acc r c)
            ((List.range (groupSize cls)).map fun q =>
              product (elementValue fa (elementBits fa (regByte (row fragA i)) q))
                (elementValue fb (elementBits fb (regByte (row fragB j)) q)))

/-! ### The filter unit -/

/-- O38. R274, R275, R281, R286, R287, R277 to R284: `TEXF` and `HGRID` with a good descriptor put their lookups among the pending operations and
move on, the canonical NaN standing at once where a coordinate is not finite; a bad descriptor traps PAGEFAULT with kind
DESC (10), and a result block of `HGRID` beyond v127 is ILLEGAL. A lookup that no acquire and no release before it holds back reads one word of one of its
texels or entries at a time, each in an event of its own (log 21, the model's choice), after which the operation is as
`State.lookup` gives it and nothing else of its jet changes. Where every read has given what memory `M` holds, the result is that of
R276 to R284: the weighted sums of the texels of one level or two for `TEXF`, and of the eight corners' entries for `HGRID`,
whose bad level record gives the canonical NaN. -/
def Obligations.FilterLookups : Prop :=
  ∀ (s : State) (B : Basin) (J : Jet) (d a b : Reg) (la : BitVec 4),
    let block := fun (r : Reg) (n : Nat) => (List.range n).map fun i => r.toNat + i
    let ws := (block b 8).map J.sreg
    let v := fun l i => J.vreg l (a.toNat + i)
    let w1 := (J.sreg (b.toNat + 1)).toNat
    let feat := if w1.testBit 20 then 4 else 2
    let levels := w1 / 65536 % 16 + 1
    let ready := fun (l n : Nat) (m : Nat) =>
      if (List.range n).all fun i => finite32 (v l i) then none else some (List.replicate m 0x7FC00000#32)
    (Issues s { named := block d 4 ++ block a 3, reads := block a 3, ureads := block b 8 } B J →
      (texDescOk ws = false → exec (.texf d a b la) s = .next (s.trapFault s.cur.exec 0 0xA))
      ∧ (let ops := (lanesOf s.cur.exec).map fun l =>
            { s.newOp J l la.toNat ((block d 4).map fun r => .word (mapReg J.wb r))
                (.texf ws (v l 0) (v l 1) (v l 2)) (BitVec.allOnes 64) with val := ready l 2 4 }
        texDescOk ws = true → NoTransaction s J → s.full (ops.filter fun o => o.val.isNone).length = false →
        ∃ t, exec (.texf d a b la) s = .next t ∧ Advanced s t J ∧ t.mem = s.mem
          ∧ t = s.retire.enterOps s.cur.basin s.cur.jet ops))
    ∧ (Issues s { named := block d (feat * levels) ++ block a 3, reads := block a 3, ureads := block b 8 } B J →
      d.toNat + feat * levels ≤ 128 → uniformSeen J.longs s.cur.group [b.toNat + 1] = false →
      (gridDescOk ws = false → exec (.hgrid d a b la) s = .next (s.trapFault s.cur.exec 0 0xA))
      ∧ (let ops := (lanesOf s.cur.exec).flatMap fun l => (List.range levels).map fun k =>
            { s.newOp J l la.toNat ((List.range feat).map fun f => .word (mapReg J.wb (d.toNat + feat * k + f)))
                (.hgrid ws k (v l 0) (v l 1) (v l 2)) (BitVec.allOnes 64) with val := ready l 3 feat }
        gridDescOk ws = true → NoTransaction s J → s.full (ops.filter fun o => o.val.isNone).length = false →
        ∃ t, exec (.hgrid d a b la) s = .next t ∧ Advanced s t J ∧ t.mem = s.mem
          ∧ t = s.retire.enterOps s.cur.basin s.cur.jet ops))
    ∧ (s.jet? s.cur.basin s.cur.jet = some J → operandsPending J.longs 0 [] [.ureg (b.toNat + 1)] = false →
      uniformSeen J.longs s.cur.group [b.toNat + 1] = false → 128 < d.toNat + feat * levels → exec (.hgrid d a b la) s = .next (s.trapGroup .illegal))
    ∧ (∀ bas j k o s1 o1, s.basins.get? bas = some B → B.jets.get? j = some J → J.longs[k]? = some o → o.val = none →
      s.awaitsFault bas j o.va = false → J.acquirePending o.tag o.lanes = false →
      s.releaseOpen bas j J o.tag o.lanes true = false → s.lookup B.core B.ctx o = (s1, .ok o1) →
      ∃ t K, exec (.filterLookup bas j k) s = .next t ∧ t.mem = s1.mem ∧ t.jet? bas j = some K ∧ K.threads = J.threads
        ∧ K.longs = J.longs.set k o1)
    ∧ (∀ o s1 o1, s.lookup B.core B.ctx o = (s1, .ok o1) →
      o1.kind = o.kind ∧ o1.dests = o.dests ∧ o1.lane = o.lane
        ∧ (o1.val.isSome = true ↔ o.val.isSome = true ∨ o1.lookupLeft = [])
        ∧ (o.val = none → o1.val = if o1.lookupLeft = [] then some o1.lookupResult else none))
    ∧ ∀ (o : LongOp) (M : Nat → Byte) (ws : List Word),
      (∀ e ∈ o.lookupReads, Cells.get? o.got e.1 = some (some (BitVec.ofNat 32 (bytesNat M e.2.1 e.2.2)))) →
      let add := fun (acc : List Word) (wt : Q) (c : List FV) =>
        (acc.zip c).map fun e => ne32 (exactSum [value .f32 e.1.toNat, product (FV.ofQ wt) e.2] .rn)
      let split := fun (x : Q) (n : Nat) => (Q.floor x, Q.floor (Q.mul (Q.sub x (Q.ofInt (Q.floor x))) (Q.ofNat n)))
      (∀ u w lod x y, o.kind = .texf ws u w lod → (value .f32 u.toNat).real? = some x → (value .f32 w.toNat).real? = some y →
        let t := texDesc ws
        let L := ((value .f32 lod.toNat).real?).getD
          (if value .f32 lod.toNat = .inf false then Q.ofNat (t.mips - 1) else Q.ofNat 0)
        let sample := fun m =>
          let px := split (Q.sub (Q.mul x (Q.ofNat (max 1 (t.w / 2 ^ m)))) ⟨1, 2⟩) 4096
          let py := split (Q.sub (Q.mul y (Q.ofNat (max 1 (t.h / 2 ^ m)))) ⟨1, 2⟩) 4096
          [((0 : Int), (0 : Int)), (1, 0), (0, 1), (1, 1)].foldl (fun (acc : List Word) (d : Int × Int) =>
            let wt := (if d.1 = 1 then px.2 else 4096 - px.2) * (if d.2 = 1 then py.2 else 4096 - py.2)
            if wt = 0 then acc
            else add acc ⟨wt, 16777216⟩
              (match texAddr (px.1 + d.1) (max 1 (t.w / 2 ^ m)) t.au, texAddr (py.1 + d.2) (max 1 (t.h / 2 ^ m)) t.av with
              | some X, some Y => texelChannels t.fmt
                  (bytesNat M (t.base + levelOffset t m + (Y * max 1 (t.w / 2 ^ m) + X) * texelSize t.fmt) (texelSize t.fmt))
              | _, _ => List.replicate 4 (.zero false))) [0, 0, 0, 0]
        let lc := split (Q.max (Q.ofNat 0) (Q.min L (Q.ofNat (t.mips - 1)))) 4096
        o.lookupResult =
          if t.trilinear = false then sample (clampInt (roundInt L .rn) 0 ((t.mips : Int) - 1)).toNat
          else if lc.2 = 0 then sample lc.1.toNat
          else ((sample lc.1.toNat).zip (sample (lc.1.toNat + 1))).map fun e =>
            ne32 (exactSum [product (FV.ofQ ⟨4096 - lc.2, 4096⟩) (value .f32 e.1.toNat),
              product (FV.ofQ ⟨lc.2, 4096⟩) (value .f32 e.2.toNat)] .rn))
      ∧ ∀ level u w h x y z, o.kind = .hgrid ws level u w h → (value .f32 u.toNat).real? = some x →
        (value .f32 w.toNat).real? = some y → (value .f32 h.toNat).real? = some z →
        let F := if (descWord ws 1).testBit 20 then 4 else 2
        let lrec := descWord ws 0 + 2 ^ 32 * (descWord ws 1 % 65536) + 16 * level
        let tbase := bytesNat M lrec 8
        let T := bytesNat M (lrec + 12) 4
        let Good := fun scale => value .f32 (bytesNat M (lrec + 8) 4) = .fin scale ∧ 0 < scale.num ∧ tbase % 256 = 0
          ∧ tbase < 2 ^ 48 ∧ 4 ≤ T ∧ T ≤ 24
        (∀ scale, Good scale →
          let p := fun q => split (Q.mul q scale) 65536
          o.lookupResult = (List.range 8).foldl (fun acc c =>
            let wt := (if c % 2 = 1 then (p x).2 else 65536 - (p x).2) * (if c / 2 % 2 = 1 then (p y).2 else 65536 - (p y).2)
              * (if c / 4 = 1 then (p z).2 else 65536 - (p z).2)
            let co := fun q (d : Nat) => (((p q).1 + (d : Int)) % 4294967296).toNat
            let hash := Nat.xor (Nat.xor (co x (c % 2)) (0x9E3779B1 * co y (c / 2 % 2) % 2 ^ 32))
              (0xC2B2AE3D * co z (c / 4) % 2 ^ 32) % 2 ^ T
            if wt = 0 then acc
            else add acc ⟨wt, 2 ^ 48⟩ ((List.range F).map fun f => value .f16 (bytesNat M (tbase + 2 * F * hash + 2 * f) 2)))
            (List.replicate F 0))
        ∧ ((∀ scale, ¬ Good scale) → o.lookupResult = List.replicate F 0x7FC00000#32)

/-! ### Traps and system registers -/

/-- O39. R378 to R382, R389: taking a trap. `TRAP` and `TRAP.brk`, an ILLEGAL issue and a pending cause taken at an issue boundary
put the jet into system mode at the context's handler: cause, lanes and fault words as the cause gives them; each thread's
resume address and guard state saved, its guard cleared, an ordinary transaction aborted. In system mode the jet halts
instead, and an error is logged. No memory changes. -/
def Obligations.TrapEntries : Prop :=
  ∀ (s : State) (b j : Nat) (B : Basin) (J : Jet), s.basins.get? b = some B → B.jets.get? j = some J → quiet J.longs = true →
    let Entered := fun (t : State) (h : Handler) (cause : Word) (lanes : Lanes) (va : Dword) (kind : BitVec 4) (vec : Nat)
        (resume : Nat → Thread → Dword × BitVec 5) =>
      ∃ K, t.jet? b j = some K ∧ K.sys = true ∧ K.handler = h ∧ K.cause = cause ∧ K.lanemask = lanes ∧ K.faultva = va
        ∧ K.faultkind = kind ∧ K.sregs = J.sregs ∧ K.longs = J.longs ∧ t.mem = s.mem
        ∧ ∀ l T, J.threads.get? l = some T → ∃ T', K.threads.get? l = some T'
            ∧ T'.pc = BitVec.ofNat 64 (s.ctxField B.ctx vec 8) ∧ T'.words = T.words ∧ T'.preds = T.preds ∧ T'.wait = .none
            ∧ T'.guardLeft = 0 ∧ T'.guardBit = false
            ∧ (T.inTx = false → T'.epc = (resume l T).1 ∧ T'.grd = (resume l T).2 ∧ T'.tsSkip = T.tx.skip)
            ∧ (T.inTx = true → T'.epc = T.tx.txbpc + 4 ∧ T'.tsSkip = 1 ∧ T'.tx.depth = 0
                ∧ T'.tsStat = BitVec.ofNat 20 (6 + T.tx.depth % 8 * 16))
    let here := s.cur.basin = b ∧ s.cur.jet = j
    (here → Issues s { barred := true, ends := true } B J → NoTransaction s J → J.Ordered → ∀ code : BitVec 16,
      (J.sys = false →
        (∃ t, exec (.trap code) s = .next t ∧ Entered t .trap (BitVec.ofNat 32 (code.toNat * 65536 + 9)) s.cur.exec 0 0 0x10
          fun l T => (if s.executes l then s.cur.pc + 4 else T.pc, T.guardState))
        ∧ (∃ t, exec (.trapBrk code) s = .next t
          ∧ Entered t .trap (BitVec.ofNat 32 (code.toNat * 65536 + 10)) s.cur.exec 0 0 0x10
            fun l T => (if s.executes l then s.cur.pc else T.pc, T.guardState)))
      ∧ (J.sys = true → J.run ≠ .halted → ∃ t, (exec (.trap code) s = .next t ∧ exec (.trapBrk code) s = .next t)
          ∧ t.jet? b j = some { J with run := .halted } ∧ t.errorCount = s.errorCount + 1 ∧ t.mem = s.mem))
    ∧ (here → J.sys = false → Entered (s.trapGroup .illegal) .trap 1 s.cur.group 0 0 0x10
        fun l T => (if s.issues l then s.cur.pc else T.pc, T.guardState))
    ∧ (∀ p : Pending, J.causes = [p] → J.sys = false → J.run = .active →
      let resume := fun (l : Nat) (T : Thread) =>
        match p.resume.find? fun r => decide (r.lane = l) with
        | some r => (r.epc, r.grd)
        | none => (T.pc, T.guardState)
      (p.cause ≠ .preempt → ∃ t, exec (.trapEntry b j) s = .next t
        ∧ Entered t .trap (BitVec.ofNat 32 p.cause.code) (p.lanes &&& J.live) p.va p.kind 0x10 resume)
      ∧ (p.cause = .preempt → s.mayPreempt b j = true → ∃ t, exec (.trapEntry b j) s = .next t
        ∧ Entered t .save 8 J.live p.va p.kind 0x18 resume))

/-- O40. R383, R387; R385 to R388: `MFS` in system mode reads the system registers of Table 25.2 into each executing lane, and in the context-save handler
waits for some of them until every jet of the basin is there (R388); four of
them can be read in user mode, and there every other `MFS`, and `MTS` but for those four, is ILLEGAL. `MTS` in system mode
writes once for each executing lane, in ascending order: the thread registers take each lane's own value, the barrier part of
sys.tstate and sys.barno standing aside for `ERET`, and a BSTATE of 3 being kept and read back like any value, with no wait at `ERET` (log 23, the model's reading); the window base and the
format mode are those of the highest lane whose value is legal, and a barrier's words those of the highest lane; a new phase
tests every thread that waits at its barrier (R386); a read-only register, the tile registers among them, is left as it is. -/
def Obligations.SystemRegisters : Prop :=
  (∀ (s : State) (B : Basin) (J : Jet) (d : Reg), Issues s { named := [d.toNat], barred := true } B J →
      let Waits := fun n => J.handler = .save ∧ (n = 0x010 ∨ 0x020 ≤ n)
        ∧ ∃ e ∈ B.jets, e.2.handler ≠ .save ∧ e.2.run ≠ .saved ∧ e.2.run ≠ .exited
      let Reads := fun (n : Nat) (f : Thread → Word) =>
        (Waits n → exec (.mfs d (BitVec.ofNat 18 n)) s = .next (s.hold (.short .saving)))
        ∧ (¬ Waits n → LaneCompletes (.mfs d (BitVec.ofNat 18 n)) s B J fun _ T => [(mapReg J.wb d.toNat, f T)])
      let low := fun x : Dword => x.extractLsb' 0 32
      let high := fun x : Dword => x.extractLsb' 32 32
      (Reads 0x00F (fun _ => BitVec.ofNat 32 (s.cur.jet % 32 + (B.shape.jets - 1) * 2 ^ 5 + (B.shape.vgran - 1) * 2 ^ 10
          + B.shape.rsvn * 2 ^ 14 + B.shape.accn * 2 ^ 18))
        ∧ Reads 0x016 (fun _ => BitVec.ofNat 32 s.cycle) ∧ Reads 0x017 (fun _ => BitVec.ofNat 32 (s.cycle / 2 ^ 32))
        ∧ Reads 0x018 (fun _ => BitVec.ofNat 32 (B.ctx % 64 + B.cls % 4 * 64)))
      ∧ (J.sys = false → ∀ n : BitVec 18, n ≠ 0x00F → n ≠ 0x016 → n ≠ 0x017 → n ≠ 0x018 →
          exec (.mfs d n) s = .next (s.trapGroup .illegal) ∧ exec (.mts d n) s = .next (s.trapGroup .illegal))
      ∧ (J.sys = true →
          Reads 0x000 (fun _ => J.cause) ∧ Reads 0x001 (fun T => low T.epc) ∧ Reads 0x002 (fun T => high T.epc)
          ∧ Reads 0x003 (fun _ => J.lanemask) ∧ Reads 0x004 (fun _ => low J.faultva) ∧ Reads 0x005 (fun _ => high J.faultva)
          ∧ Reads 0x006 (fun _ => J.faultkind.zeroExtend 32)
          ∧ Reads 0x007 (fun T => BitVec.ofNat 32 (T.tsBstate.getD T.bstate % 4 * 2 ^ 29 + T.tsSkip % 8 * 2 ^ 26
              + (if T.tx.irr then 2 ^ 25 else 0) + T.tx.depth % 8 * 2 ^ 22 + T.tsStat.toNat))
          ∧ Reads 0x008 (fun T => T.grd.zeroExtend 32) ∧ Reads 0x009 (fun _ => BitVec.ofNat 32 J.wb)
          ∧ Reads 0x00A (fun _ => J.fmode.zeroExtend 32) ∧ Reads 0x00B (fun _ => low B.bsave)
          ∧ Reads 0x00C (fun _ => high B.bsave) ∧ Reads 0x00D (fun _ => low J.jsave) ∧ Reads 0x00E (fun _ => high J.jsave)
          ∧ Reads 0x010 (fun _ => BitVec.ofNat 32 (s.copies.filter fun c => c.namesBasin s.cur.basin).length)
          ∧ Reads 0x011 (fun T => (T.tsBarno.getD T.barno).zeroExtend 32) ∧ Reads 0x012 (fun T => T.k0) ∧ Reads 0x013 (fun T => T.k1)
          ∧ Reads 0x014 (fun T => T.k2) ∧ Reads 0x015 (fun T => T.k3)
          ∧ (∀ k, k < 16 →
              let K : Barrier := Cells.get {} B.barriers k
              Reads (0x020 + k) (fun _ => K.phase)
              ∧ Reads (0x030 + k) (fun _ => BitVec.ofNat 32
                  ((if K.err then 2 ^ 22 else 0) + K.arrived % 2048 * 2 ^ 11 + K.count % 2048)))
          ∧ ∀ k, k < 64 →
              let h := ((B.tiles.get? k).map (·.handle)).getD 0
              Reads (0x100 + 2 * k) (fun _ => low h) ∧ Reads (0x101 + 2 * k) (fun _ => high h)))
  ∧ (∀ (s : State) (B : Basin) (J : Jet) (d : Reg), Issues s { named := [d.toNat], reads := [d.toNat], barred := true } B J →
      J.sys = true →
      let Thr := fun (n : Nat) (f : Thread → Word → Thread) =>
        JetCompletes (.mts d (BitVec.ofNat 18 n)) s B J J fun l T =>
          if s.executes l then f (T.advanced (s.issues l)) (T.word (mapReg J.wb d.toNat)) else T.advanced (s.issues l)
      let v := J.vreg (highLane s.cur.exec) d.toNat
      let last := fun (start : Nat) (legal : Word → Bool) => (lanesOf s.cur.exec).foldl (fun x l =>
        if legal (J.vreg l d.toNat) then (J.vreg l d.toNat).toNat else x) start
      let Jets := fun (n : Nat) (K : Jet) =>
        JetCompletes (.mts d (BitVec.ofNat 18 n)) s B J K fun l T => T.advanced (s.issues l)
      Thr 0x001 (fun T v => { T with epc := T.epc.extractLsb' 32 32 ++ v })
      ∧ Thr 0x002 (fun T v => { T with epc := v ++ T.epc.extractLsb' 0 32 })
      ∧ Thr 0x007 (fun T v =>
          { T with
            exitAtEret := v.getLsbD 31
            tsPhase := if T.tsBstate.getD T.bstate = 0 ∧ v.toNat / 2 ^ 29 % 4 = 1 then
                some (Cells.get {} B.barriers (T.tsBarno.getD T.barno).toNat).phase
              else T.tsPhase
            tsBstate := some (v.toNat / 2 ^ 29 % 4)
            tsSkip := v.toNat / 2 ^ 26 % 8, tsStat := v.extractLsb' 0 20 &&& 0xFFF7F#20 })
      ∧ Thr 0x008 (fun T v => { T with
          grd := if v.toNat % 16 = 0 then 0 else BitVec.ofNat 5 (v.toNat / 16 % 2 * 16 + min (v.toNat % 16) 8) })
      ∧ Thr 0x011 (fun T v => { T with tsBarno := some (v.extractLsb' 0 4) })
      ∧ Thr 0x012 (fun T v => { T with k0 := v }) ∧ Thr 0x013 (fun T v => { T with k1 := v })
      ∧ Thr 0x014 (fun T v => { T with k2 := v }) ∧ Thr 0x015 (fun T v => { T with k3 := v })
      ∧ (Issues s { named := [d.toNat], reads := [d.toNat], barred := true, ends := true } B J →
        Jets 0x009 { J with wb := last J.wb fun v => decide (v.toNat % 32 = 0 ∧ 32 ≤ v.toNat ∧ v.toNat ≤ 480) })
      ∧ Jets 0x00A { J with
          fmode := BitVec.ofNat 18 (last J.fmode.toNat fun v =>
            decide (v.toNat < 1024) && formatMode (v.extractLsb' 0 18)) }
      ∧ (∀ n ∈ [0x000, 0x003, 0x004, 0x005, 0x006, 0x00B, 0x00C, 0x00D, 0x00E, 0x00F, 0x010, 0x016, 0x017, 0x018], Jets n J)
      ∧ (∀ k, k < 128 → Jets (0x100 + k) J)
      ∧ ∀ k, k < 16 →
          (∃ t B', exec (.mts d (BitVec.ofNat 18 (0x020 + k))) s = .next t ∧ t.basins.get? s.cur.basin = some B' ∧ t.mem = s.mem
            ∧ Cells.get {} B'.barriers k = { (Cells.get {} B.barriers k : Barrier) with phase := v }
            ∧ ((∃ l, s.cur.exec = laneBit l) → ∀ j l T, s.thread? s.cur.basin j l = some T →
                t.thread? s.cur.basin j l = some ((if j = s.cur.jet then T.advanced (s.issues l) else T).atPhase k v)))
          ∧ ∃ t B', exec (.mts d (BitVec.ofNat 18 (0x030 + k))) s = .next t ∧ t.basins.get? s.cur.basin = some B'
            ∧ t.mem = s.mem
            ∧ Cells.get {} B'.barriers k = { (Cells.get {} B.barriers k : Barrier) with
                err := v.getLsbD 22, arrived := v.toNat / 2 ^ 11 % 2048, count := v.toNat % 2048 })

/-- O41. R385, R390: `ERET` returns the whole jet to user mode: every live thread resumes at its sys.epc with the guard state, skip
count, TXSTAT and barrier record of its system registers, blocked at its barrier where the record says so and the barrier's phase
is still that of its arrival, and a thread whose EXITED bit was written ends. In user mode it is ILLEGAL. -/
def Obligations.TrapReturn : Prop :=
  ∀ (s : State) (B : Basin) (J : Jet), Issues s { barred := true, ends := true, endsAll := true } B J → J.Ordered →
    let out := J.lanesWith fun T => T.exitAtEret
    (J.sys = false → exec .eret s = .next (s.trapGroup .illegal))
    ∧ (J.sys = true → (∀ e ∈ B.jets, e.2.run ≠ .saved) →
      (out ≠ 0 → s.unpublished s.cur.basin s.cur.jet out false = false ∧ s.lastExitWaits s.cur.basin s.cur.jet out = false) →
      ∃ t K, exec .eret s = .next t ∧ t.jet? s.cur.basin s.cur.jet = some K ∧ K.sys = false ∧ K.handler = .none
        ∧ t.mem = s.mem
        ∧ (∀ l T, J.threads.get? l = some T → T.exitAtEret = true → K.threads.get? l = none)
        ∧ ∀ l T, J.threads.get? l = some T → T.exitAtEret = false →
            let bar := T.tsBarno.getD T.barno
            let phase := T.tsPhase.getD T.arrphase
            let blocked := T.tsBstate.getD T.bstate = 1 ∧ (Cells.get {} B.barriers bar.toNat).phase = phase
            K.threads.get? l = some { T with
              pc := T.epc, wait := if blocked then .bar else .none, bstate := if blocked then 1 else 0
              barno := bar, arrphase := phase, tsBstate := none, tsBarno := none, tsPhase := none
              guardBit := T.grd.getLsbD 4 && decide (T.grd.toNat % 16 ≠ 0), guardLeft := T.grd.toNat % 16
              tx := { T.tx with skip := T.tsSkip, stat := T.tsStat.zeroExtend 32 } })

/-! ### Traversal -/

/-- O42. R326, R328, R331 to R335, R345: the ray instructions. `TRACE` sends one ray for each executing lane, with the lane's ten
words, to the even or odd stack of its die, and gives the lane its ticket, which stands already in the ten words where they hold d; `TRWAIT` gives each lane the eight words of its
report (0xFF for a ticket that names no ray) and frees rays that are DONE, or waits where a ray has no report, keeping the ticket
and the window base of its issue (R73); the `TRRES`
forms send their answers, once the stores that an earlier release covers are acknowledged (R358); `TRCAN` frees the rays named and
drops the thread's answers to them that are still on their way (R362); `TRREC` reads eight words of a ray's record, once the thread's earlier
answer on the same ticket has arrived (R362). -/
def Obligations.RayInstructions : Prop :=
  ∀ (s : State) (B : Basin) (J : Jet) (d a b : Reg) (n : BitVec 2), NoTransaction s J → 32 ≤ J.wb → J.Ordered →
    let block := fun (r : Reg) (n : Nat) => (List.range n).map fun i => r.toNat + i
    let ticket := fun l => J.vreg l a.toNat
    let Words := fun (t : State) (m : Nat) (wb : Nat → Nat) (v : Nat → Nat → Word) =>
      ∀ l T, J.threads.get? l = some T → s.executes l = true → ∃ T', t.thread? s.cur.basin s.cur.jet l = some T'
        ∧ T' = { T.advanced (s.issues l) with words := T'.words }
        ∧ (∀ i, i < m → T'.word (mapReg (wb l) (d.toNat + i)) = v l i)
        ∧ ∀ w, (∀ i, i < m → w ≠ mapReg (wb l) (d.toNat + i)) → T'.word w = T.word w
    let waitOf := fun l =>
      match (J.threads.get? l).map (·.wait) with
      | some (.ray k wb) => (k, wb)
      | _ => (ticket l, J.wb)
    let st := 2 * (B.core / 128)
    let need := fun p => ((lanesOf s.cur.exec).filter fun l => decide (l % 2 = p)).length
    (Issues s { named := [d.toNat] ++ block a 10, reads := block a 10, ureads := [b.toNat] } B J →
      let c := (J.sreg b.toNat).toNat
      (255 < c ∨ s.travs.get? (256 * B.ctx + c) = none → exec (.trace d a b) s = .next (s.trapFault s.cur.exec 0 0xA))
      ∧ (c ≤ 255 → (s.travs.get? (256 * B.ctx + c)).isSome = true → need 0 ≤ s.freeEntries st →
        need 1 ≤ s.freeEntries (st + 1) → (0 < need 0 → s.crowded st = false) → (0 < need 1 → s.crowded (st + 1) = false) →
        J.acquirePending s.tick s.cur.exec = false →
        s.releaseOpen s.cur.basin s.cur.jet J s.tick s.cur.exec true = false →
        (∀ l, s.executes l = true → (J.threads.get? l).isSome = true) →
        ∃ (t : State) (rs : Nat → Ray), exec (.trace d a b) s = .next t ∧ t.mem = s.mem
          ∧ t.rays = s.rays ++ (lanesOf s.cur.exec).map rs
          ∧ Words t 1 (fun _ => J.wb)
              (fun l _ => BitVec.ofNat 32 ((rs l).stack * 2 ^ 28 + (rs l).entry * 2 ^ 10 + (rs l).gen))
          ∧ ∀ l, s.executes l = true →
              let v := fun i => if mapReg J.wb (a.toNat + i) = mapReg J.wb d.toNat then (rs l).ticket
                else J.vreg l (a.toNat + i)
              (rs l).stack = st + l % 2 ∧ (rs l).place = st + l % 2 ∧ (rs l).state = .travelling ∧ (rs l).gen < 1024
                ∧ (rs l).org = [v 0, v 1, v 2] ∧ (rs l).tmin = v 3 ∧ (rs l).dir = [v 4, v 5, v 6] ∧ (rs l).tmax = v 7
                ∧ (rs l).rflags = v 8 ∧ (rs l).tag = v 9 ∧ (rs l).tctx = c ∧ (rs l).ctx = B.ctx
                ∧ (rs l).launch = B.launch ∧ (rs l).basin = B.index ∧ (rs l).stk = [] ∧ (rs l).bestIdx = none))
    ∧ (Issues s (if s.cur.resumed then {} else { named := block d 8 ++ [a.toNat], reads := [a.toNat] }) B J →
      (∀ l, s.executes l = true → 32 ≤ (waitOf l).2) →
      ((∀ l, s.executes l = true → s.rayWaits B s.cur.jet l (waitOf l).1 = false) →
        ∃ t, exec (.trwait d a) s = .next t ∧ t.mem = s.mem
          ∧ Words t 8 (fun l => (waitOf l).2) (fun l i =>
              match s.rayOf B (waitOf l).1 with
              | none => if i = 0 then 0xFF else 0
              | some r => (([r.statusWord] ++ (List.range 6).map (fun k => (r.report[k]?).getD 0) ++ [r.tag])[i]?).getD 0)
          ∧ ∀ l r, s.executes l = true → s.rayOf B (waitOf l).1 = some r → r.state = .done →
              t.rayOf B (waitOf l).1 = none)
      ∧ ((∃ l, l < 32 ∧ s.executes l = true ∧ s.rayWaits B s.cur.jet l (waitOf l).1 = true) →
        ∃ t, exec (.trwait d a) s = .next t ∧ t.mem = s.mem ∧ t.rays = s.rays
          ∧ ∀ l T, J.threads.get? l = some T → t.thread? s.cur.basin s.cur.jet l = some
              (if s.executes l then { T with wait := .ray (waitOf l).1 (waitOf l).2 }
                else if s.issues l then { T with wait := .held } else T)))
    ∧ (Issues s { named := block d 8 ++ [a.toNat], reads := [a.toNat] } B J →
      (∀ l, (lanesOf s.cur.exec).find? (fun l => s.answerOut B s.cur.jet l (ticket l)) = some l →
        exec (.trrec d a n) s = .next (s.hold (.short (.answer (ticket l)))))
      ∧ ((∀ l, s.executes l = true → s.answerOut B s.cur.jet l (ticket l) = false) →
        ∃ (t : State) (v : Nat → Nat → Word), exec (.trrec d a n) s = .next t ∧ t.mem = s.mem ∧ Words t 8 (fun _ => J.wb) v
          ∧ ∀ l i, s.executes l = true → i < 8 →
              match s.rayOf B (ticket l) with
              | none => v l i = 0
              | some r =>
                if r.reported then 8 * n.toNat + i < 16 + 2 * r.stk.length → v l i = r.recordWord (8 * n.toNat + i) 0
                else v l i = 0))
    ∧ (Issues s { named := [a.toNat], reads := [a.toNat] } B J →
      let Answers := fun (i : Instr) (x : Answer) =>
        (s.releaseOpen s.cur.basin s.cur.jet J s.tick s.cur.exec true = true →
          exec i s = .next (s.hold (.short (.ordered true))))
        ∧ (s.releaseOpen s.cur.basin s.cur.jet J s.tick s.cur.exec true = false →
          exec i s = .next { s.retire with answers := s.answers ++ (lanesOf s.cur.exec).map fun l =>
            { ticket := ticket l, ctx := B.ctx, launch := B.launch, basin := B.index, jet := s.cur.jet, lane := l,
              answer := x, core := B.core } })
      Answers (.trresIgn a) .ign ∧ Answers (.trresTerm a) .term ∧ Answers (.trresRetry a) .retry
      ∧ ∃ t, exec (.trcan a) s = .next t ∧ Advanced s t J ∧ t.mem = s.mem
          ∧ (∀ l, s.executes l = true → t.rayOf B (ticket l) = none)
          ∧ (∀ x, x ∈ t.answers ↔ x ∈ s.answers ∧ ∀ l, l < 32 → s.executes l = true →
              ¬ (x.ticket = ticket l ∧ x.ctx = B.ctx ∧ x.launch = B.launch ∧ x.basin = B.index ∧ x.jet = s.cur.jet
                ∧ x.lane = l))
          ∧ ∀ r ∈ s.rays, (∀ l, s.executes l = true →
              ¬ (r.ticket = ticket l ∧ r.ctx = B.ctx ∧ r.launch = B.launch ∧ r.basin = B.index)) → r ∈ t.rays)
    ∧ (Issues s { named := [a.toNat, b.toNat], reads := [a.toNat, b.toNat] } B J →
      s.releaseOpen s.cur.basin s.cur.jet J s.tick s.cur.exec true = false →
      exec (.trresAcc a b) s = .next { s.retire with answers := s.answers ++ (lanesOf s.cur.exec).map fun l =>
        { ticket := ticket l, ctx := B.ctx, launch := B.launch, basin := B.index, jet := s.cur.jet, lane := l,
          answer := .acc (J.vreg l b.toNat), core := B.core } })

/-- O43. R326, R331, R333, R336 to R340, R342, R344, R345, R352: the events of rays. Before an arrival a parked ray may move to the cistern, and
the head of the cistern takes a slot where 8,192 are free. Of the rays on their way the first sent arrives (log 64, the model's
choice between senders). A bad ray ends BADRAY (7) at the unit of its origin stack, and a
good one is queued under its root's treelet where that lies on the same stack; a pick gives a free engine at most 64 rays, of
the longest queue of a treelet of one table (R320) where no ray has waited 4,096 picks; one that has found a node odd for 1 ms ends BADNODE (6); an answer that fits its ray queues it again, or ends it.
A step of a traversal is one of these: a ray with nothing left to visit ends with HIT (2), or BADREC (5) where the index of its
hit lies beyond the table, or with MISS (1); an ordinary entry is popped, and passed where it lies beyond TMAX; the last words
of a node are read, and the node is read again where its version has changed, ends the ray where it is malformed, lists the
primitives of its leaf children that are hit, in order of entry, or is entered as an instance; a primitive is passed, accepted, or
suspends the ray as a candidate; and after the last one the children hit are descended into, the nearest first. -/
def Obligations.RayEvents : Prop :=
  ∀ (s : State) (k st : Nat) (r : Ray),
    let u := s.stow st
    (u = s ∨ ∃ i x, s.rays[i]? = some x ∧ x.parkedAt st = true ∧ x.reported = true ∧ x.cistern = false
      ∧ u = { s with rays := s.rays.set i { x with cistern := true, arrival := s.arrivals }, arrivals := s.arrivals + 1 })
    ∧ (∀ i x, (firstRay u.rays fun x => x.parkedAt st && x.cistern) = some i → 8192 ≤ u.slotsFree st → u.rays[i]? = some x →
      exec (.rayArrive st) s = .next { u with rays := u.rays.set i { x with cistern := false } })
    ∧ (u.rays[k]? = some r → (firstRay u.rays fun x => x.parkedAt st && x.cistern) = none ∨ u.slotsFree st < 8192 →
      (firstRay u.rays fun x => decide (x.place = st ∧ x.state = .travelling)) = some k → r.fresh = true →
      (r.bad = true → ∀ c, u.room st = some c →
        ∃ t, exec (.rayArrive st) s = .next t ∧ t.mem = s.mem
          ∧ t.rays = u.rays.set k { r with state := .done, status := 7, report := [0, 0, 0, 0, 0, 0],
                                           read := none, visit := none, inst := none, oddSince := none,
                                           arrival := u.arrivals, picks := 0, cistern := c })
      ∧ (∀ rec s1 nodes leaves c, r.bad = false → u.travRecord r = some rec →
        Ext.lt (extWord r.tmax) (extWord r.tmin) = false → rec.root ≠ 0xFFFFFFFF →
        u.locate { r with node := rec.root } rec.root = (s1, .at r.place nodes leaves) → u.room st = some c →
        ∃ t, exec (.rayArrive st) s = .next t ∧ t.mem = s1.mem
          ∧ t.rays = s1.rays.set k { r with node := rec.root, state := .queued,
                                            treelet := rec.root.toNat / 4096, arrival := s1.arrivals, picks := 0,
                                            cistern := c }))
    ∧ (∀ e, s.freeEngine st = some e → r ∈ s.rays → r.waitsAt st = true →
      ∃ (t : State) (ks : List Nat), exec (.enginePick st) s = .next t ∧ t.mem = s.mem ∧ 1 ≤ ks.length ∧ ks.length ≤ 64
        ∧ (∀ i ∈ ks, ∃ x, s.rays[i]? = some x ∧ x.waitsAt st = true)
        ∧ (let length := fun key => (s.rays.filter fun x => x.waitsAt st && decide (x.queueKey = key)).length
          (∀ x ∈ s.rays, x.waitsAt st = true → x.picks ≤ 4096) →
          ∃ key, (∀ i x, i ∈ ks → s.rays[i]? = some x → x.queueKey = key)
            ∧ ∀ x ∈ s.rays, x.waitsAt st = true → length x.queueKey ≤ length key)
        ∧ t.rays = s.rays.mapIdx fun i (x : Ray) =>
            if i ∈ ks then { x with state := .traversing, engine := e, picks := 0 }
            else if x.waitsAt st then { x with picks := x.picks + 1 } else x)
    ∧ (s.rays[k]? = some r → r.state = .traversing →
      let Goes := fun (t : State) (x : Ray) => exec (.rayTraverse k) s = .next { t with rays := t.rays.set k x }
      let Stops := fun (t : State) (x : Ray) =>
        exec (.rayTraverse k) s = .next { t with rays := t.rays.set k { x with arrival := t.arrivals }, arrivals := t.arrivals + 1 }
      let left := { r with read := none, visit := none, inst := none, oddSince := none }
      let ends := fun (x : Ray) (code : Nat) (report : List Word) =>
        { x with state := .done, status := code, report := report, read := none, visit := none, inst := none, oddSince := none }
      let limit := ((s.travRecord r).map (·.sbtCount)).getD 0
      let finish := fun x : Ray =>
        match x.bestIdx with
        | none => ends x 1 [x.tmax, x.bestPrim, x.bestIG, x.bary, 0, 0]
        | some i => ends x (if limit ≤ i then 5 else 2) [x.bestT, x.bestPrim, x.bestIG, x.bary, BitVec.ofNat 32 i, 0]
      (r.node = 0xFFFFFFFF → r.stk = [] → r.restart = false → r.visit = none → Stops s (finish r))
      ∧ (∀ rest ref w, r.node = 0xFFFFFFFF → r.visit = none → r.stk = rest ++ [(ref, w)] → w ≠ 0xFFFFFFFF → resumeOf w = none →
        (Ext.lt (extWord r.tmax) (extWord w) = false → ref ≠ 0xFFFFFFFF →
          Goes s { r with stk := rest, node := ref, resume := none })
        ∧ (Ext.lt (extWord r.tmax) (extWord w) = true → rest = [] → r.restart = false → Stops s (finish { r with stk := [] })))
      ∧ (∀ s1 s2 s3 nodes leaves x got version, r.visit = none → r.node ≠ 0xFFFFFFFF →
        s.locate r r.node = (s1, .at r.place nodes leaves) → r.node.toNat / 4096 = r.treelet →
        r.node.toNat % 4096 ≤ leaves / 2 ^ 48 % 4096 → r.inside = none ∨ r.inst.isSome = true →
        let va := nodes + 128 * (r.node.toNat % 4096)
        r.read = some x → x.va = va → s1.readSome r va x.got (List.range 32) = (s2, .ok got) →
        (∀ i, i < 32 → (got.get? i).isSome = true) →
        s2.engineRead (stackPlace r.place) r.ctx r.sys (va + 0x14) 4 = (s3, .ok version) →
        let n := wordsNat got 32
        let bad := decide (nodeType n ≠ 0 ∧ nodeType n ≠ 1) || (decide (nodeType n = 0) && !boxOk n)
          || (decide (nodeType n = 1) && (!instOk n || r.inside.isSome))
        (BitVec.ofNat 32 version ≠ x.version → Goes s3 { r with read := none })
        ∧ (BitVec.ofNat 32 version = x.version → bad = true → Stops s3 (ends r 6 [0, 0, 0, 0, 0, 0]))
        ∧ (BitVec.ofNat 32 version = x.version → bad = false → nodeType n = 0 → r.resume = none →
          ∃ hits : List Child,
            List.Pairwise (fun (a b : Child) => Ext.lt a.te b.te = true ∨ (Ext.lt b.te a.te = false ∧ a.slot < b.slot)) hits
            ∧ (∀ c, c ∈ hits ↔ c = ⟨(slabs r n c.slot).1, c.slot, true⟩ ∧ c.slot < 8 ∧ (fieldAt n 0x0F 1).testBit c.slot = true
                ∧ boxEmpty n c.slot = false ∧ (slabs r n c.slot).2.2 = true
                ∧ Ext.le (slabs r n c.slot).1 (slabs r n c.slot).2.1 = true)
            ∧ Goes s3 { r with
                read := none, pendingAns := none
                visit := some { node := n, leaves := leaves, todo := hits.flatMap fun c =>
                  if (childKind n c.slot = 1 ∧ r.rflags.getLsbD 5 = false) ∨ (childKind n c.slot = 2 ∧ r.rflags.getLsbD 6 = false)
                  then (List.range (fieldAt n (0x50 + c.slot) 1 + 1)).map fun p => (c.slot, p) else [] } })
        ∧ (BitVec.ofNat 32 version = x.version → bad = false → nodeType n = 1 →
          let shut := r.rflags.toNat / 65536 % 256 &&& fieldAt n 0x1F 1 = 0 ∨ r.instOf n = none
          (shut → Goes s3 { r with read := none, node := 0xFFFFFFFF })
          ∧ (¬ shut → r.stk.length < 8 →
            Goes s3 { r with read := none, stk := r.stk ++ [(r.node, 0xFFFFFFFF)], node := fieldWord n 0x18 })))
      ∧ (∀ v, r.visit = some v → v.todo = [] →
        ∃ down : List Child, down = (childOrder r v.node).filter (fun c => c.hit && inner v.node c.slot
            && Ext.le c.te (extWord r.tmax))
          ∧ (down = [] → Goes s { left with node := 0xFFFFFFFF })
          ∧ ∀ c rest, down = c :: rest → r.stk.length + rest.length ≤ 8 →
              Goes s { left with
                node := childRef v.node c.slot
                stk := r.stk ++ rest.reverse.map fun c => (childRef v.node c.slot, roundDown c.te) })
      ∧ ∀ v i p rest, r.visit = some v → v.todo = (i, p) :: rest → r.resume = none →
        let past := { r with visit := some { v with todo := rest, got := [] } }
        let m := wordsNat v.got 16
        let geom := fieldAt m 0x28 1
        let idx := (match r.inst with | some x => x.base | none => 0) + geom * (r.rflags.toNat / 4096 % 16) + r.rflags.toNat / 16777216
        let ig := BitVec.ofNat 32 ((match r.inst with | some x => x.id | none => 0) + 16777216 * geom)
        let prim := fieldWord m 0x24
        let Accepts := fun (t : State) (w bary : Word) =>
          let x := { past with tmax := w, bestT := w, bestPrim := prim, bestIG := ig, bary := bary, bestIdx := some idx }
          (r.rflags.getLsbD 2 = false → Goes t x) ∧ (r.rflags.getLsbD 2 = true → t.travs = s.travs → Stops t (finish x))
        let Candidate := fun (w bary : Word) (tri : Bool) =>
          (limit ≤ idx → (s.travRecord r).isSome = true →
            Stops s (ends past 5 [w, prim, ig, bary, BitVec.ofNat 32 idx, 0]))
          ∧ ∀ s1 a sbt, s.travRecord r = some sbt → idx < limit →
              s.engineRead (stackPlace r.place) r.ctx r.sys (sbt.sbt.toNat + 4 * idx) 4 = (s1, .ok a) →
              (a = 0 → Accepts s1 w bary)
              ∧ (a ≠ 0 → r.stk.length < 8 → Stops s1 { left with
                  state := .candidate, status := 3, candTri := tri, candPrim := prim, candIG := ig, candIdx := idx
                  stk := r.stk ++ [(r.node, BitVec.ofNat 32 (0x7F800001 + 256 * i + p))], node := 0xFFFFFFFF
                  report := [w, prim, ig, bary, BitVec.ofNat 32 idx, BitVec.ofNat 32 a] })
        (childKind v.node i = 1 → (∀ q, q < 16 → (v.got.get? q).isSome = true) →
          (triangle past m = none → Goes s past)
          ∧ ∀ tt a b, triangle past m = some (tt, a, b) →
            (r.opaquePrim (fieldAt m 0x29 1) = true → Accepts s (ne32 (FV.ofQ tt)) (baryWord a b))
            ∧ (r.opaquePrim (fieldAt m 0x29 1) = false → Candidate (ne32 (FV.ofQ tt)) (baryWord a b) true))
        ∧ (childKind v.node i ≠ 1 → Ext.lt (extWord r.tmax) (slabs past v.node i).1 = true → Goes s past)
        ∧ (childKind v.node i ≠ 1 → Ext.lt (extWord r.tmax) (slabs past v.node i).1 = false →
          (∀ q, 9 ≤ q → q < 16 → (v.got.get? q).isSome = true) → Candidate (roundDown (slabs past v.node i).1) 0 false))
    ∧ (∀ c, s.rays[k]? = some r → r.oddSince = some c → r.state = .traversing → c + 1000000000 ≤ s.time →
      exec (.nodeVersionTimeout k) s
        = .next { s with rays := s.rays.set k { r with state := .done, status := 6, report := [0, 0, 0, 0, 0, 0],
                                                       read := none, visit := none, inst := none, oddSince := none } })
    ∧ (∀ (a : AnswerMsg) (i : Nat), s.answers[i]? = some a → s.rays[k]? = some r →
      (∀ x ∈ s.answers.take i, ¬ (x.core = a.core ∧ x.ticket.toNat / 2 ^ 28 = a.ticket.toNat / 2 ^ 28)
        ∧ ¬ (x.ticket = a.ticket ∧ x.ctx = a.ctx ∧ x.launch = a.launch ∧ x.basin = a.basin
          ∧ x.jet = a.jet ∧ x.lane = a.lane)) → s.answerWaits a = false →
      r.ticket = a.ticket → r.ctx = a.ctx → r.launch = a.launch → r.basin = a.basin →
      ∃ t x, exec (.answerArrives i) s = .next t ∧ t.answers = s.answers.eraseIdx i ∧ t.rays[k]? = some x ∧ t.mem = s.mem
        ∧ (r.state = .candidate → a.answer = .ign → x.state = .queued ∧ x.pendingAns = some .ign)
        ∧ (r.state = .candidate → r.candTri = true → ∀ w, a.answer = .acc w →
            x.state = .queued ∧ x.pendingAns = some (.acc w))
        ∧ (r.state = .fault → a.answer = .retry → x.state = .queued
            ∧ x.pendingAns = if r.node = 0xFFFFFFFF then some .retry else r.pendingAns)
        ∧ (r.state = .candidate ∨ r.state = .fault → a.answer = .term → x.state = .done)
        ∧ (r.reported = false → x = r))

/-! ### The structure update engine -/

/-- O44. R349, R350, R353 to R355, R359: `ASUPD` queues an update at a good address. The engine reads the descriptor, ends an update
whose entries are all written with its counter's addition, and one with a bad descriptor by poisoning its counter; an entry
begins with the odd version V or 1 in its node's version word, each write of the node takes its bytes from the image, and the last
puts (V or 1) + 1 into the version word. The list entry, the image and what is read of the node are read in one event (log 65, the
model's choice). The image is the source's for a REWRITE; for a REFIT, in its first phase the node widened to hold the old and the
new boxes (R353), in its second the old node with the new ORIGIN, EXP, MASK and BOXES. That a REFIT reads an image of 64 bytes, laid out as the bytes
0x00 to 0x0F and 0x20 to 0x4F of the node, is the model's reading (DEDUCED, log 27: R349 also speaks of 48 bytes). A CONFIG update loads its record into
the older buffer and makes that one current. -/
def Obligations.StructureUpdates : Prop :=
  (∀ (s : State) (B : Basin) (J : Jet) (a : Reg), Issues s { ureads := [a.toNat, a.toNat + 1] } B J → NoTransaction s J →
    let va := J.spair a.toNat
    (2 ^ 48 ≤ va.toNat → exec (.asupd a) s = .next (s.trapFault s.cur.exec va 7))
    ∧ (va.toNat < 2 ^ 48 → va.toNat % 8 ≠ 0 → exec (.asupd a) s = .next (s.trapFault s.cur.exec va 8))
    ∧ (va.toNat < 2 ^ 48 → va.toNat % 8 = 0 → s.updates.length < 1024 →
      exec (.asupd a) s = .next { s.retire with updates := s.updates ++
        [{ ctx := B.ctx, sys := J.sys, source := .inl va, owner := some (s.cur.basin, s.cur.jet), packet := none,
           tag := s.tick, threads := [(s.cur.jet, s.cur.exec)] }] }))
  ∧ (∀ (s s1 : State) (u : Update) (rest : List Update), s.updates = u :: rest → u.faulted = false → u.lost = false →
    s.sueReleased u = true → u.packet = none →
    (∀ va bs, u.source = .inl va → s.sueBytes u va.toNat 32 = (s1, .ok bs) →
      let words := (List.range 8).map fun i => BitVec.ofNat 32 (listNat ((bs.drop (4 * i)).take 4))
      ∃ t, exec .sueUpdate s = .next t ∧ t.mem = s1.mem ∧ t.updates = { u with source := .inr words } :: rest)
    ∧ (∀ ws pa, u.source = .inr ws → sueCtr ws % 8 = 0 → sueCtr ws < 2 ^ 48 →
      s.translate ioPlace u.ctx u.sys (sueCtr ws) .write = (s1, .ok pa) → s1.token.holder = none → pa % 8 = 0 →
      inControl pa = false → Memory.wf s1.mem = true →
      (u.failed = false → sueDescOk ws = true → sueKind ws ≠ 3 → sueTotal ws ≤ u.next → u.write = none → Clean s1 pa 8 →
        ∃ t, exec .sueUpdate s = .next t ∧ t.updates = rest ∧ SameOutside s1 t pa 8
          ∧ BitVec.ofNat 64 (t.homeNat pa 8) = BitVec.ofNat 64 (s1.homeNat pa 8) + sueInc ws)
      ∧ ((u.failed = true ∨ sueDescOk ws = false) → s1.isHbm pa = true →
        ∃ t, exec .sueUpdate s = .next t ∧ t.updates = rest ∧ t.mem = s1.mem ∧ pa / 32 ∈ t.poison))
    ∧ (∀ ws bs rec s2 pa, u.source = .inr ws → u.failed = false → sueDescOk ws = true → sueKind ws = 3 → u.next = 0 →
      let key := 256 * u.ctx + descWord ws 1
      (∀ r ∈ s.rays, r.usesBuffer u.ctx (descWord ws 1) (s.olderBuffer key) = false) →
      s.sueBytes u (sueList ws) 64 = (s1, .ok bs) → travRecordOf bs = some rec →
      ((s1.loadConfig key rec).withUpdate fun u => { u with next := 1 }).translate ioPlace u.ctx u.sys (sueCtr ws) .write
        = (s2, .ok pa) →
      s2.token.holder = none → sueCtr ws < 2 ^ 48 →
      ∃ t x, exec .config s = .next t ∧ t.updates = rest ∧ t.travs.get? key = some x
        ∧ (if x.current = 0 then some x.buf0 else x.buf1) = some rec
        ∧ (∀ old, s.travs.get? key = some old → x.current = 1 - old.current)))
  ∧ (∀ (s s1 s2 s3 s4 : State) (u : Update) (rest : List Update) (ws : List Word) (pa : Nat) (places : List (Nat × Nat))
      (e img ver : List Byte),
    s.updates = u :: rest → u.faulted = false → u.failed = false → u.lost = false → s.sueReleased u = true →
    s.updateHeld u = false → u.source = .inr ws → sueDescOk ws = true → sueKind ws ≠ 3 → u.next < sueTotal ws →
    inControl pa = false → pa % 4 = 0 →
    let node := listNat (e.take 8)
    (u.write = none → sueKind ws = 1 → s.sueBytes u (sueList ws + 16 * (u.next % sueCount ws)) 16 = (s1, .ok e) →
      s1.sueBytes u (listNat (e.drop 8)) 128 = (s2, .ok img) → s2.sueBytes u (node + 0x14) 4 = (s3, .ok ver) →
      ver.length = 4 → s3.suePlaces u (nodePieces node ++ versionPieces node) = (s4, .ok (places ++ [(pa, 4)])) →
      places.length = (nodePieces node).length → Memory.wf s4.mem = true → Clean s4 pa 4 →
      let odd := BitVec.ofNat 32 (listNat ver) ||| 1
      ∃ t, exec .sueUpdate s = .next t ∧ SameOutside s4 t pa 4
        ∧ BitVec.ofNat 32 (bytesNat (Cells.get 0 t.mem) pa 4) = odd
        ∧ t.updates = { u with write := some { node := node, image := img, version := odd, left := nodePieces node } } :: rest)
    ∧ (∀ old, u.write = none → sueKind ws = 2 → s.sueBytes u (sueList ws + 16 * (u.next % sueCount ws)) 16 = (s1, .ok e) →
      s1.sueBytes u (listNat (e.drop 8)) 64 = (s2, .ok img) → s2.sueBytes u node 128 = (s3, .ok old) →
      s3.suePlaces u (nodePieces node ++ versionPieces node) = (s4, .ok (places ++ [(pa, 4)])) →
      places.length = (nodePieces node).length → Memory.wf s4.mem = true → Clean s4 pa 4 →
      let odd := fieldWord (listNat old) 0x14 ||| 1
      let refit := img.take 16 ++ (old.drop 16).take 16 ++ img.drop 16 ++ old.drop 0x50
      let m := listNat old
      let n := listNat refit
      let origin := fun ax =>
        if Q.le (wordQ (fieldWord m (4 * ax))) (wordQ (fieldWord n (4 * ax))) then fieldWord m (4 * ax) else fieldWord n (4 * ax)
      ∃ t image, exec .sueUpdate s = .next t ∧ SameOutside s4 t pa 4
        ∧ BitVec.ofNat 32 (bytesNat (Cells.get 0 t.mem) pa 4) = odd
        ∧ t.updates = { u with write := some { node := node, image := image, version := odd, left := nodePieces node } } :: rest
        ∧ (sueCount ws ≤ u.next → image = refit)
        ∧ (u.next < sueCount ws → ∃ (ex : Nat → Int) (boxes : List Byte),
            image = ((List.range 3).flatMap fun ax => storeBytes ((origin ax).zeroExtend 64) 4)
              ++ ((List.range 3).map fun ax => BitVec.ofInt 8 (ex ax))
              ++ [BitVec.ofNat 8 (fieldAt m 0x0F 1 ||| fieldAt n 0x0F 1)] ++ (old.drop 16).take 16 ++ boxes ++ old.drop 0x50
            ∧ boxes.length = 48
            ∧ ∀ ax, ax < 3 →
                let low := max (boxExp m ax) (boxExp n ax)
                (low ≤ ex ax ∧ (∀ x, low ≤ x → x < ex ax → fitsAt m n ax x = false)
                  ∧ ((∃ x, low ≤ x ∧ x < low + 256 ∧ fitsAt m n ax x = true) → fitsAt m n ax (ex ax) = true))
                ∧ ∀ i b, i < 8 → unionBound m n i ax = some b →
                    boxes[6 * i + ax]? = some (BitVec.ofInt 8 (Q.floor (Q.scale (Q.sub b.1 (wordQ (origin ax))) (-(ex ax)))))
                    ∧ boxes[6 * i + 3 + ax]?
                        = some (BitVec.ofInt 8 (Q.ceil (Q.scale (Q.sub b.2 (wordQ (origin ax))) (-(ex ax)))))))
    ∧ (∀ w, u.write = some w →
      (∀ va n, w.left[(s.free 950000).toNat % w.left.length]? = some (va, n) → s.suePlaces u [(va, n)] = (s1, .ok [(pa, n)]) → w.node ≤ va → n ≤ 32 → pa % 32 + n ≤ 32 →
        va - w.node + n ≤ w.image.length → Memory.wf s1.mem = true → Clean s1 pa n →
        ∃ t, exec .sueUpdate s = .next t ∧ SameOutside s1 t pa n
          ∧ (∀ i, i < n → some (Cells.get 0 t.mem (pa + i)) = w.image[va - w.node + i]?)
          ∧ t.updates = { u with write := some { w with left := w.left.filter fun x => decide (x ≠ (va, n)) } } :: rest)
      ∧ (w.left = [] → s.suePlaces u (versionPieces w.node) = (s1, .ok [(pa, 4)]) → Memory.wf s1.mem = true → Clean s1 pa 4 →
        ∃ t, exec .sueUpdate s = .next t ∧ SameOutside s1 t pa 4
          ∧ BitVec.ofNat 32 (bytesNat (Cells.get 0 t.mem) pa 4) = w.version + 1
          ∧ t.updates = { u with write := none, next := u.next + 1 } :: rest)))

/-! ### Growth and repacking -/

/-- O45. R63 to R65, R163, R164: `GROW` asks for basins once for its issue and moves on; when performed, the launch's basin count
rises by the smaller of the increment and what its ceiling leaves, and the old count and the grant are the results. `REORD`,
once every thread of the basin waits, sorts the threads by their keys, ties by old position, and puts them into the kept
jets in that order, each past its `REORD`. -/
def Obligations.GrowthAndRepacking : Prop :=
  (∀ (s : State) (B : Basin) (J : Jet) (d a : Reg) (la : BitVec 4), Issues s { ureads := [a.toNat] } B J →
    ∃ t K o, exec (.grow d a la) s = .next t ∧ t = s.withIssued B K B.matQ B.matDone ∧ Advanced s t J
      ∧ K.longs = (J.retire s.cur.group (!s.cur.resumed)).longs ++ [o]
      ∧ o.kind = .grow (J.sreg a.toNat) ∧ o.lane = 32 ∧ o.val = none ∧ o.release = true ∧ o.scope = .pkg
      ∧ o.dests = [(0, .ureg d.toNat), (1, .ureg (d.toNat + 1))] ∧ o.shadow = la.toNat)
  ∧ (∀ (s : State) (b j k : Nat) (B : Basin) (J : Jet) (L : Launch) (o : LongOp) (inc : Word),
    s.basins.get? b = some B → B.jets.get? j = some J → J.longs[k]? = some o → o.kind = .grow inc → o.val = none →
    J.released .pkg o.tag o.lanes = true → s.launches.get? B.launch = some L →
    let grant := min inc.toNat (L.ceiling - L.count)
    ∃ t K L', exec (.growPerform b j k) s = .next t ∧ t.mem = s.mem ∧ t.jet? b j = some K ∧ K.threads = J.threads
      ∧ t.launches.get? B.launch = some L' ∧ L'.count = L.count + grant ∧ L'.ceiling = L.ceiling
      ∧ (o.dests ≠ [] → { o with val := some [BitVec.ofNat 32 L.count, BitVec.ofNat 32 grant] } ∈ K.longs))
  ∧ (∀ (s : State) (b : Nat) (B : Basin), s.basins.get? b = some B → B.reordReady = true →
    Cells.sortedFrom none B.jets = true → (∀ e ∈ B.jets, e.2.Ordered) → (∀ e ∈ B.jets, e.2.run = .exited → e.2.threads = []) →
    ∃ t B' ord, exec (.reordRepack b) s = .next t ∧ t.mem = s.mem ∧ t.basins.get? b = some B'
      ∧ List.Perm ord (B.jets.flatMap fun e => e.2.threads.map fun t => (32 * e.1 + t.1, t.2))
      ∧ List.Pairwise (fun (x y : Nat × Thread) => x.2.reordKey < y.2.reordKey ∨ (x.2.reordKey = y.2.reordKey ∧ x.1 < y.1)) ord
      ∧ ∀ i l, l < 32 → ((B'.jets.get? i).bind fun K => K.threads.get? l) = (ord[32 * i + l]?).map fun x => x.2.pass)

/-! ### Launches -/

/-- O46. R35 to R46, R212, R356, R409: the controller's work on queues. TAIL_POLL takes a good tail, and disables a queue whose tail
lies outside it; a packet of no known type is refused with STATUS 0x10; a good launch packet is accepted under the next
launch number, which is never 0; a copy or update packet that waits on nothing is queued for its engine; a counter at its
target lets the launch that waits on it go on; staging reads one entry or takes one page in hand at a time, and a launch whose
staging is done is handed to dispatch. What is handed on is handed on in the queue's turn among those of its class (R62). A tail
at an address that nothing populates stops the model (log 57, the model's reading). -/
def Obligations.QueueWork : Prop :=
  ∀ (s : State) (c q : Nat), Sound s →
    (s.queueOn c q = true →
      (s.badPlace (s.tailAddr c q) = true → exec (.tailPoll c q) s = .fault (.unpopulated (s.tailAddr c q)))
      ∧ (s.badPlace (s.tailAddr c q) = false → s.reachable (s.tailAddr c q) = true → s.lineHeld (s.tailAddr c q) = false →
        let tail := s.homeNat (s.tailAddr c q) 8
        ∃ t, exec (.tailPoll c q) s = .next t ∧ t.mem = s.mem
          ∧ ((s.queue c q).tail ≤ tail → tail ≤ (s.queue c q).head + 2 ^ s.queueLog c q →
              (t.queue c q).tail = tail ∧ t.ctl = s.ctl)
          ∧ (tail < (s.queue c q).tail ∨ (s.queue c q).head + 2 ^ s.queueLog c q < tail →
              t.queueEnabled c q = false ∧ t.errorCount = s.errorCount + 1)))
    ∧ (s.packetWaits c q = true → s.badPlace (s.headPacket c q) = false → s.badPlace (s.headAddr c q) = false →
      s.reachable (s.headPacket c q) = true → s.queueHeld c q = false →
      let pa := s.headPacket c q
      let p := s.homeNat pa 128
      (¬ (fieldAt p 0 1 ∈ [1, 2, 3]) →
        ∃ t, exec (.launchPacket c q) s = .next t ∧ t = s.refusePacket c q pa 0x10)
      ∧ (fieldAt p 0 1 = 1 → s.launches.length < 1024 → s.launchOk p = true → s.tooLarge p = false →
        counterMisaligned p = false →
        ((fieldAt p 2 2).testBit 2 = false → (fieldAt p 2 2).testBit 6 = false → s.hasTurn c q = true) →
        inControl pa = false → inControl (s.headAddr c q) = false →
        ∃ t L, exec (.launchPacket c q) s = .next t ∧ t.launches = s.launches.put s.wh.seq L
          ∧ t.wh.seq = (if s.wh.seq = 4294967295 then 1 else s.wh.seq + 1)
          ∧ L.ctx = c ∧ L.queue = q ∧ L.packet = pa ∧ L.entry = BitVec.ofNat 64 (fieldAt p 0x10 8)
          ∧ L.args = BitVec.ofNat 64 (fieldAt p 0x28 8) ∧ L.count = fieldAt p 0x20 4 ∧ L.ceiling = fieldAt p 0x24 4
          ∧ L.shape = { w1 := fieldAt p 4 1, jets := fieldAt p 9 1, vgran := fieldAt p 0xA 1, rsvn := fieldAt p 0xB 1,
                        accn := fieldAt p 0xC 1, scr := fieldAt p 0x18 4, tile := fieldAt p 0x1C 4 }
          ∧ L.stage = (if (fieldAt p 2 2).testBit 2 then .counter
              else if (fieldAt p 2 2).testBit 6 then .staging else .dispatch))
      ∧ (fieldAt p 0 1 = 2 → fieldAt p 1 1 = 1 → fieldAt p 2 2 = 0 → copyDescOk (packetDesc p) none = true →
        copyRange (copyDesc (packetDesc p)) = none → s.hasTurn c q = true → inControl pa = false → inControl (s.headAddr c q) = false →
        ∃ t x, exec (.copyPacket c q) s = .next t ∧ t.copies = s.copies ++ [x] ∧ x.desc = packetDesc p ∧ x.ctx = c
          ∧ x.sys = false ∧ x.packet = some pa ∧ x.core = none ∧ x.done = [])
      ∧ (fieldAt p 0 1 = 3 → fieldAt p 1 1 = 1 → fieldAt p 2 2 = 0 → sueKind (packetDesc p) ∈ [1, 2, 3] →
        descWord (packetDesc p) 0 / 256 % 256 = 1 → s.updates.length < 1024 → s.hasTurn c q = true → inControl pa = false →
        inControl (s.headAddr c q) = false →
        ∃ t, exec (.structureUpdatePacket c q) s = .next t ∧ t.updates = s.updates ++
          [{ ctx := c, sys := false, source := .inr (packetDesc p), owner := none, packet := some pa }]))
    ∧ (∀ n L va target pa, s.serving = true → (s.queue c q).launch = some n → s.launches.get? n = some L →
      L.stage = .counter → L.ended = false → L.wait = some (va, target) → (s.queue c q).waitPa = some pa →
      (∀ f ∈ s.faults, f.owner ≠ .queue c q) → s.token.holder = none → Clean s pa 8 → L.ctx = c → L.queue = q →
      (s.homeNat pa 8 < target.toNat → exec (.counterWaitSatisfied c q) s = .next s)
      ∧ (target.toNat ≤ s.homeNat pa 8 → (L.stagingList = none → s.hasTurn c q = true) → inControl (s.headAddr c q) = false →
        ∃ t L', exec (.counterWaitSatisfied c q) s = .next t ∧ t.launches.get? n = some L'
          ∧ L' = { L with waitingSince := s.time, stage := (if L.stagingList.isSome then .staging else .dispatch) }))
    ∧ (∀ n L va cnt, s.serving = true → s.launches.get? n = some L → L.stage = .staging → L.ended = false →
      L.stagingList = some (va, cnt) → (∀ f ∈ s.faults, f.owner ≠ .launch n) → s.queueHeld L.ctx L.queue = false →
      (L.stagedPages = none → cnt ≤ L.staged → s.hasTurn L.ctx L.queue = true →
        inControl (s.headAddr L.ctx L.queue) = false →
        ∃ t L', exec (.staging n) s = .next t ∧ t.launches.get? n = some L' ∧ L'.stage = .dispatch)
      ∧ (∀ s1 bs e, L.stagedPages = none → L.staged < cnt →
        s.pagePassed n ((va.toNat + 16 * L.staged) / 4096) = false →
        s.pagePassed n ((va.toNat + 16 * L.staged + 15) / 4096) = false →
        s.sueBytes (listReader L.ctx) (va.toNat + 16 * L.staged) 16 = (s1, .ok bs) →
        stagingEntry (listNat bs) = some e →
        ∃ t, exec (.staging n) s = .next t ∧ t.mem = s1.mem
          ∧ t.launches.get? n = some { L with stagedPages := some e })
      ∧ (∀ vpn left pin a e level, L.stagedPages = some (vpn, left + 1, pin) → vpn < 2 ^ 36 → s.pagePassed n vpn = false →
        s.findLeaf (4096 * vpn) 3 (s.root L.ctx) = .leaf a e level →
        ∃ t L', exec (.staging n) s = .next t ∧ t.mem = s.mem ∧ t.launches.get? n = some L'
          ∧ L'.stagedPages = some (vpn + 1, left, pin) ∧ L'.staged = L.staged ∧ (pin = true → vpn ∈ L'.pinned))
      ∧ (∀ vpn pin, L.stagedPages = some (vpn, 0, pin) →
        ∃ t, exec (.staging n) s = .next t ∧ t.mem = s.mem
          ∧ t.launches.get? n = some { L with stagedPages := none, staged := L.staged + 1 }))

/-- O47. R33, R44, R47, R48, R49, R52, R56, R57, R66, R209; R51, R394: placement and scheduling. The next basin of a launch that has the
dispatcher to itself starts on the chosen core, its threads at the entry with their identifiers; a saved basin is
restored before that, in the same way, those of its jets that were SAVED beginning in system mode at the restore vector; a basin that
has waited 100 µs has a die kept for it (from when it counts is the model's choice, log 69); a launch whose basins are all gone adds its increment to its counter, where it signals one, and leaves
the table with STATUS 3; a basin whose last jet has
exited, and whose copies have completed, leaves with its rays: it frees what it held, and its record is gone as soon as its last
writes are acknowledged (log 29, the model's reading); a blocked jet that is ready is PENDING again; a rotation exchanges the longest ACTIVE jet with the
oldest PENDING one. -/
def Obligations.PlacementAndRotation : Prop :=
  ∀ (s : State) (n b j : Nat) (L : Launch) (B : Basin) (J : Jet), Regular s →
    (∀ core, s.serving = true → s.launches = [(n, L)] → L.stage = .running → L.next < L.count → L.saved = [] →
      L.ended = false → L.cosched = false → L.wait = none → L.next < L.initial → s.chooseCore n L = some core →
      let wid := fun (i l : Nat) => BitVec.ofNat 64 (L.next * 2 ^ (5 + L.shape.w1) + i * 32 + l)
      ∃ t K L', exec (.basinPlace n) s = .next t ∧ t.mem = s.mem ∧ t.basins.get? s.nextBasin = some K
        ∧ K.launch = n ∧ K.index = L.next ∧ K.core = core ∧ K.ctx = L.ctx ∧ K.shape = L.shape
        ∧ t.launches.get? n = some L' ∧ L'.next = L.next + 1
        ∧ ∀ i l, i < L.shape.jets → l < 32 → ∃ M, K.jets.get? i = some M ∧ M.sys = false ∧ M.run = .pending
            ∧ M.sreg 0 = L.args.extractLsb' 0 32 ∧ M.sreg 1 = L.args.extractLsb' 32 32
            ∧ M.threads.get? l = some ({ pc := L.entry, epc := L.entry, wid0 := wid i l } : Thread))
    ∧ (∀ core r rest, s.serving = true → s.launches = [(n, L)] → L.stage = .running → L.saved = r :: rest → L.ended = false →
      L.cosched = false → s.chooseCore n L = some core →
      ∃ t K L', exec (.basinPlace n) s = .next t ∧ t.mem = s.mem ∧ t.basins.get? s.nextBasin = some K
        ∧ K.launch = n ∧ K.index = r.index ∧ K.core = core ∧ K.ctx = L.ctx ∧ K.shape = L.shape ∧ K.bsave = r.bsave
        ∧ t.l1 = s.l1.del core
        ∧ t.launches.get? n = some L' ∧ L'.next = L.next ∧ L'.saved = rest
        ∧ (∀ i, (K.jets.get? i).isSome = true ↔ i < L.shape.jets ∧ i ∈ r.jets)
        ∧ ∀ i M, K.jets.get? i = some M → M.sys = true ∧ M.handler = .restore ∧ M.cause = 0x8008
            ∧ M.lanemask = 0xFFFFFFFF ∧ M.run = .pending
            ∧ M.jsave = r.bsave + BitVec.ofNat 64 (0x400 + 0x4000 * L.shape.accn + L.shape.scr + L.shape.tile
                + i * (0x600 + 128 * (32 * L.shape.vgran)))
            ∧ M.sreg 0 = L.args.extractLsb' 0 32 ∧ M.sreg 1 = L.args.extractLsb' 32 32
            ∧ ∀ l, l < 32 → ∃ T : Thread, M.threads.get? l = some T ∧ T.pc = BitVec.ofNat 64 (s.ctxField L.ctx 0x20 8)
                ∧ T.epc = L.entry ∧ ∀ w, r.wids.get? (32 * i + l) = some w → T.wid0 = w)
    ∧ (s.serving = true → s.launches.get? n = some L → L.unplaced = true → L.reserved.get? L.nextIndex = none →
      L.waitedSince + 100000000 ≤ s.time →
      ∃ t d, exec (.placementWaitTimeout n) s = .next t ∧ d < 8 ∧ t.mem = s.mem
        ∧ t.launches.get? n = some { L with reserved := L.reserved.put L.nextIndex d })
    ∧ (s.serving = true → s.launches.get? n = some L → s.launchOver n L = true → (∀ f ∈ s.faults, f.owner ≠ .launch n) →
      s.statusHeld L.packet = false → Sound s → inControl L.packet = false → L.packet % 128 = 0 →
      s.reachable (L.packet + 0x78) = true →
      (L.signal = none → Clean s (L.packet + 0x78) 4 →
        ∃ t, exec (.launchComplete n) s = .next t ∧ t.launches.get? n = none ∧ SameOutside s t (L.packet + 0x78) 4
          ∧ t.homeNat (L.packet + 0x78) 4 = 3)
      ∧ (∀ va inc s1 pa, L.signal = some (va, inc) → va.toNat < 2 ^ 48 →
        s.translate ioPlace L.ctx false va.toNat .write = (s1, .ok pa) → s1.token.holder = none → pa % 8 = 0 →
        inControl pa = false → Memory.wf s1.mem = true → Clean s1 pa 8 → Clean s1 (L.packet + 0x78) 4 →
        pa + 8 ≤ L.packet + 0x78 ∨ L.packet + 0x7C ≤ pa →
        ∃ t, exec (.launchComplete n) s = .next t ∧ t.launches.get? n = none ∧ t.homeNat (L.packet + 0x78) 4 = 3
          ∧ BitVec.ofNat 64 (t.homeNat pa 8) = BitVec.ofNat 64 (s1.homeNat pa 8) + inc
          ∧ ∀ a, ¬ (pa ≤ a ∧ a < pa + 8) → ¬ (L.packet + 0x78 ≤ a ∧ a < L.packet + 0x7C) →
              Cells.get 0 t.mem a = Cells.get 0 s1.mem a))
    ∧ (s.basins.get? b = some B → B.gone = false → (∀ e ∈ B.jets, e.2.run = .exited) → B.matQ = [] →
      (∀ c ∈ s.copies, c.namesBasin b = false) →
      ∃ t, exec (.basinExit b) s = .next t ∧ t.mem = s.mem
        ∧ ((∀ e ∈ B.jets, e.2.left.over = true) → t.basins.get? b = none)
        ∧ ((∃ e ∈ B.jets, e.2.left.over = false) →
            ∃ B', t.basins.get? b = some B' ∧ B'.gone = true ∧ B'.holds = ⟨0, 0, 0, 0, 0, 0⟩)
        ∧ (∀ k, k ≠ b → t.basins.get? k = s.basins.get? k)
        ∧ ∀ r, r ∈ t.rays ↔ r ∈ s.rays ∧ ¬ (r.ctx = B.ctx ∧ r.launch = B.launch ∧ r.basin = B.index))
    ∧ (s.basins.get? b = some B → B.gone = true → (∀ e ∈ B.jets, e.2.over = true) →
      ∃ t, exec (.basinExit b) s = .next t ∧ t = { s with basins := s.basins.del b } ∧ t.basins.get? b = none)
    ∧ (s.basins.get? b = some B → B.jets.get? j = some J → J.run = .blocked → s.jetReady b B j J = true →
      ∃ t, exec (.jetWake b j) s = .next t ∧ t.mem = s.mem
        ∧ t.jet? b j = some { J with run := .pending, since := s.cycle, readyAt := s.cycle })
    ∧ (∀ core sp a p, s.rotationDue core sp = true → s.longestActive core sp = some a → s.oldestPending core sp = some p →
      ∃ t K M, exec (.rotationSwap core sp) s = .next t ∧ t.mem = s.mem ∧ t.jet? p.1 p.2.1 = some K ∧ K.run = .active
        ∧ K.position = a.2.2.position ∧ t.jet? a.1 a.2.1 = some M ∧ M.run = .pending)

/-! ### Pages, errors and links -/

/-- O48. R195, R196, R199, R407; R25, R214, R215, R217: a NOTVALID fault at a level-0 entry under POLICY 00 gets a zero-filled frame
of its pool and a valid entry, and its instruction goes on; any other fault under POLICY 00 or 10 is unresolvable, and its
lanes' cause is pending; a requested page is made resident, or offered to the host under POLICY 01, or the request is dropped. A page that is not pinned moves to a
free frame of its pool with its bytes, its entry names the new frame and no TLB holds the old one; a request that has waited
long is promoted: a load's, a write's or a copy's (which requests the memory then weighs against each other is open, log 52, the
model's reading of R25); an uncorrectable error poisons its granule and is logged. -/
def Obligations.PagesAndErrors : Prop :=
  (∀ (s : State) (k : Nat), Memory.wf s.mem = true →
      let Filled := fun (t : State) (c va a fr : Nat) =>
        t.homeNat a 8 = withFrame (s.homeNat a 8) fr ||| 1
          ∧ Cells.get [] t.wh.frames (pagePool c (va / 4096)) = (Cells.get [] s.wh.frames (pagePool c (va / 4096))).drop 1
          ∧ ∀ x, ¬ (a ≤ x ∧ x < a + 8) → Cells.get 0 t.mem x =
              if 4096 * fr ≤ x ∧ x < 4096 * fr + 4096 then 0 else Cells.get 0 s.mem x
      (∀ f b j lanes fetch J, s.faults[k]? = some f → f.owner = .group b j lanes fetch → s.jet? b j = some J →
        let Others := fun (t : State) => ∀ g, g ∈ t.faults ↔ g ∈ s.faults ∧ g ≠ f
        (∀ a fr rest, s.policy f.ctx = 0 → f.kind = 1 → f.level0 = true →
          s.findLeaf f.va.toNat 3 (s.root f.ctx) = .fault 1 true →
          s.entryAt f.va.toNat 3 (s.root f.ctx) = some a → a + 8 ≤ 0x180000000000 → Clean s a 8 →
          Cells.get [] s.wh.frames (pagePool f.ctx (f.va.toNat / 4096)) = fr :: rest →
          ∃ t, exec (.faultResolved k) s = .next t ∧ Others t ∧ Filled t f.ctx f.va.toNat a fr
            ∧ ∀ l T, J.threads.get? l = some T → t.thread? b j l = some
                (if lanes.getLsbD l = true ∧ T.wait = .fault then { T with wait := .none } else T))
        ∧ (∀ c, J.sys = false → J.causes = [] →
          ((s.policy f.ctx = 0 ∧ ¬ (f.kind = 1 ∧ f.level0 = true) ∧ c = .pagefault)
            ∨ (s.policy f.ctx = 0 ∧ f.kind = 1 ∧ f.level0 = true
                ∧ s.findLeaf f.va.toNat 3 (s.root f.ctx) = .fault 1 true ∧ s.noFrame f = true ∧ c = .noframe)
            ∨ (s.policy f.ctx = 1 ∧ f.answer = some false ∧ c = .pagefault)
            ∨ (2 ≤ s.policy f.ctx ∧ c = .pagefault)) →
          ∃ t K, exec (.faultUnresolvable k) s = .next t ∧ Others t ∧ t.mem = s.mem ∧ t.jet? b j = some K
            ∧ K.causes = [{ cause := c, lanes := lanes, va := f.va, kind := f.kind }]))
      ∧ (∀ r, s.pageReqs[k]? = some r →
        let Ends := fun (t : State) => t.pageReqs = s.pageReqs.filter fun x =>
          !decide (x.core = r.core ∧ x.ctx = r.ctx ∧ x.vpn = r.vpn)
        let look := s.look r.ctx r.sys (4096 * r.vpn) .read
        (∀ pa, look = .ok pa → ∃ t, exec (.pageRequestServiced k) s = .next t ∧ Ends t ∧ t.mem = s.mem)
        ∧ (∀ a fr rest, look = .fault 1 true → s.policy r.ctx = 0 →
          s.entryAt (4096 * r.vpn) 3 (s.root r.ctx) = some a → a + 8 ≤ 0x180000000000 → Clean s a 8 →
          Cells.get [] s.wh.frames (pagePool r.ctx r.vpn) = fr :: rest →
          ∃ t, exec (.pageRequestServiced k) s = .next t ∧ Ends t ∧ Filled t r.ctx (4096 * r.vpn) a fr)
        ∧ (∀ kind z, look = .fault kind z → s.policy r.ctx = 1 → kind ∈ [1, 2, 3, 4, 5] → r.vpn < 2 ^ 36 →
          ∃ t, exec (.pageRequestServiced k) s = .next t ∧ t.mem = s.mem
            ∧ ∃ f ∈ t.faults, f.ctx = r.ctx ∧ f.va.toNat / 4096 = r.vpn)
        ∧ (∀ kind z, look = .fault kind z → 2 ≤ s.policy r.ctx →
          ∃ t, exec (.pageRequestServiced k) s = .next t ∧ Ends t ∧ t.mem = s.mem)))
  ∧ (∀ s : State,
      (∀ c va fr a e, Memory.wf s.mem = true → s.resident c = true → s.findLeaf va 3 (s.root c) = .leaf a e 0 →
        a + 8 ≤ 0x180000000000 → Clean s a 8 → s.contiguous a = false → pteBit e 7 = false → s.isHbm (pteFrame e) = true →
        s.pinned c (4096 * (va / 4096)) 12 e = false → fr ∈ Cells.get [] s.wh.frames (s.poolAt (pteFrame e)) →
        s.token.lines = [] → (∀ x, a ≤ x → x < a + 8 → ¬ (4096 * fr ≤ x ∧ x < 4096 * fr + 4096)) →
        ∃ t, exec (.migration c va fr) s = .next t ∧ t.homeNat a 8 = withFrame e fr
          ∧ (∀ i, i < 4096 → Cells.get 0 t.mem (4096 * fr + i) = Cells.get 0 s.mem (pteFrame e + i))
          ∧ (∀ x, ¬ (a ≤ x ∧ x < a + 8) → ¬ (4096 * fr ≤ x ∧ x < 4096 * fr + 4096) →
              Cells.get 0 t.mem x = Cells.get 0 s.mem x)
          ∧ (∀ x ∈ t.tlb, x.ctx = c → x.bits = 12 → x.vpn ≠ va / 4096)
          ∧ pteFrame e / 4096 ∈ Cells.get [] t.wh.frames (s.poolAt (pteFrame e)))
      ∧ (∀ b j k J o, s.jet? b j = some J → J.longs[k]? = some o → o.unperformed = true → o.urgent = false →
        2048 * s.ctlNat 0x12 2 ≤ (s.cycle - o.since) * 1200 →
        ∃ t, exec (.requestAgePromotion b j (3 * k)) s = .next t ∧ t.mem = s.mem
          ∧ t.jet? b j = some { J with longs := J.longs.set k { o with promoted := true } })
      ∧ (∀ (b j k : Nat) (w : Write), s.writes[k]? = some w → w.stage = .sent →
        2048 * s.ctlNat 0x12 2 ≤ (s.cycle - w.since) * 1200 →
        exec (.requestAgePromotion b j (3 * k + 1)) s = .next { s with writes := s.writes.set k { w with promoted := true } })
      ∧ (∀ (b j k : Nat) (c : Copy), s.copies[k]? = some c → 2048 * s.ctlNat 0x12 2 ≤ (s.cycle - c.since) * 1200 →
        exec (.requestAgePromotion b j (3 * k + 2)) s = .next { s with copies := s.copies.set k { c with promoted := true } })
      ∧ (∀ g, s.isHbm (32 * g) = true → g ∉ s.poison →
        ∃ t, exec (.eccScrubbing g) s = .next t ∧ t.mem = s.mem ∧ (∀ x, x ∈ t.poison ↔ x ∈ s.poison ∨ x = g)
          ∧ (∀ x, x ∈ t.latent ↔ x ∈ s.latent ∧ x ≠ g) ∧ t.errorCount = s.errorCount + 1))

/-- O49. R26, R400, R402, R403, R412: a link that goes down is down, and the writes on it are dropped; the reads and
read-modify-writes in flight on it end, the lanes that wait for a value with POISON at its address (for a read-modify-write the model's reading,
DEDUCED, log 30: R403 says only that it is not performed and is logged), and every loss logs one record; the sixteenth CRC failure in a row brings a link down, whether a failure is of the flit that failed last being open (log
31, the model's choice); peer traffic for another device goes out of its port, or is lost and logged; a start counts itself
in flash and begins with HBM as it was (log 6, the model's choice); the clock moves by 50 MHz, at most to 1,400 MHz, and not
below the floor of log 17 (the model's choice). -/
def Obligations.LinksAndStarts : Prop :=
  ∀ s : State,
    (∀ p, (s.linkUp p = false → exec (.linkDown p) s = .next s ∧ exec (.flitCrcFailure p) s = .next s)
      ∧ (s.linkUp p = true →
        let Down := fun (t : State) => t.linkUp p = false
          ∧ t.writes = s.writes.map fun (w : Write) =>
              if w.stage = .sent ∧ s.linkOf w.pa = some p then { w with stage := .dropped } else w
        (∃ t, exec (.linkDown p) s = .next t ∧ Down t)
        ∧ (let lost := fun (o : LongOp) =>
            o.unperformed && (match o.pa with | some a => decide (s.linkOf a = some p) | none => false)
          Regular s →
          (∀ b B j J, (b, B) ∈ s.basins → (j, J) ∈ B.jets → J.sys = false
            ∧ (∀ q a, q ∈ J.storeQ → q.pa = some a → s.linkOf a ≠ some p)
            ∧ ∀ l T pa va x acq sc, (l, T) ∈ J.threads → T.wait = .counter pa va x acq sc → s.linkOf pa ≠ some p) →
          ∃ t, exec (.linkDown p) s = .next t ∧ t.mem = s.mem
            ∧ t.errorCount = s.errorCount
                + (s.writes.filter fun w => decide (w.stage = .sent ∧ s.linkOf w.pa = some p)).length
                + (s.basins.flatMap fun e => e.2.jets.flatMap fun j => j.2.longs.filter lost).length
            ∧ ∀ b B j J, s.basins.get? b = some B → B.jets.get? j = some J →
                ∃ K, t.jet? b j = some K ∧ K.threads = J.threads ∧ K.longs = J.longs.filter (fun o => !lost o)
                  ∧ (∀ o ∈ J.longs, lost o = true → o.isCtradd = false → o.lanes ≠ 0 →
                      ∃ c ∈ K.causes, c.cause = .poison ∧ c.lanes &&& o.lanes = o.lanes)
                  ∧ ∀ o, J.longs.filter lost = [o] → o.isCtradd = false → o.lanes ≠ 0 → J.causes = [] →
                      K.causes = [{ cause := .poison, lanes := o.lanes, va := o.va, kind := 15 }])
        ∧ (Cells.get 0 s.wh.crc p < 15 →
          ∃ n, (n = 1 ∨ n = Cells.get 0 s.wh.crc p + 1)
            ∧ exec (.flitCrcFailure p) s = .next { s with wh := { s.wh with crc := s.wh.crc.put p n } })
        ∧ (15 ≤ Cells.get 0 s.wh.crc p →
          ∃ t, exec (.flitCrcFailure p) s = .next t ∧ (Down t ∨ Cells.get 0 t.wh.crc p = 1))))
    ∧ (∀ dest addr data rest, s.wh.forward = (dest, addr, data) :: rest →
      (∀ p, s.wh.params.routes.get? dest = some p → s.linkUp p = true →
        exec .peerForwarding s = .next { s with wh := { s.wh with
          forward := rest, sent := s.wh.sent ++ [(p, addr, data)] } })
      ∧ ((∀ p, s.wh.params.routes.get? dest = some p → s.linkUp p = false) →
        ∃ t, exec .peerForwarding s = .next t ∧ t.wh.forward = rest ∧ t.wh.sent = s.wh.sent ∧ t.mem = s.mem
          ∧ t.errorCount = s.errorCount + 1))
    ∧ (s.wh.started = true → exec .moduleStart s = .next s ∧ ∀ n, exec (.startStepTimeout n) s = .next s)
    ∧ (s.wh.started = false →
      ∀ i ∈ Instr.moduleStart :: (List.range 11).map fun n => Instr.startStepTimeout (n + 1),
        ∃ t, exec i s = .next t ∧ t.flash.startno = s.flash.startno + 1 ∧ t.mem = s.mem ∧ t.basins = []
          ∧ t.launches = [] ∧ t.wh.seq = 1)
    ∧ (s.wh.started = true → Sound s → ∀ up f, s.ctlNat 0x12 2 = f → (up = true → f + 50 ≤ 1400) →
      (up = false → 100 ≤ f) →
      ∃ t, exec (.powerClockStep up) s = .next t ∧ t.mem = s.mem
        ∧ t.ctlNat 0x12 2 = (if up then f + 50 else f - 50)
        ∧ ∀ o, o ≠ 0x12 → o ≠ 0x13 → t.ctl8 o = s.ctl8 o)

/-! ### The mailboxes and the control space -/

/-- O50. R26, R191, R405, R407, R410, R411, R413, R415, R416, Table 27.6: each mailbox command, where it waits, has its effect and
ends with STATUS 2, or ends with STATUS 0x100 plus its error; an INVALIDATE waits for the accesses in flight that used the entries
it drops (log 54, the model's reading); an ENDLAUNCH stops its launch at once, and where the irrevocable lane of another launch holds
the line of its status, or of its queue's HEAD, the command stays busy until that can be written (R268); a queue taken over by new firmware belongs to it, and the last one ends the update, which
puts the slot that was not in force into force. The model's own choices, which the statement states with the rules: where a
command's arguments stand (log 33), the 96 bytes of a parameter record (log 32), the digest (log 11), the slot of a module
without a journal and the slot that the alternate path of step 9 keeps (log 53), and the suspects that CLEARJOURNAL forgets (log
15). -/
def Obligations.MailboxCommands : Prop :=
  ∀ (s : State) (mb : Nat), Sound s → Regular s →
    let Ends := fun (i : Instr) (status : Nat) (P : State → Prop) =>
      ∃ t, exec i s = .next t ∧ t.mbNat mb 4 4 = status ∧ P t
    let Result := fun (bs : List Byte) (t : State) =>
      t.mem = s.mem ∧ ∀ i, i < bs.length → i < 0xF00 → some (t.mbByte mb (0x100 + i)) = bs[i]?
    let faults := s.ringFaults (s.arg mb 0 4) (s.arg mb 8 8 / 4096)
    (s.commandWaits mb 1 = true →
      (s.arg mb 0 4 = 0 → Ends (.getconfig mb) 2 (Result (s.ctlBytes 0 0xF00)))
      ∧ (s.arg mb 0 4 = 1 → Ends (.getconfig mb) 2 (Result s.wh.blockImage))
      ∧ (s.arg mb 0 4 = 2 → Ends (.getconfig mb) 2 (Result s.wh.paramImage))
      ∧ (2 < s.arg mb 0 4 → Ends (.getconfig mb) 0x107 fun t => t.mem = s.mem))
    ∧ (s.commandWaits mb 2 = true →
      let w := s.arg mb 0 4
      (1800 ≤ w ∧ w ≤ 3600 → Ends (.setpower mb) 2 fun t => t.ctlNat 0x14 2 = w ∧ t.mem = s.mem)
      ∧ (w < 1800 ∨ 3600 < w → Ends (.setpower mb) 0x101 fun t => t.ctlNat 0x14 2 = s.ctlNat 0x14 2 ∧ t.mem = s.mem))
    ∧ (s.commandWaits mb 3 = true →
      let c := s.arg mb 0 4
      let first := s.arg mb 8 8 / 4096
      let count := s.arg mb 16 4
      let spans := s.invalidation mb c first count
      Ends (.invalidate mb) (if s.accessesPending c spans then 1 else 2) fun t => t.mem = s.mem
        ∧ (s.accessesPending c spans = true → t.wh.spans.get? mb = some spans)
        ∧ ∀ e, e ∈ t.tlb ↔ e ∈ s.tlb ∧ e.overlaps c first count = false)
    ∧ (s.commandWaits mb 4 = true →
      (s.launches.get? (s.arg mb 0 4) = none → Ends (.endlaunch mb) 0x104 fun t => t.mem = s.mem)
      ∧ (∀ L, s.launches.get? (s.arg mb 0 4) = some L →
        let Stopped := fun t : State =>
          (∀ b B j J, t.basins.get? b = some B → B.launch = s.arg mb 0 4 → B.jets.get? j = some J → J.threads = [])
            ∧ ∀ r ∈ t.rays, ¬ (r.ctx = L.ctx ∧ r.launch = s.arg mb 0 4)
        let held := (s.statusHeld L.packet = true
            ∨ ((s.queue L.ctx L.queue).launch = some (s.arg mb 0 4) ∧ s.queueHeld L.ctx L.queue = true))
          ∧ ∀ r B, s.token.holder = some r → s.basins.get? r.basin = some B → B.launch ≠ s.arg mb 0 4
        (¬ held → Ends (.endlaunch mb) 2 fun t => t.launches.get? (s.arg mb 0 4) = none ∧ Stopped t)
        ∧ (held → Ends (.endlaunch mb) 1 fun t => Stopped t
            ∧ t.launches.get? (s.arg mb 0 4) = some { L with ended := true, saved := [] })))
    ∧ (s.commandWaits mb 5 = true →
      (faults = [] → Ends (.resolve mb) 0x102 fun t => t.mem = s.mem)
      ∧ (faults ≠ [] → Ends (.resolve mb) 2 fun t => ∀ f ∈ faults, f ∉ t.faults))
    ∧ (s.commandWaits mb 6 = true →
      (faults = [] → Ends (.refuse mb) 0x102 fun t => t.mem = s.mem)
      ∧ (faults ≠ [] → Ends (.refuse mb) 2 fun t => t.mem = s.mem ∧
          t.faults = s.faults.map fun f => if f ∈ faults then { f with answer := some false } else f))
    ∧ (s.commandWaits mb 7 = true →
      (s.noIdentity = true → Ends (.report mb) 0x105 fun t => t.mem = s.mem)
      ∧ (s.noIdentity = false → Ends (.report mb) 2 (Result (s.reportBytes mb))))
    ∧ (s.commandWaits mb 8 = true →
      let pa := s.arg mb 0 8
      let digest := sha256 ((List.range (s.arg mb 8 8)).map fun i => s.homeByte (pa + i))
      (s.wh.update.isSome = true → Ends (.update mb) 0x103 fun t => t.mem = s.mem)
      ∧ (s.wh.update = none → s.badPlace pa = false → inWindow pa = true → s.reachable pa = true →
        s.linesHeld pa (s.arg mb 8 8) = false →
        let good := Config.verifies (listNat digest) = true
          ∧ s.flash.config.minVersion ≤ Config.imageVersion (listNat digest)
        (good → Ends (.update mb) 2 fun t => t.mem = s.mem ∧ t.flash.images.get? (1 - s.wh.slot) = some digest)
        ∧ (¬ good → Ends (.update mb) 0x106 fun t => t.mem = s.mem ∧ t.flash = s.flash)))
    ∧ (s.commandWaits mb 9 = true → Ends (.setparam mb) 2 fun t => t.mem = s.mem
        ∧ t.flash = { s.flash with params := some ((List.range 96).map fun i => s.mbByte mb (8 + i)) })
    ∧ (s.commandWaits mb 10 = true → Ends (.clearjournal mb) 2 fun t => t.mem = s.mem
        ∧ t.flash = { s.flash with clearedAt := s.flash.startno, suspects := [], kept := none })
    ∧ (s.commandWaits mb 11 = true → Ends (.readlog mb) 2 (Result
        ((List.range (min (s.arg mb 4 4) 56)).flatMap fun i => s.recordBytes (s.arg mb 0 4 + i))))
    ∧ ∀ c q u, s.wh.update = some u → c < 64 → q < 256 → s.resident c = true → s.queueEnabled c q = true →
      let taken := s.setQueue c q { s.queue c q with firmware := 1 }
      (taken.allSwapped = false → exec (.queueFirmwareSwap c q) s = .next taken)
      ∧ (taken.allSwapped = true → ∃ t, exec (.queueFirmwareSwap c q) s = .next t ∧ t.mem = s.mem
          ∧ t.wh.update = none ∧ t.wh.slot = 1 - s.wh.slot
          ∧ t.flash = { s.flash with active := 1 - s.wh.slot, kept := s.flash.kept.map fun _ => 1 - s.wh.slot }
          ∧ (t.queue c q).firmware = 0 ∧ t.ctlNat 0xC 4 = u.version % 2 ^ 32)

/-- O51. R404, R406, R408, R410: a write to a context descriptor that is not VALID stores its bytes under the mask of Table 27.4, one
that would take VALID from a context with a launch is refused and logged, and any other to a VALID descriptor changes
nothing unless it clears VALID; a write to a queue descriptor that is not enabled stores its bytes under the mask of Table
27.5, and to an enabled one only a write that clears ENABLE has effect; a command word starts a mailbox command unless one
runs; the read-only parts ignore writes, and so does the status word, which is the model's choice (log 69: Table 27.2 calls the whole
mailbox RW). The sideband mailbox is named by the offsets from 2^39 on (log 49, the
model's choice); a command word that it does not accept starts nothing there (log 48, the model's choice). -/
def Obligations.ControlWrites : Prop :=
  ∀ (s : State) (c q off sz : Nat) (v : Dword), Sound s → Regular s →
    let byte := fun i => v.extractLsb' (8 * i) 8
    let Stored := fun (t : State) (base : Nat) (mask : Nat → Byte) =>
      ∀ o, t.ctl8 o = if base + off ≤ o ∧ o < base + off + sz then byte (o - base - off) &&& mask (o - base) else s.ctl8 o
    (c < 64 → off + sz ≤ 64 → sz ≤ 8 →
      let base := 0x10000 + 64 * c
      ∃ t u, exec (.contextDescriptorWrite c off sz v) s = .next t ∧ t.mem = s.mem
        ∧ u = { s with ctl := u.ctl } ∧ Stored u base contextMask
        ∧ (s.resident c = false →
            (u.resident c = true ∧ u.contextOk c = false → t.ctl = s.ctl ∧ t.errorCount = s.errorCount + 1)
            ∧ (u.resident c = false ∨ u.contextOk c = true → t = u))
        ∧ (s.resident c = true →
            (off ≠ 0 ∨ sz = 0 ∨ byte 0 &&& 1 = 1 → t.ctl = s.ctl)
            ∧ (off = 0 → sz ≠ 0 → byte 0 &&& 1 = 0 →
                if s.hasLaunch c = true then t.ctl = s.ctl ∧ t.errorCount = s.errorCount + 1
                else t = u)))
    ∧ (c < 64 → q < 256 → off + sz ≤ 32 → sz ≤ 8 →
      let base := 0x20000 + 0x2000 * c + 32 * q
      let clears := off ≤ 0x19 ∧ 0x19 < off + sz ∧ byte (0x19 - off) &&& 1 = 0
      ∃ t, exec (.queueDescriptorWrite c q off sz v) s = .next t ∧ t.mem = s.mem
        ∧ (s.queueEnabled c q = false ∨ clears → Stored t base queueMask)
        ∧ (s.queueEnabled c q = true → ¬ clears → t.ctl = s.ctl))
    ∧ (∃ t, exec (.controlSpaceWrite off sz v) s = .next t ∧ t.mem = s.mem
        ∧ (off + sz ≤ 0x1000 ∨ (0x2000 ≤ off ∧ off < 2 ^ 39) → t.ctl = s.ctl ∧ t.wh.sideband = s.wh.sideband)
        ∧ (off = 0x1000 → sz = 4 → s.ctlNat 0x1004 4 ≠ 1 → t.ctlNat 0x1000 4 = v.toNat % 2 ^ 32 ∧ t.ctlNat 0x1004 4 = 1)
        ∧ (off = 0x1000 → sz = 4 → s.ctlNat 0x1004 4 = 1 → t.ctl = s.ctl)
        ∧ (0x1004 ≤ off → off + sz ≤ 0x1008 → t.ctl = s.ctl)
        ∧ (off = 2 ^ 39 → sz = 4 → s.mbNat 1 4 4 ≠ 1 →
            t.mbNat 1 0 4 = v.toNat % 2 ^ 32 ∧ t.ctl = s.ctl
              ∧ t.mbNat 1 4 4 = if v.toNat % 2 ^ 32 ∈ [1, 7, 0xB] then 1 else s.mbNat 1 4 4)
        ∧ (off = 2 ^ 39 → sz = 4 → s.mbNat 1 4 4 = 1 → t.wh.sideband = s.wh.sideband ∧ t.ctl = s.ctl)
        ∧ (0x1008 ≤ off → off + sz ≤ 0x2000 → sz ≤ 8 → Stored t 0 fun _ => 0xFF))

/-! ### The machine as a whole -/

/-- O52. R60, R74, R77, R86, R99, R100: what an issue checks before its instruction's own effect, in order, shown on `IADD` and
`BRA`: a word barred from a guard window is ILLEGAL, a register that the jet lacks is REGRANGE, an empty executing set only
moves on, and a pending operand past its shadow makes the group wait and be offered again. -/
def Obligations.IssueChecks : Prop :=
  ∀ (s : State) (B : Basin) (J : Jet) (d a b : Reg) (off : BitVec 25),
    s.basins.get? s.cur.basin = some B → B.jets.get? s.cur.jet = some J →
    let has := fun (r : Reg) => mapReg J.wb r.toNat < 32 * B.shape.vgran - 4 * B.shape.rsvn
    let Trapped := fun (i : Instr) (code : Word) =>
      ∃ t K, exec i s = .next t ∧ t.jet? s.cur.basin s.cur.jet = some K ∧ K.sys = true ∧ K.cause = code
        ∧ K.lanemask = s.cur.group ∧ K.sregs = J.sregs ∧ t.mem = s.mem
        ∧ ∀ l T, J.threads.get? l = some T → l < 32 → T.inTx = false → ∃ T', K.threads.get? l = some T' ∧ T'.words = T.words
            ∧ T'.pc = BitVec.ofNat 64 (s.ctxField B.ctx 0x10 8) ∧ T'.epc = if s.issues l then s.cur.pc else T.pc
    (s.cur.window = true → J.sys = false → quiet J.longs = true → Trapped (.bra off) 1)
    ∧ (¬ (has d ∧ has a ∧ has b) → J.sys = false → quiet J.longs = true → Trapped (.iadd d a b .wrap) 2)
    ∧ (has d → has a → has b →
      (s.cur.exec = 0 → ∃ t threads longs, exec (.iadd d a b .wrap) s = .next t ∧ Advanced s t J
        ∧ t = s.withIssued B { J with threads := threads, longs := longs } B.matQ B.matDone)
      ∧ (∀ o e, o ∈ J.longs → o.lane < 32 → s.executes o.lane = true → o.shadow = 0 → e ∈ o.dests →
        e.2 = .word (mapReg J.wb a.toNat) ∨ e.2 = .word (mapReg J.wb b.toNat) →
        ∃ t threads, exec (.iadd d a b .wrap) s = .next t
          ∧ t = s.withIssued B { J with threads := threads } B.matQ B.matDone ∧ ∀ l T, J.threads.get? l = some T → t.thread? s.cur.basin s.cur.jet l = some
              (if s.issues l then
                { T with wait := .operand [.word (mapReg J.wb a.toNat), .word (mapReg J.wb b.toNat)] } else T)))

/-- O53. R58, R68, R99, R197, R218; R258: where a spout's turn is the step, and the fetch at the group's program counter finds a word
without fault or poison, the step is the execution of the decoded instruction, or the ILLEGAL trap where the word is none,
followed by what follows every step; an event chosen as the step is its own execution. A group of skipping threads passes the word
instead: `TXB` adds one to their skip counts, `TXE` takes one away, any other word, and one that is no instruction, changes nothing;
a `TXE` at which every count is one executes; and the 65,536th word passed traps ILLEGAL. Where the offer did not end in an issue, the
turns of the spout and of the jet are as they were (R58, R59, R66), and nothing else is undone. -/
def Obligations.StepRunsDecoded : Prop :=
  ∀ s : State,
    (∀ i t, s.choose = some (.event i) → exec i s = .next t → step s = .next t.after)
    ∧ (∀ core sp b j l pa B J T s1, s.choose = some (.issue core sp) → s.nextJet core sp = some (b, j, J) →
      s.basins.get? b = some B → s.jetTrapped b j J = false → J.nextGroup (s.readyGroups b B j J) = some l →
      J.threads.get? l = some T → T.tx.skip = 0 → T.pc.toNat < 2 ^ 48 → T.pc.toNat % 4 = 0 →
      (s.begin core sp b j J l T).translateFor (s.holderAmong b j (J.groupOf T)) (corePlace B.core) B.ctx J.sys T.pc.toNat .fetch
        = (s1, .ok pa) →
      s1.mayTouch b j (J.groupOf T) pa = true → s1.stale = [] → Clean s1 pa 4 →
      let active := J.groupOf T &&& J.lanesWith Thread.active
      let settled := fun t : State => s.settleOffer t core sp b j J T
      s1.cur = { basin := b, jet := j, group := J.groupOf T, exec := active, pc := T.pc, window := decide (0 < T.guardLeft)
                 resumed := decide (active ≠ 0) && decide (active &&& ~~~ J.lanesWith Thread.issued = 0) }
      ∧ (let w : Word := BitVec.ofNat 32 (s1.homeNat pa 4)
        (∀ i, decodeBytes (bytesOfWord w) = some i →
          (∀ t, exec i s1 = .next t → step s = .next (settled t).after) ∧ (∀ f, exec i s1 = .fault f → step s = .fault f))
        ∧ (decodeBytes (bytesOfWord w) = none → step s = .next (settled (s1.trapGroup .illegal)).after))
      ∧ ∀ t : State,
        (t.cur.resumed = false → (∀ U, t.thread? b j l = some U → U.wait.offer = .issued) → settled t = t)
        ∧ settled t = { t with basins := (settled t).basins, spouts := (settled t).spouts }
        ∧ ∀ b' j', (settled t).jet? b' j' = (t.jet? b' j').map fun K =>
            { K with lastLane := (((settled t).jet? b' j').map (·.lastLane)).getD 0
                     inRow := (((settled t).jet? b' j').map (·.inRow)).getD 0 })
    ∧ (∀ core sp b j l pa B J T s1, s.choose = some (.issue core sp) → s.nextJet core sp = some (b, j, J) →
      s.basins.get? b = some B → B.jets.get? j = some J → J.Ordered → s.jetTrapped b j J = false →
      J.nextGroup (s.readyGroups b B j J) = some l → J.threads.get? l = some T → 0 < T.tx.skip →
      T.pc.toNat < 2 ^ 48 → T.pc.toNat % 4 = 0 →
      (s.begin core sp b j J l T).translateFor (s.holderAmong b j (J.groupOf T)) (corePlace B.core) B.ctx J.sys T.pc.toNat .fetch
        = (s1, .ok pa) →
      s1.mayTouch b j (J.groupOf T) pa = true → s1.stale = [] → Clean s1 pa 4 →
      let group := J.groupOf T
      let word := decodeBytes (bytesOfWord (BitVec.ofNat 32 (s1.homeNat pa 4)))
      let settled := fun t : State => s.settleOffer t core sp b j J T
      let lost := fun m : Lanes => ∃ k U, m.getLsbD k = true ∧ J.threads.get? k = some U ∧ 65536 ≤ U.tx.passed + 1
      let Passes := fun (m : Lanes) (f : Nat → Nat) =>
        (lost m → step s = .next (settled (s1.trapSync .illegal 0 group T.pc 0 0)).after)
        ∧ (¬ lost m → ∃ t, step s = .next (settled t).after ∧ t = { s1 with basins := t.basins }
            ∧ ∀ k U, J.threads.get? k = some U → t.thread? b j k = some
                (if m.getLsbD k then { U.pass with tx := { U.tx with skip := f U.tx.skip, passed := U.tx.passed + 1 } } else U))
      let ended := J.lanesWith fun U => decide (U.tx.skip = 1)
      (word = some .txb ∨ word = some .txbIrr → (∀ k U, group.getLsbD k = true → J.threads.get? k = some U → U.tx.skip < 7) →
        Passes group (· + 1))
      ∧ (∀ p, word = some (.txe p) → group &&& ~~~ ended ≠ 0 → Passes (group &&& ~~~ ended) (· - 1))
      ∧ (∀ p t, word = some (.txe p) → group &&& ~~~ ended = 0 →
        exec (.txe p) { s1 with cur := { s1.cur with exec := group, group := group, window := false } } = .next t →
        step s = .next (settled t).after)
      ∧ (word ≠ some .txb → word ≠ some .txbIrr → (∀ p, word ≠ some (.txe p)) → Passes group id))

/-- O54. Tables 5.5 to 5.11: words that the spec writes out decode to the instructions that it names. -/
def Obligations.DecodedWords : Prop :=
  let d := fun w : Word => decodeBytes (bytesOfWord w)
  d 0x020C0803 = some (.grd 3 true 3) ∧ d 0x0648_0005 = some (.brc true 2 5) ∧ d 0x05FF_FFFA = some (.bra 0x1FFFFFA)
  ∧ d 0x5624_3071 = some (.ffma 9 6 7 .f32 .rz) ∧ d 0x2A20_47FD = some (.iaddi 8 8 0x7FD)
  ∧ d 0x4C0C_79B1 = some (.movi 3 0x79B1) ∧ d 0xA240_F7EC = some (.stG 16 30 0x7E .b64)
  ∧ d 0xA018_210A = some (.ldG 6 4 16 .b32 2) ∧ d 0xA824_2061 = some (.atom 9 4 .add .pkg .rel 1)
  ∧ d 0xB200_8006 = some (.copy 16 .pkg .rel) ∧ d 0x9428_6000 = some (.grow 10 12 0)
  ∧ d 0xC204_0000 = some (.txe 1) ∧ d 0xCC00_08E5 = some (.rsvm 0 1 14 5) ∧ d 0xDA0C_8051 = some (.mmavVt 3 16 5)
  ∧ d 0xF0E1_4002 = some (.trrec 56 40 2) ∧ d 0xF450_2102 = some (.texf 20 4 16 2)
  ∧ d 0xF820_0000 = some (.mfs 8 0) ∧ d 0x7C00_0000 = none ∧ d 0x1C00_012C = none ∧ d 0x1C00_0200 = none

/-- O55. R68, R99, Tables 5.5 to 5.11: every well-formed instruction that has a word is what its word decodes to, and a word that
decodes is the word of exactly that instruction, which is well formed. -/
def Obligations.DecodeEncode : Prop :=
  (∀ (i : Instr) (w : Word), i.wf = true → encode i = some w → decodeBytes (bytesOfWord w) = some i)
  ∧ (∀ (i : Instr) (w : Word), decodeBytes (bytesOfWord w) = some i → i.wf = true ∧ encode i = some w)

/-- O56. Every instruction, on every state, answers a next state, or the fault by which the controller's access to an address that
nothing populates, or to an image outside the system window, stops the model (log 57, the model's choice). -/
def Obligations.ExecAnswers : Prop :=
  ∀ (i : Instr) (s : State), (∃ t, exec i s = .next t)
    ∨ ∃ pa, exec i s = .fault (.unpopulated pa) ∧ (s.badPlace pa = true ∨ inWindow pa = false)

/-- O57. R398, R406, R408, R412: right after power-on nothing runs, no context is resident and no queue enabled, the cycle count is
0, and the start is all that may happen; the zero of memory and of registers is the model's choice (log 1, log 6). -/
def Obligations.ResetState : Prop :=
  Sound State.reset ∧ Regular State.reset ∧ Aligned State.reset
  ∧ State.reset.cycle = 0 ∧ State.reset.basins = [] ∧ State.reset.launches = [] ∧ State.reset.mem = []
  ∧ State.reset.wh.started = false ∧ State.reset.choose = some (.event .moduleStart)
  ∧ (∀ c, c < 64 → State.reset.resident c = false)
  ∧ ∀ c q, c < 64 → q < 256 → State.reset.queueEnabled c q = false

/-- O58. R46, R404: every step from a sound state leads to a sound state. -/
def Obligations.StepKeepsSound : Prop := ∀ s t : State, Sound s → step s = .next t → Sound t

/-- O59. R33, R73, R146: every step keeps the lists of the state in order, and what is in canonical form so; an exited jet has no
threads and a window base is at least 32. -/
def Obligations.StepKeepsRegular : Prop := ∀ s t : State, Regular s → step s = .next t → Regular t

/-- O60. R173, R190, R253: every step keeps the requests on their way aligned and within their lines. -/
def Obligations.StepKeepsAligned : Prop := ∀ s t : State, Aligned s → step s = .next t → Aligned t
end

