-- ==== Sys2Proof/Laws/Cells.lean ====
section
/-! SUPPORT. Laws of sparse data: what is read after a write, and that every operation keeps the canonical form. -/

namespace Sys2Proof.Machine

variable {β : Type}

/-! ### Reading after writing -/

@[simp] theorem get?_nil (k : Nat) : Cells.get? ([] : Cells β) k = none := rfl

@[simp] theorem get?_put_self (c : Cells β) (k : Nat) (v : β) : Cells.get? (Cells.put c k v) k = some v := by
  induction c with
  | nil => simp [Cells.put, Cells.get?]
  | cons e c ih =>
    obtain ⟨k', v'⟩ := e
    simp only [Cells.put]
    split
    · simp [Cells.get?]
    · split
      · simp [Cells.get?]
      · next h1 h2 => simp only [Cells.get?, h1, h2, if_false, ih]

theorem get?_put_ne (c : Cells β) {k j : Nat} (v : β) (h : j ≠ k) :
    Cells.get? (Cells.put c k v) j = Cells.get? c j := by
  induction c with
  | nil => simp only [Cells.put, Cells.get?, Ne.symm h, if_false]; split <;> rfl
  | cons e c ih =>
    obtain ⟨k', v'⟩ := e
    simp only [Cells.put]
    split
    · next h1 => subst h1; simp only [Cells.get?, Ne.symm h, if_false]
    · split
      · next h1 h2 =>
        simp only [Cells.get?, Ne.symm h, if_false]
        by_cases hj : j < k
        · have h3 : k' ≠ j := by omega
          have h4 : j < k' := by omega
          simp only [hj, h3, h4, if_true, if_false]
        · simp only [hj, if_false]
      · simp only [Cells.get?, ih]

@[simp] theorem get_put_self (d : β) (c : Cells β) (k : Nat) (v : β) : Cells.get d (Cells.put c k v) k = v := by
  simp [Cells.get]

theorem get_put_ne (d : β) (c : Cells β) {k j : Nat} (v : β) (h : j ≠ k) :
    Cells.get d (Cells.put c k v) j = Cells.get d c j := by
  simp [Cells.get, get?_put_ne c v h]

@[simp] theorem get?_mapKeys (c : Cells β) (f : Nat → β → β) (k : Nat) :
    Cells.get? (Cells.mapKeys c f) k = (Cells.get? c k).map (f k) := by
  induction c with
  | nil => rfl
  | cons e c ih =>
    obtain ⟨k', v'⟩ := e
    simp only [Cells.mapKeys, Cells.get?]
    split
    · next h => subst h; rfl
    · split
      · rfl
      · exact ih

@[simp] theorem get?_modify_self (c : Cells β) (k : Nat) (f : β → β) :
    Cells.get? (Cells.modify c k f) k = (Cells.get? c k).map f := by
  unfold Cells.modify
  cases h : Cells.get? c k with
  | none => simp [h]
  | some v => simp

theorem get?_modify_ne (c : Cells β) {k j : Nat} (f : β → β) (h : j ≠ k) :
    Cells.get? (Cells.modify c k f) j = Cells.get? c j := by
  unfold Cells.modify
  split
  · rfl
  · exact get?_put_ne c _ h

/-! ### The canonical form -/

theorem sortedFrom_weaken {lo lo' : Option Nat} {c : Cells β} (h : Cells.sortedFrom lo c = true)
    (hl : ∀ b, lo' = some b → ∃ a, lo = some a ∧ b ≤ a) : Cells.sortedFrom lo' c = true := by
  cases c with
  | nil => rfl
  | cons e c =>
    obtain ⟨k, v⟩ := e
    simp only [Cells.sortedFrom, Bool.and_eq_true] at h ⊢
    refine ⟨?_, h.2⟩
    cases lo' with
    | none => rfl
    | some b =>
      obtain ⟨a, ha, hb⟩ := hl b rfl
      subst ha
      have := of_decide_eq_true h.1
      exact decide_eq_true (by omega)

theorem sortedFrom_tail {lo : Option Nat} {k : Nat} {v : β} {c : Cells β}
    (h : Cells.sortedFrom lo ((k, v) :: c) = true) : Cells.sortedFrom lo c = true := by
  simp only [Cells.sortedFrom, Bool.and_eq_true] at h
  refine sortedFrom_weaken h.2 fun b hb => ?_
  subst hb
  have := of_decide_eq_true h.1
  exact ⟨k, rfl, by omega⟩

theorem get?_below {lo : Option Nat} {c : Cells β} (h : Cells.sortedFrom lo c = true) {j : Nat}
    (hj : ∀ b, lo = some b → j ≤ b) (hn : lo ≠ none) : Cells.get? c j = none := by
  cases c with
  | nil => rfl
  | cons e c =>
    obtain ⟨k, v⟩ := e
    cases lo with
    | none => exact absurd rfl hn
    | some b =>
      simp only [Cells.sortedFrom, Bool.and_eq_true] at h
      have h1 := of_decide_eq_true h.1
      have h2 := hj b rfl
      have h3 : k ≠ j := by omega
      have h4 : j < k := by omega
      simp only [Cells.get?, h3, h4, if_true, if_false]

theorem sortedFrom_put {lo : Option Nat} {c : Cells β} (h : Cells.sortedFrom lo c = true) (k : Nat) (v : β)
    (hk : ∀ b, lo = some b → b < k) : Cells.sortedFrom lo (Cells.put c k v) = true := by
  induction c generalizing lo with
  | nil =>
    cases lo with
    | none => rfl
    | some b => simp [Cells.put, Cells.sortedFrom, hk b rfl]
  | cons e c ih =>
    obtain ⟨k', v'⟩ := e
    simp only [Cells.put]
    split
    · next h1 => subst h1; exact h
    · split
      · next h1 h2 =>
        simp only [Cells.sortedFrom, Bool.and_eq_true] at h ⊢
        refine ⟨?_, decide_eq_true h2, h.2⟩
        cases lo with
        | none => rfl
        | some b => exact decide_eq_true (hk b rfl)
      · next h1 h2 =>
        simp only [Cells.sortedFrom, Bool.and_eq_true] at h ⊢
        refine ⟨h.1, ih h.2 fun b hb => ?_⟩
        cases hb
        omega

theorem sortedFrom_del {lo : Option Nat} {c : Cells β} (h : Cells.sortedFrom lo c = true) (k : Nat) :
    Cells.sortedFrom lo (Cells.del c k) = true := by
  induction c generalizing lo with
  | nil => rfl
  | cons e c ih =>
    obtain ⟨k', v'⟩ := e
    simp only [Cells.del]
    split
    · exact sortedFrom_tail h
    · split
      · exact h
      · simp only [Cells.sortedFrom, Bool.and_eq_true] at h ⊢
        exact ⟨h.1, ih h.2⟩

theorem all_put (p : Nat × β → Bool) {c : Cells β} (h : c.all p = true) (k : Nat) (v : β) (hv : p (k, v) = true) :
    (Cells.put c k v).all p = true := by
  induction c with
  | nil => simp [Cells.put, hv]
  | cons e c ih =>
    obtain ⟨k', v'⟩ := e
    simp only [List.all_cons, Bool.and_eq_true] at h
    simp only [Cells.put]
    split
    · simp [hv, h.2]
    · split
      · simp [hv, h.1, h.2]
      · simp [h.1, ih h.2]

theorem all_del (p : Nat × β → Bool) {c : Cells β} (h : c.all p = true) (k : Nat) : (Cells.del c k).all p = true := by
  induction c with
  | nil => rfl
  | cons e c ih =>
    obtain ⟨k', v'⟩ := e
    simp only [List.all_cons, Bool.and_eq_true] at h
    simp only [Cells.del]
    split
    · exact h.2
    · split
      · simp [h.1, h.2]
      · simp [h.1, ih h.2]

theorem wf_put [DecidableEq β] {d : β} {c : Cells β} (h : Cells.wf d c = true) (k : Nat) {v : β} (hv : v ≠ d) :
    Cells.wf d (Cells.put c k v) = true := by
  simp only [Cells.wf, Bool.and_eq_true] at h ⊢
  exact ⟨sortedFrom_put h.1 k v (by simp), all_put _ h.2 k v (decide_eq_true hv)⟩

theorem wf_del [DecidableEq β] {d : β} {c : Cells β} (h : Cells.wf d c = true) (k : Nat) :
    Cells.wf d (Cells.del c k) = true := by
  simp only [Cells.wf, Bool.and_eq_true] at h ⊢
  exact ⟨sortedFrom_del h.1 k, all_del _ h.2 k⟩

theorem wf_set [DecidableEq β] {d : β} {c : Cells β} (h : Cells.wf d c = true) (k : Nat) (v : β) :
    Cells.wf d (Cells.set d c k v) = true := by
  unfold Cells.set
  split
  · exact wf_del h k
  · next hv => exact wf_put h k hv

theorem sortedFrom_filter {lo : Option Nat} {c : Cells β} (h : Cells.sortedFrom lo c = true) (p : Nat × β → Bool) :
    Cells.sortedFrom lo (c.filter p) = true := by
  induction c generalizing lo with
  | nil => rfl
  | cons e c ih =>
    obtain ⟨k, v⟩ := e
    simp only [List.filter_cons]
    split
    · simp only [Cells.sortedFrom, Bool.and_eq_true] at h ⊢
      exact ⟨h.1, ih h.2⟩
    · exact ih (sortedFrom_tail h)

theorem wf_filter [DecidableEq β] {d : β} {c : Cells β} (h : Cells.wf d c = true) (p : Nat × β → Bool) :
    Cells.wf d (c.filter p) = true := by
  simp only [Cells.wf, Bool.and_eq_true] at h ⊢
  refine ⟨sortedFrom_filter h.1 p, List.all_eq_true.mpr fun e he => ?_⟩
  exact List.all_eq_true.mp h.2 e (List.mem_filter.mp he).1

/-! ### Reading after writing, with a default -/

theorem get?_del_self {lo : Option Nat} {c : Cells β} (h : Cells.sortedFrom lo c = true) (k : Nat) :
    Cells.get? (Cells.del c k) k = none := by
  induction c generalizing lo with
  | nil => rfl
  | cons e c ih =>
    obtain ⟨k', v'⟩ := e
    simp only [Cells.sortedFrom, Bool.and_eq_true] at h
    simp only [Cells.del]
    split
    · next h1 => exact get?_below h.2 (fun b hb => by cases hb; omega) (by simp)
    · next h1 =>
      split
      · next h2 => simp only [Cells.get?, h1, h2, if_true, if_false]
      · next h2 => simp only [Cells.get?, h1, h2, if_false, ih h.2]

theorem get?_del_ne {lo : Option Nat} {c : Cells β} (h : Cells.sortedFrom lo c = true) {k j : Nat} (hj : j ≠ k) :
    Cells.get? (Cells.del c k) j = Cells.get? c j := by
  induction c generalizing lo with
  | nil => rfl
  | cons e c ih =>
    obtain ⟨k', v'⟩ := e
    simp only [Cells.sortedFrom, Bool.and_eq_true] at h
    simp only [Cells.del]
    split
    · next h1 =>
      subst h1
      simp only [Cells.get?, Ne.symm hj, if_false]
      split
      · next h2 => exact get?_below h.2 (fun b hb => by cases hb; omega) (by simp)
      · rfl
    · split
      · rfl
      · simp only [Cells.get?, ih h.2]

/-- A read after a write: the value written at its key, what was there elsewhere. -/
theorem get_set [DecidableEq β] {d : β} {c : Cells β} (h : Cells.wf d c = true) (k j : Nat) (v : β) :
    Cells.get d (Cells.set d c k v) j = if j = k then v else Cells.get d c j := by
  simp only [Cells.wf, Bool.and_eq_true] at h
  unfold Cells.set
  split
  · next hv =>
    by_cases hj : j = k
    · subst hj; simp [Cells.get, get?_del_self h.1, hv]
    · simp [Cells.get, get?_del_ne h.1 hj, hj]
  · by_cases hj : j = k
    · subst hj; simp
    · simp [get_put_ne d c v hj, hj]

end Sys2Proof.Machine
end

