-- ==== Sys2Proof/Laws/State.lean ====
section
/-! SUPPORT. What the plain updates of the state leave in each field: one lemma per field and update. -/

namespace Sys2Proof.Machine

/-! ### `withBasin` -/

@[simp] theorem withBasin_cur (s : State) (b : Nat) (f : Basin → Basin) : (s.withBasin b f).cur = s.cur := rfl
@[simp] theorem withBasin_tick (s : State) (b : Nat) (f : Basin → Basin) : (s.withBasin b f).tick = s.tick := rfl
@[simp] theorem withBasin_cycle (s : State) (b : Nat) (f : Basin → Basin) : (s.withBasin b f).cycle = s.cycle := rfl
@[simp] theorem withBasin_time (s : State) (b : Nat) (f : Basin → Basin) : (s.withBasin b f).time = s.time := rfl
@[simp] theorem withBasin_rest (s : State) (b : Nat) (f : Basin → Basin) : (s.withBasin b f).rest = s.rest := rfl
@[simp] theorem withBasin_agenda (s : State) (b : Nat) (f : Basin → Basin) :
    (s.withBasin b f).agenda = s.agenda := rfl
@[simp] theorem withBasin_foreign (s : State) (b : Nat) (f : Basin → Basin) :
    (s.withBasin b f).foreign = s.foreign := rfl
@[simp] theorem withBasin_mem (s : State) (b : Nat) (f : Basin → Basin) : (s.withBasin b f).mem = s.mem := rfl
@[simp] theorem withBasin_poison (s : State) (b : Nat) (f : Basin → Basin) :
    (s.withBasin b f).poison = s.poison := rfl
@[simp] theorem withBasin_latent (s : State) (b : Nat) (f : Basin → Basin) :
    (s.withBasin b f).latent = s.latent := rfl
@[simp] theorem withBasin_stale (s : State) (b : Nat) (f : Basin → Basin) : (s.withBasin b f).stale = s.stale := rfl
@[simp] theorem withBasin_l1 (s : State) (b : Nat) (f : Basin → Basin) : (s.withBasin b f).l1 = s.l1 := rfl
@[simp] theorem withBasin_tlb (s : State) (b : Nat) (f : Basin → Basin) : (s.withBasin b f).tlb = s.tlb := rfl
@[simp] theorem withBasin_basins (s : State) (b : Nat) (f : Basin → Basin) :
    (s.withBasin b f).basins = s.basins.modify b f := rfl
@[simp] theorem withBasin_nextBasin (s : State) (b : Nat) (f : Basin → Basin) :
    (s.withBasin b f).nextBasin = s.nextBasin := rfl
@[simp] theorem withBasin_launches (s : State) (b : Nat) (f : Basin → Basin) :
    (s.withBasin b f).launches = s.launches := rfl
@[simp] theorem withBasin_writes (s : State) (b : Nat) (f : Basin → Basin) :
    (s.withBasin b f).writes = s.writes := rfl
@[simp] theorem withBasin_faults (s : State) (b : Nat) (f : Basin → Basin) :
    (s.withBasin b f).faults = s.faults := rfl
@[simp] theorem withBasin_pageReqs (s : State) (b : Nat) (f : Basin → Basin) :
    (s.withBasin b f).pageReqs = s.pageReqs := rfl
@[simp] theorem withBasin_copies (s : State) (b : Nat) (f : Basin → Basin) :
    (s.withBasin b f).copies = s.copies := rfl
@[simp] theorem withBasin_nextCopy (s : State) (b : Nat) (f : Basin → Basin) :
    (s.withBasin b f).nextCopy = s.nextCopy := rfl
@[simp] theorem withBasin_updates (s : State) (b : Nat) (f : Basin → Basin) :
    (s.withBasin b f).updates = s.updates := rfl
@[simp] theorem withBasin_rays (s : State) (b : Nat) (f : Basin → Basin) : (s.withBasin b f).rays = s.rays := rfl
@[simp] theorem withBasin_gens (s : State) (b : Nat) (f : Basin → Basin) : (s.withBasin b f).gens = s.gens := rfl
@[simp] theorem withBasin_answers (s : State) (b : Nat) (f : Basin → Basin) :
    (s.withBasin b f).answers = s.answers := rfl
@[simp] theorem withBasin_travs (s : State) (b : Nat) (f : Basin → Basin) : (s.withBasin b f).travs = s.travs := rfl
@[simp] theorem withBasin_arrivals (s : State) (b : Nat) (f : Basin → Basin) :
    (s.withBasin b f).arrivals = s.arrivals := rfl
@[simp] theorem withBasin_token (s : State) (b : Nat) (f : Basin → Basin) : (s.withBasin b f).token = s.token := rfl
@[simp] theorem withBasin_slotQ (s : State) (b : Nat) (f : Basin → Basin) : (s.withBasin b f).slotQ = s.slotQ := rfl
@[simp] theorem withBasin_spouts (s : State) (b : Nat) (f : Basin → Basin) :
    (s.withBasin b f).spouts = s.spouts := rfl
@[simp] theorem withBasin_wh (s : State) (b : Nat) (f : Basin → Basin) : (s.withBasin b f).wh = s.wh := rfl
@[simp] theorem withBasin_flash (s : State) (b : Nat) (f : Basin → Basin) : (s.withBasin b f).flash = s.flash := rfl
@[simp] theorem withBasin_ctl (s : State) (b : Nat) (f : Basin → Basin) : (s.withBasin b f).ctl = s.ctl := rfl
@[simp] theorem withBasin_errors (s : State) (b : Nat) (f : Basin → Basin) :
    (s.withBasin b f).errors = s.errors := rfl
@[simp] theorem withBasin_errorCount (s : State) (b : Nat) (f : Basin → Basin) :
    (s.withBasin b f).errorCount = s.errorCount := rfl

/-! ### `withJet` -/

@[simp] theorem withJet_cur (s : State) (b j : Nat) (f : Jet → Jet) : (s.withJet b j f).cur = s.cur := rfl
@[simp] theorem withJet_tick (s : State) (b j : Nat) (f : Jet → Jet) : (s.withJet b j f).tick = s.tick := rfl
@[simp] theorem withJet_cycle (s : State) (b j : Nat) (f : Jet → Jet) : (s.withJet b j f).cycle = s.cycle := rfl
@[simp] theorem withJet_time (s : State) (b j : Nat) (f : Jet → Jet) : (s.withJet b j f).time = s.time := rfl
@[simp] theorem withJet_rest (s : State) (b j : Nat) (f : Jet → Jet) : (s.withJet b j f).rest = s.rest := rfl
@[simp] theorem withJet_agenda (s : State) (b j : Nat) (f : Jet → Jet) : (s.withJet b j f).agenda = s.agenda := rfl
@[simp] theorem withJet_foreign (s : State) (b j : Nat) (f : Jet → Jet) : (s.withJet b j f).foreign = s.foreign := rfl
@[simp] theorem withJet_mem (s : State) (b j : Nat) (f : Jet → Jet) : (s.withJet b j f).mem = s.mem := rfl
@[simp] theorem withJet_poison (s : State) (b j : Nat) (f : Jet → Jet) : (s.withJet b j f).poison = s.poison := rfl
@[simp] theorem withJet_latent (s : State) (b j : Nat) (f : Jet → Jet) : (s.withJet b j f).latent = s.latent := rfl
@[simp] theorem withJet_stale (s : State) (b j : Nat) (f : Jet → Jet) : (s.withJet b j f).stale = s.stale := rfl
@[simp] theorem withJet_l1 (s : State) (b j : Nat) (f : Jet → Jet) : (s.withJet b j f).l1 = s.l1 := rfl
@[simp] theorem withJet_tlb (s : State) (b j : Nat) (f : Jet → Jet) : (s.withJet b j f).tlb = s.tlb := rfl
@[simp] theorem withJet_basins (s : State) (b j : Nat) (f : Jet → Jet) :
    (s.withJet b j f).basins = s.basins.modify b fun B => B.withJet j f := rfl
@[simp] theorem withJet_nextBasin (s : State) (b j : Nat) (f : Jet → Jet) :
    (s.withJet b j f).nextBasin = s.nextBasin := rfl
@[simp] theorem withJet_launches (s : State) (b j : Nat) (f : Jet → Jet) :
    (s.withJet b j f).launches = s.launches := rfl
@[simp] theorem withJet_writes (s : State) (b j : Nat) (f : Jet → Jet) : (s.withJet b j f).writes = s.writes := rfl
@[simp] theorem withJet_faults (s : State) (b j : Nat) (f : Jet → Jet) : (s.withJet b j f).faults = s.faults := rfl
@[simp] theorem withJet_pageReqs (s : State) (b j : Nat) (f : Jet → Jet) :
    (s.withJet b j f).pageReqs = s.pageReqs := rfl
@[simp] theorem withJet_copies (s : State) (b j : Nat) (f : Jet → Jet) : (s.withJet b j f).copies = s.copies := rfl
@[simp] theorem withJet_nextCopy (s : State) (b j : Nat) (f : Jet → Jet) :
    (s.withJet b j f).nextCopy = s.nextCopy := rfl
@[simp] theorem withJet_updates (s : State) (b j : Nat) (f : Jet → Jet) : (s.withJet b j f).updates = s.updates := rfl
@[simp] theorem withJet_rays (s : State) (b j : Nat) (f : Jet → Jet) : (s.withJet b j f).rays = s.rays := rfl
@[simp] theorem withJet_gens (s : State) (b j : Nat) (f : Jet → Jet) : (s.withJet b j f).gens = s.gens := rfl
@[simp] theorem withJet_answers (s : State) (b j : Nat) (f : Jet → Jet) : (s.withJet b j f).answers = s.answers := rfl
@[simp] theorem withJet_travs (s : State) (b j : Nat) (f : Jet → Jet) : (s.withJet b j f).travs = s.travs := rfl
@[simp] theorem withJet_arrivals (s : State) (b j : Nat) (f : Jet → Jet) :
    (s.withJet b j f).arrivals = s.arrivals := rfl
@[simp] theorem withJet_token (s : State) (b j : Nat) (f : Jet → Jet) : (s.withJet b j f).token = s.token := rfl
@[simp] theorem withJet_slotQ (s : State) (b j : Nat) (f : Jet → Jet) : (s.withJet b j f).slotQ = s.slotQ := rfl
@[simp] theorem withJet_spouts (s : State) (b j : Nat) (f : Jet → Jet) : (s.withJet b j f).spouts = s.spouts := rfl
@[simp] theorem withJet_wh (s : State) (b j : Nat) (f : Jet → Jet) : (s.withJet b j f).wh = s.wh := rfl
@[simp] theorem withJet_flash (s : State) (b j : Nat) (f : Jet → Jet) : (s.withJet b j f).flash = s.flash := rfl
@[simp] theorem withJet_ctl (s : State) (b j : Nat) (f : Jet → Jet) : (s.withJet b j f).ctl = s.ctl := rfl
@[simp] theorem withJet_errors (s : State) (b j : Nat) (f : Jet → Jet) : (s.withJet b j f).errors = s.errors := rfl
@[simp] theorem withJet_errorCount (s : State) (b j : Nat) (f : Jet → Jet) :
    (s.withJet b j f).errorCount = s.errorCount := rfl

/-! ### `withThread` -/

@[simp] theorem withThread_cur (s : State) (b j l : Nat) (f : Thread → Thread) :
    (s.withThread b j l f).cur = s.cur := rfl
@[simp] theorem withThread_tick (s : State) (b j l : Nat) (f : Thread → Thread) :
    (s.withThread b j l f).tick = s.tick := rfl
@[simp] theorem withThread_cycle (s : State) (b j l : Nat) (f : Thread → Thread) :
    (s.withThread b j l f).cycle = s.cycle := rfl
@[simp] theorem withThread_time (s : State) (b j l : Nat) (f : Thread → Thread) :
    (s.withThread b j l f).time = s.time := rfl
@[simp] theorem withThread_rest (s : State) (b j l : Nat) (f : Thread → Thread) :
    (s.withThread b j l f).rest = s.rest := rfl
@[simp] theorem withThread_agenda (s : State) (b j l : Nat) (f : Thread → Thread) :
    (s.withThread b j l f).agenda = s.agenda := rfl
@[simp] theorem withThread_foreign (s : State) (b j l : Nat) (f : Thread → Thread) :
    (s.withThread b j l f).foreign = s.foreign := rfl
@[simp] theorem withThread_mem (s : State) (b j l : Nat) (f : Thread → Thread) :
    (s.withThread b j l f).mem = s.mem := rfl
@[simp] theorem withThread_poison (s : State) (b j l : Nat) (f : Thread → Thread) :
    (s.withThread b j l f).poison = s.poison := rfl
@[simp] theorem withThread_latent (s : State) (b j l : Nat) (f : Thread → Thread) :
    (s.withThread b j l f).latent = s.latent := rfl
@[simp] theorem withThread_stale (s : State) (b j l : Nat) (f : Thread → Thread) :
    (s.withThread b j l f).stale = s.stale := rfl
@[simp] theorem withThread_l1 (s : State) (b j l : Nat) (f : Thread → Thread) :
    (s.withThread b j l f).l1 = s.l1 := rfl
@[simp] theorem withThread_tlb (s : State) (b j l : Nat) (f : Thread → Thread) :
    (s.withThread b j l f).tlb = s.tlb := rfl
@[simp] theorem withThread_basins (s : State) (b j l : Nat) (f : Thread → Thread) :
    (s.withThread b j l f).basins = s.basins.modify b fun B => B.withJet j fun J => J.withThread l f := rfl
@[simp] theorem withThread_nextBasin (s : State) (b j l : Nat) (f : Thread → Thread) :
    (s.withThread b j l f).nextBasin = s.nextBasin := rfl
@[simp] theorem withThread_launches (s : State) (b j l : Nat) (f : Thread → Thread) :
    (s.withThread b j l f).launches = s.launches := rfl
@[simp] theorem withThread_writes (s : State) (b j l : Nat) (f : Thread → Thread) :
    (s.withThread b j l f).writes = s.writes := rfl
@[simp] theorem withThread_faults (s : State) (b j l : Nat) (f : Thread → Thread) :
    (s.withThread b j l f).faults = s.faults := rfl
@[simp] theorem withThread_pageReqs (s : State) (b j l : Nat) (f : Thread → Thread) :
    (s.withThread b j l f).pageReqs = s.pageReqs := rfl
@[simp] theorem withThread_copies (s : State) (b j l : Nat) (f : Thread → Thread) :
    (s.withThread b j l f).copies = s.copies := rfl
@[simp] theorem withThread_nextCopy (s : State) (b j l : Nat) (f : Thread → Thread) :
    (s.withThread b j l f).nextCopy = s.nextCopy := rfl
@[simp] theorem withThread_updates (s : State) (b j l : Nat) (f : Thread → Thread) :
    (s.withThread b j l f).updates = s.updates := rfl
@[simp] theorem withThread_rays (s : State) (b j l : Nat) (f : Thread → Thread) :
    (s.withThread b j l f).rays = s.rays := rfl
@[simp] theorem withThread_gens (s : State) (b j l : Nat) (f : Thread → Thread) :
    (s.withThread b j l f).gens = s.gens := rfl
@[simp] theorem withThread_answers (s : State) (b j l : Nat) (f : Thread → Thread) :
    (s.withThread b j l f).answers = s.answers := rfl
@[simp] theorem withThread_travs (s : State) (b j l : Nat) (f : Thread → Thread) :
    (s.withThread b j l f).travs = s.travs := rfl
@[simp] theorem withThread_arrivals (s : State) (b j l : Nat) (f : Thread → Thread) :
    (s.withThread b j l f).arrivals = s.arrivals := rfl
@[simp] theorem withThread_token (s : State) (b j l : Nat) (f : Thread → Thread) :
    (s.withThread b j l f).token = s.token := rfl
@[simp] theorem withThread_slotQ (s : State) (b j l : Nat) (f : Thread → Thread) :
    (s.withThread b j l f).slotQ = s.slotQ := rfl
@[simp] theorem withThread_spouts (s : State) (b j l : Nat) (f : Thread → Thread) :
    (s.withThread b j l f).spouts = s.spouts := rfl
@[simp] theorem withThread_wh (s : State) (b j l : Nat) (f : Thread → Thread) :
    (s.withThread b j l f).wh = s.wh := rfl
@[simp] theorem withThread_flash (s : State) (b j l : Nat) (f : Thread → Thread) :
    (s.withThread b j l f).flash = s.flash := rfl
@[simp] theorem withThread_ctl (s : State) (b j l : Nat) (f : Thread → Thread) :
    (s.withThread b j l f).ctl = s.ctl := rfl
@[simp] theorem withThread_errors (s : State) (b j l : Nat) (f : Thread → Thread) :
    (s.withThread b j l f).errors = s.errors := rfl
@[simp] theorem withThread_errorCount (s : State) (b j l : Nat) (f : Thread → Thread) :
    (s.withThread b j l f).errorCount = s.errorCount := rfl

/-! ### `withLanes` -/

@[simp] theorem withLanes_cur (s : State) (b j : Nat) (m : Lanes) (f : Nat → Thread → Thread) :
    (s.withLanes b j m f).cur = s.cur := rfl
@[simp] theorem withLanes_tick (s : State) (b j : Nat) (m : Lanes) (f : Nat → Thread → Thread) :
    (s.withLanes b j m f).tick = s.tick := rfl
@[simp] theorem withLanes_cycle (s : State) (b j : Nat) (m : Lanes) (f : Nat → Thread → Thread) :
    (s.withLanes b j m f).cycle = s.cycle := rfl
@[simp] theorem withLanes_time (s : State) (b j : Nat) (m : Lanes) (f : Nat → Thread → Thread) :
    (s.withLanes b j m f).time = s.time := rfl
@[simp] theorem withLanes_rest (s : State) (b j : Nat) (m : Lanes) (f : Nat → Thread → Thread) :
    (s.withLanes b j m f).rest = s.rest := rfl
@[simp] theorem withLanes_agenda (s : State) (b j : Nat) (m : Lanes) (f : Nat → Thread → Thread) :
    (s.withLanes b j m f).agenda = s.agenda := rfl
@[simp] theorem withLanes_foreign (s : State) (b j : Nat) (m : Lanes) (f : Nat → Thread → Thread) :
    (s.withLanes b j m f).foreign = s.foreign := rfl
@[simp] theorem withLanes_mem (s : State) (b j : Nat) (m : Lanes) (f : Nat → Thread → Thread) :
    (s.withLanes b j m f).mem = s.mem := rfl
@[simp] theorem withLanes_poison (s : State) (b j : Nat) (m : Lanes) (f : Nat → Thread → Thread) :
    (s.withLanes b j m f).poison = s.poison := rfl
@[simp] theorem withLanes_latent (s : State) (b j : Nat) (m : Lanes) (f : Nat → Thread → Thread) :
    (s.withLanes b j m f).latent = s.latent := rfl
@[simp] theorem withLanes_stale (s : State) (b j : Nat) (m : Lanes) (f : Nat → Thread → Thread) :
    (s.withLanes b j m f).stale = s.stale := rfl
@[simp] theorem withLanes_l1 (s : State) (b j : Nat) (m : Lanes) (f : Nat → Thread → Thread) :
    (s.withLanes b j m f).l1 = s.l1 := rfl
@[simp] theorem withLanes_tlb (s : State) (b j : Nat) (m : Lanes) (f : Nat → Thread → Thread) :
    (s.withLanes b j m f).tlb = s.tlb := rfl
@[simp] theorem withLanes_basins (s : State) (b j : Nat) (m : Lanes) (f : Nat → Thread → Thread) :
    (s.withLanes b j m f).basins = s.basins.modify b fun B => B.withJet j fun J => J.withLanes m f := rfl
@[simp] theorem withLanes_nextBasin (s : State) (b j : Nat) (m : Lanes) (f : Nat → Thread → Thread) :
    (s.withLanes b j m f).nextBasin = s.nextBasin := rfl
@[simp] theorem withLanes_launches (s : State) (b j : Nat) (m : Lanes) (f : Nat → Thread → Thread) :
    (s.withLanes b j m f).launches = s.launches := rfl
@[simp] theorem withLanes_writes (s : State) (b j : Nat) (m : Lanes) (f : Nat → Thread → Thread) :
    (s.withLanes b j m f).writes = s.writes := rfl
@[simp] theorem withLanes_faults (s : State) (b j : Nat) (m : Lanes) (f : Nat → Thread → Thread) :
    (s.withLanes b j m f).faults = s.faults := rfl
@[simp] theorem withLanes_pageReqs (s : State) (b j : Nat) (m : Lanes) (f : Nat → Thread → Thread) :
    (s.withLanes b j m f).pageReqs = s.pageReqs := rfl
@[simp] theorem withLanes_copies (s : State) (b j : Nat) (m : Lanes) (f : Nat → Thread → Thread) :
    (s.withLanes b j m f).copies = s.copies := rfl
@[simp] theorem withLanes_nextCopy (s : State) (b j : Nat) (m : Lanes) (f : Nat → Thread → Thread) :
    (s.withLanes b j m f).nextCopy = s.nextCopy := rfl
@[simp] theorem withLanes_updates (s : State) (b j : Nat) (m : Lanes) (f : Nat → Thread → Thread) :
    (s.withLanes b j m f).updates = s.updates := rfl
@[simp] theorem withLanes_rays (s : State) (b j : Nat) (m : Lanes) (f : Nat → Thread → Thread) :
    (s.withLanes b j m f).rays = s.rays := rfl
@[simp] theorem withLanes_gens (s : State) (b j : Nat) (m : Lanes) (f : Nat → Thread → Thread) :
    (s.withLanes b j m f).gens = s.gens := rfl
@[simp] theorem withLanes_answers (s : State) (b j : Nat) (m : Lanes) (f : Nat → Thread → Thread) :
    (s.withLanes b j m f).answers = s.answers := rfl
@[simp] theorem withLanes_travs (s : State) (b j : Nat) (m : Lanes) (f : Nat → Thread → Thread) :
    (s.withLanes b j m f).travs = s.travs := rfl
@[simp] theorem withLanes_arrivals (s : State) (b j : Nat) (m : Lanes) (f : Nat → Thread → Thread) :
    (s.withLanes b j m f).arrivals = s.arrivals := rfl
@[simp] theorem withLanes_token (s : State) (b j : Nat) (m : Lanes) (f : Nat → Thread → Thread) :
    (s.withLanes b j m f).token = s.token := rfl
@[simp] theorem withLanes_slotQ (s : State) (b j : Nat) (m : Lanes) (f : Nat → Thread → Thread) :
    (s.withLanes b j m f).slotQ = s.slotQ := rfl
@[simp] theorem withLanes_spouts (s : State) (b j : Nat) (m : Lanes) (f : Nat → Thread → Thread) :
    (s.withLanes b j m f).spouts = s.spouts := rfl
@[simp] theorem withLanes_wh (s : State) (b j : Nat) (m : Lanes) (f : Nat → Thread → Thread) :
    (s.withLanes b j m f).wh = s.wh := rfl
@[simp] theorem withLanes_flash (s : State) (b j : Nat) (m : Lanes) (f : Nat → Thread → Thread) :
    (s.withLanes b j m f).flash = s.flash := rfl
@[simp] theorem withLanes_ctl (s : State) (b j : Nat) (m : Lanes) (f : Nat → Thread → Thread) :
    (s.withLanes b j m f).ctl = s.ctl := rfl
@[simp] theorem withLanes_errors (s : State) (b j : Nat) (m : Lanes) (f : Nat → Thread → Thread) :
    (s.withLanes b j m f).errors = s.errors := rfl
@[simp] theorem withLanes_errorCount (s : State) (b j : Nat) (m : Lanes) (f : Nat → Thread → Thread) :
    (s.withLanes b j m f).errorCount = s.errorCount := rfl

/-! ### `hold` -/

@[simp] theorem hold_cur (s : State) (w : Wait) : (s.hold w).cur = s.cur := rfl
@[simp] theorem hold_tick (s : State) (w : Wait) : (s.hold w).tick = s.tick := rfl
@[simp] theorem hold_cycle (s : State) (w : Wait) : (s.hold w).cycle = s.cycle := rfl
@[simp] theorem hold_time (s : State) (w : Wait) : (s.hold w).time = s.time := rfl
@[simp] theorem hold_rest (s : State) (w : Wait) : (s.hold w).rest = s.rest := rfl
@[simp] theorem hold_agenda (s : State) (w : Wait) : (s.hold w).agenda = s.agenda := rfl
@[simp] theorem hold_foreign (s : State) (w : Wait) : (s.hold w).foreign = s.foreign := rfl
@[simp] theorem hold_mem (s : State) (w : Wait) : (s.hold w).mem = s.mem := rfl
@[simp] theorem hold_poison (s : State) (w : Wait) : (s.hold w).poison = s.poison := rfl
@[simp] theorem hold_latent (s : State) (w : Wait) : (s.hold w).latent = s.latent := rfl
@[simp] theorem hold_stale (s : State) (w : Wait) : (s.hold w).stale = s.stale := rfl
@[simp] theorem hold_l1 (s : State) (w : Wait) : (s.hold w).l1 = s.l1 := rfl
@[simp] theorem hold_tlb (s : State) (w : Wait) : (s.hold w).tlb = s.tlb := rfl
@[simp] theorem hold_nextBasin (s : State) (w : Wait) : (s.hold w).nextBasin = s.nextBasin := rfl
@[simp] theorem hold_launches (s : State) (w : Wait) : (s.hold w).launches = s.launches := rfl
@[simp] theorem hold_writes (s : State) (w : Wait) : (s.hold w).writes = s.writes := rfl
@[simp] theorem hold_faults (s : State) (w : Wait) : (s.hold w).faults = s.faults := rfl
@[simp] theorem hold_pageReqs (s : State) (w : Wait) : (s.hold w).pageReqs = s.pageReqs := rfl
@[simp] theorem hold_copies (s : State) (w : Wait) : (s.hold w).copies = s.copies := rfl
@[simp] theorem hold_nextCopy (s : State) (w : Wait) : (s.hold w).nextCopy = s.nextCopy := rfl
@[simp] theorem hold_updates (s : State) (w : Wait) : (s.hold w).updates = s.updates := rfl
@[simp] theorem hold_rays (s : State) (w : Wait) : (s.hold w).rays = s.rays := rfl
@[simp] theorem hold_gens (s : State) (w : Wait) : (s.hold w).gens = s.gens := rfl
@[simp] theorem hold_answers (s : State) (w : Wait) : (s.hold w).answers = s.answers := rfl
@[simp] theorem hold_travs (s : State) (w : Wait) : (s.hold w).travs = s.travs := rfl
@[simp] theorem hold_arrivals (s : State) (w : Wait) : (s.hold w).arrivals = s.arrivals := rfl
@[simp] theorem hold_token (s : State) (w : Wait) : (s.hold w).token = s.token := rfl
@[simp] theorem hold_slotQ (s : State) (w : Wait) : (s.hold w).slotQ = s.slotQ := rfl
@[simp] theorem hold_spouts (s : State) (w : Wait) : (s.hold w).spouts = s.spouts := rfl
@[simp] theorem hold_wh (s : State) (w : Wait) : (s.hold w).wh = s.wh := rfl
@[simp] theorem hold_flash (s : State) (w : Wait) : (s.hold w).flash = s.flash := rfl
@[simp] theorem hold_ctl (s : State) (w : Wait) : (s.hold w).ctl = s.ctl := rfl
@[simp] theorem hold_errors (s : State) (w : Wait) : (s.hold w).errors = s.errors := rfl
@[simp] theorem hold_errorCount (s : State) (w : Wait) : (s.hold w).errorCount = s.errorCount := rfl

/-! ### `retire` -/

@[simp] theorem retire_cur (s : State) : (s.retire).cur = s.cur := rfl
@[simp] theorem retire_tick (s : State) : (s.retire).tick = s.tick := rfl
@[simp] theorem retire_cycle (s : State) : (s.retire).cycle = s.cycle := rfl
@[simp] theorem retire_time (s : State) : (s.retire).time = s.time := rfl
@[simp] theorem retire_rest (s : State) : (s.retire).rest = s.rest := rfl
@[simp] theorem retire_agenda (s : State) : (s.retire).agenda = s.agenda := rfl
@[simp] theorem retire_foreign (s : State) : (s.retire).foreign = s.foreign := rfl
@[simp] theorem retire_mem (s : State) : (s.retire).mem = s.mem := rfl
@[simp] theorem retire_poison (s : State) : (s.retire).poison = s.poison := rfl
@[simp] theorem retire_latent (s : State) : (s.retire).latent = s.latent := rfl
@[simp] theorem retire_stale (s : State) : (s.retire).stale = s.stale := rfl
@[simp] theorem retire_l1 (s : State) : (s.retire).l1 = s.l1 := rfl
@[simp] theorem retire_tlb (s : State) : (s.retire).tlb = s.tlb := rfl
@[simp] theorem retire_basins (s : State) :
    (s.retire).basins = s.basins.modify s.cur.basin fun B => B.withJet s.cur.jet fun J => J.retire s.cur.group (!s.cur.resumed) := rfl
@[simp] theorem retire_nextBasin (s : State) : (s.retire).nextBasin = s.nextBasin := rfl
@[simp] theorem retire_launches (s : State) : (s.retire).launches = s.launches := rfl
@[simp] theorem retire_writes (s : State) : (s.retire).writes = s.writes := rfl
@[simp] theorem retire_faults (s : State) : (s.retire).faults = s.faults := rfl
@[simp] theorem retire_pageReqs (s : State) : (s.retire).pageReqs = s.pageReqs := rfl
@[simp] theorem retire_copies (s : State) : (s.retire).copies = s.copies := rfl
@[simp] theorem retire_nextCopy (s : State) : (s.retire).nextCopy = s.nextCopy := rfl
@[simp] theorem retire_updates (s : State) : (s.retire).updates = s.updates := rfl
@[simp] theorem retire_rays (s : State) : (s.retire).rays = s.rays := rfl
@[simp] theorem retire_gens (s : State) : (s.retire).gens = s.gens := rfl
@[simp] theorem retire_answers (s : State) : (s.retire).answers = s.answers := rfl
@[simp] theorem retire_travs (s : State) : (s.retire).travs = s.travs := rfl
@[simp] theorem retire_arrivals (s : State) : (s.retire).arrivals = s.arrivals := rfl
@[simp] theorem retire_token (s : State) : (s.retire).token = s.token := rfl
@[simp] theorem retire_slotQ (s : State) : (s.retire).slotQ = s.slotQ := rfl
@[simp] theorem retire_spouts (s : State) : (s.retire).spouts = s.spouts := rfl
@[simp] theorem retire_wh (s : State) : (s.retire).wh = s.wh := rfl
@[simp] theorem retire_flash (s : State) : (s.retire).flash = s.flash := rfl
@[simp] theorem retire_ctl (s : State) : (s.retire).ctl = s.ctl := rfl
@[simp] theorem retire_errors (s : State) : (s.retire).errors = s.errors := rfl
@[simp] theorem retire_errorCount (s : State) : (s.retire).errorCount = s.errorCount := rfl

/-! ### `jump` -/

@[simp] theorem jump_cur (s : State) (m : Lanes) (f : Nat → Dword) : (s.jump m f).cur = s.cur := rfl
@[simp] theorem jump_tick (s : State) (m : Lanes) (f : Nat → Dword) : (s.jump m f).tick = s.tick := rfl
@[simp] theorem jump_cycle (s : State) (m : Lanes) (f : Nat → Dword) : (s.jump m f).cycle = s.cycle := rfl
@[simp] theorem jump_time (s : State) (m : Lanes) (f : Nat → Dword) : (s.jump m f).time = s.time := rfl
@[simp] theorem jump_rest (s : State) (m : Lanes) (f : Nat → Dword) : (s.jump m f).rest = s.rest := rfl
@[simp] theorem jump_agenda (s : State) (m : Lanes) (f : Nat → Dword) : (s.jump m f).agenda = s.agenda := rfl
@[simp] theorem jump_foreign (s : State) (m : Lanes) (f : Nat → Dword) : (s.jump m f).foreign = s.foreign := rfl
@[simp] theorem jump_mem (s : State) (m : Lanes) (f : Nat → Dword) : (s.jump m f).mem = s.mem := rfl
@[simp] theorem jump_poison (s : State) (m : Lanes) (f : Nat → Dword) : (s.jump m f).poison = s.poison := rfl
@[simp] theorem jump_latent (s : State) (m : Lanes) (f : Nat → Dword) : (s.jump m f).latent = s.latent := rfl
@[simp] theorem jump_stale (s : State) (m : Lanes) (f : Nat → Dword) : (s.jump m f).stale = s.stale := rfl
@[simp] theorem jump_l1 (s : State) (m : Lanes) (f : Nat → Dword) : (s.jump m f).l1 = s.l1 := rfl
@[simp] theorem jump_tlb (s : State) (m : Lanes) (f : Nat → Dword) : (s.jump m f).tlb = s.tlb := rfl
@[simp] theorem jump_nextBasin (s : State) (m : Lanes) (f : Nat → Dword) : (s.jump m f).nextBasin = s.nextBasin := rfl
@[simp] theorem jump_launches (s : State) (m : Lanes) (f : Nat → Dword) : (s.jump m f).launches = s.launches := rfl
@[simp] theorem jump_writes (s : State) (m : Lanes) (f : Nat → Dword) : (s.jump m f).writes = s.writes := rfl
@[simp] theorem jump_faults (s : State) (m : Lanes) (f : Nat → Dword) : (s.jump m f).faults = s.faults := rfl
@[simp] theorem jump_pageReqs (s : State) (m : Lanes) (f : Nat → Dword) : (s.jump m f).pageReqs = s.pageReqs := rfl
@[simp] theorem jump_copies (s : State) (m : Lanes) (f : Nat → Dword) : (s.jump m f).copies = s.copies := rfl
@[simp] theorem jump_nextCopy (s : State) (m : Lanes) (f : Nat → Dword) : (s.jump m f).nextCopy = s.nextCopy := rfl
@[simp] theorem jump_updates (s : State) (m : Lanes) (f : Nat → Dword) : (s.jump m f).updates = s.updates := rfl
@[simp] theorem jump_rays (s : State) (m : Lanes) (f : Nat → Dword) : (s.jump m f).rays = s.rays := rfl
@[simp] theorem jump_gens (s : State) (m : Lanes) (f : Nat → Dword) : (s.jump m f).gens = s.gens := rfl
@[simp] theorem jump_answers (s : State) (m : Lanes) (f : Nat → Dword) : (s.jump m f).answers = s.answers := rfl
@[simp] theorem jump_travs (s : State) (m : Lanes) (f : Nat → Dword) : (s.jump m f).travs = s.travs := rfl
@[simp] theorem jump_arrivals (s : State) (m : Lanes) (f : Nat → Dword) : (s.jump m f).arrivals = s.arrivals := rfl
@[simp] theorem jump_token (s : State) (m : Lanes) (f : Nat → Dword) : (s.jump m f).token = s.token := rfl
@[simp] theorem jump_slotQ (s : State) (m : Lanes) (f : Nat → Dword) : (s.jump m f).slotQ = s.slotQ := rfl
@[simp] theorem jump_spouts (s : State) (m : Lanes) (f : Nat → Dword) : (s.jump m f).spouts = s.spouts := rfl
@[simp] theorem jump_wh (s : State) (m : Lanes) (f : Nat → Dword) : (s.jump m f).wh = s.wh := rfl
@[simp] theorem jump_flash (s : State) (m : Lanes) (f : Nat → Dword) : (s.jump m f).flash = s.flash := rfl
@[simp] theorem jump_ctl (s : State) (m : Lanes) (f : Nat → Dword) : (s.jump m f).ctl = s.ctl := rfl
@[simp] theorem jump_errors (s : State) (m : Lanes) (f : Nat → Dword) : (s.jump m f).errors = s.errors := rfl
@[simp] theorem jump_errorCount (s : State) (m : Lanes) (f : Nat → Dword) :
    (s.jump m f).errorCount = s.errorCount := rfl

/-! ### `logError` -/

@[simp] theorem logError_cur (s : State) (unit kind pa ctx : Nat) : (s.logError unit kind pa ctx).cur = s.cur := rfl
@[simp] theorem logError_tick (s : State) (unit kind pa ctx : Nat) :
    (s.logError unit kind pa ctx).tick = s.tick := rfl
@[simp] theorem logError_cycle (s : State) (unit kind pa ctx : Nat) :
    (s.logError unit kind pa ctx).cycle = s.cycle := rfl
@[simp] theorem logError_time (s : State) (unit kind pa ctx : Nat) :
    (s.logError unit kind pa ctx).time = s.time := rfl
@[simp] theorem logError_rest (s : State) (unit kind pa ctx : Nat) :
    (s.logError unit kind pa ctx).rest = s.rest := rfl
@[simp] theorem logError_agenda (s : State) (unit kind pa ctx : Nat) :
    (s.logError unit kind pa ctx).agenda = s.agenda := rfl
@[simp] theorem logError_foreign (s : State) (unit kind pa ctx : Nat) :
    (s.logError unit kind pa ctx).foreign = s.foreign := rfl
@[simp] theorem logError_mem (s : State) (unit kind pa ctx : Nat) : (s.logError unit kind pa ctx).mem = s.mem := rfl
@[simp] theorem logError_poison (s : State) (unit kind pa ctx : Nat) :
    (s.logError unit kind pa ctx).poison = s.poison := rfl
@[simp] theorem logError_latent (s : State) (unit kind pa ctx : Nat) :
    (s.logError unit kind pa ctx).latent = s.latent := rfl
@[simp] theorem logError_stale (s : State) (unit kind pa ctx : Nat) :
    (s.logError unit kind pa ctx).stale = s.stale := rfl
@[simp] theorem logError_l1 (s : State) (unit kind pa ctx : Nat) : (s.logError unit kind pa ctx).l1 = s.l1 := rfl
@[simp] theorem logError_tlb (s : State) (unit kind pa ctx : Nat) : (s.logError unit kind pa ctx).tlb = s.tlb := rfl
@[simp] theorem logError_basins (s : State) (unit kind pa ctx : Nat) :
    (s.logError unit kind pa ctx).basins = s.basins := rfl
@[simp] theorem logError_nextBasin (s : State) (unit kind pa ctx : Nat) :
    (s.logError unit kind pa ctx).nextBasin = s.nextBasin := rfl
@[simp] theorem logError_launches (s : State) (unit kind pa ctx : Nat) :
    (s.logError unit kind pa ctx).launches = s.launches := rfl
@[simp] theorem logError_writes (s : State) (unit kind pa ctx : Nat) :
    (s.logError unit kind pa ctx).writes = s.writes := rfl
@[simp] theorem logError_faults (s : State) (unit kind pa ctx : Nat) :
    (s.logError unit kind pa ctx).faults = s.faults := rfl
@[simp] theorem logError_pageReqs (s : State) (unit kind pa ctx : Nat) :
    (s.logError unit kind pa ctx).pageReqs = s.pageReqs := rfl
@[simp] theorem logError_copies (s : State) (unit kind pa ctx : Nat) :
    (s.logError unit kind pa ctx).copies = s.copies := rfl
@[simp] theorem logError_nextCopy (s : State) (unit kind pa ctx : Nat) :
    (s.logError unit kind pa ctx).nextCopy = s.nextCopy := rfl
@[simp] theorem logError_updates (s : State) (unit kind pa ctx : Nat) :
    (s.logError unit kind pa ctx).updates = s.updates := rfl
@[simp] theorem logError_rays (s : State) (unit kind pa ctx : Nat) :
    (s.logError unit kind pa ctx).rays = s.rays := rfl
@[simp] theorem logError_gens (s : State) (unit kind pa ctx : Nat) :
    (s.logError unit kind pa ctx).gens = s.gens := rfl
@[simp] theorem logError_answers (s : State) (unit kind pa ctx : Nat) :
    (s.logError unit kind pa ctx).answers = s.answers := rfl
@[simp] theorem logError_travs (s : State) (unit kind pa ctx : Nat) :
    (s.logError unit kind pa ctx).travs = s.travs := rfl
@[simp] theorem logError_arrivals (s : State) (unit kind pa ctx : Nat) :
    (s.logError unit kind pa ctx).arrivals = s.arrivals := rfl
@[simp] theorem logError_token (s : State) (unit kind pa ctx : Nat) :
    (s.logError unit kind pa ctx).token = s.token := rfl
@[simp] theorem logError_slotQ (s : State) (unit kind pa ctx : Nat) :
    (s.logError unit kind pa ctx).slotQ = s.slotQ := rfl
@[simp] theorem logError_spouts (s : State) (unit kind pa ctx : Nat) :
    (s.logError unit kind pa ctx).spouts = s.spouts := rfl
@[simp] theorem logError_wh (s : State) (unit kind pa ctx : Nat) : (s.logError unit kind pa ctx).wh = s.wh := rfl
@[simp] theorem logError_flash (s : State) (unit kind pa ctx : Nat) :
    (s.logError unit kind pa ctx).flash = s.flash := rfl
@[simp] theorem logError_ctl (s : State) (unit kind pa ctx : Nat) : (s.logError unit kind pa ctx).ctl = s.ctl := rfl
@[simp] theorem logError_errors (s : State) (unit kind pa ctx : Nat) :
    (s.logError unit kind pa ctx).errors = (⟨s.errorCount, s.cycle, unit, kind, pa, ctx⟩ :: s.errors).take 16384 := rfl
@[simp] theorem logError_errorCount (s : State) (unit kind pa ctx : Nat) :
    (s.logError unit kind pa ctx).errorCount = s.errorCount + 1 := rfl

/-! ### `poke` -/

@[simp] theorem poke_cur (s : State) (pa : Nat) (v : Byte) : (s.poke pa v).cur = s.cur := rfl
@[simp] theorem poke_tick (s : State) (pa : Nat) (v : Byte) : (s.poke pa v).tick = s.tick := rfl
@[simp] theorem poke_cycle (s : State) (pa : Nat) (v : Byte) : (s.poke pa v).cycle = s.cycle := rfl
@[simp] theorem poke_time (s : State) (pa : Nat) (v : Byte) : (s.poke pa v).time = s.time := rfl
@[simp] theorem poke_rest (s : State) (pa : Nat) (v : Byte) : (s.poke pa v).rest = s.rest := rfl
@[simp] theorem poke_agenda (s : State) (pa : Nat) (v : Byte) : (s.poke pa v).agenda = s.agenda := rfl
@[simp] theorem poke_foreign (s : State) (pa : Nat) (v : Byte) : (s.poke pa v).foreign = s.foreign := rfl
@[simp] theorem poke_mem (s : State) (pa : Nat) (v : Byte) : (s.poke pa v).mem = Cells.set 0 s.mem pa v := rfl
@[simp] theorem poke_poison (s : State) (pa : Nat) (v : Byte) : (s.poke pa v).poison = s.poison := rfl
@[simp] theorem poke_latent (s : State) (pa : Nat) (v : Byte) : (s.poke pa v).latent = s.latent := rfl
@[simp] theorem poke_stale (s : State) (pa : Nat) (v : Byte) : (s.poke pa v).stale = s.stale := rfl
@[simp] theorem poke_l1 (s : State) (pa : Nat) (v : Byte) : (s.poke pa v).l1 = s.l1 := rfl
@[simp] theorem poke_tlb (s : State) (pa : Nat) (v : Byte) : (s.poke pa v).tlb = s.tlb := rfl
@[simp] theorem poke_basins (s : State) (pa : Nat) (v : Byte) : (s.poke pa v).basins = s.basins := rfl
@[simp] theorem poke_nextBasin (s : State) (pa : Nat) (v : Byte) : (s.poke pa v).nextBasin = s.nextBasin := rfl
@[simp] theorem poke_launches (s : State) (pa : Nat) (v : Byte) : (s.poke pa v).launches = s.launches := rfl
@[simp] theorem poke_writes (s : State) (pa : Nat) (v : Byte) : (s.poke pa v).writes = s.writes := rfl
@[simp] theorem poke_faults (s : State) (pa : Nat) (v : Byte) : (s.poke pa v).faults = s.faults := rfl
@[simp] theorem poke_pageReqs (s : State) (pa : Nat) (v : Byte) : (s.poke pa v).pageReqs = s.pageReqs := rfl
@[simp] theorem poke_copies (s : State) (pa : Nat) (v : Byte) : (s.poke pa v).copies = s.copies := rfl
@[simp] theorem poke_nextCopy (s : State) (pa : Nat) (v : Byte) : (s.poke pa v).nextCopy = s.nextCopy := rfl
@[simp] theorem poke_updates (s : State) (pa : Nat) (v : Byte) : (s.poke pa v).updates = s.updates := rfl
@[simp] theorem poke_rays (s : State) (pa : Nat) (v : Byte) : (s.poke pa v).rays = s.rays := rfl
@[simp] theorem poke_gens (s : State) (pa : Nat) (v : Byte) : (s.poke pa v).gens = s.gens := rfl
@[simp] theorem poke_answers (s : State) (pa : Nat) (v : Byte) : (s.poke pa v).answers = s.answers := rfl
@[simp] theorem poke_travs (s : State) (pa : Nat) (v : Byte) : (s.poke pa v).travs = s.travs := rfl
@[simp] theorem poke_arrivals (s : State) (pa : Nat) (v : Byte) : (s.poke pa v).arrivals = s.arrivals := rfl
@[simp] theorem poke_token (s : State) (pa : Nat) (v : Byte) : (s.poke pa v).token = s.token := rfl
@[simp] theorem poke_slotQ (s : State) (pa : Nat) (v : Byte) : (s.poke pa v).slotQ = s.slotQ := rfl
@[simp] theorem poke_spouts (s : State) (pa : Nat) (v : Byte) : (s.poke pa v).spouts = s.spouts := rfl
@[simp] theorem poke_wh (s : State) (pa : Nat) (v : Byte) : (s.poke pa v).wh = s.wh := rfl
@[simp] theorem poke_flash (s : State) (pa : Nat) (v : Byte) : (s.poke pa v).flash = s.flash := rfl
@[simp] theorem poke_ctl (s : State) (pa : Nat) (v : Byte) : (s.poke pa v).ctl = s.ctl := rfl
@[simp] theorem poke_errors (s : State) (pa : Nat) (v : Byte) : (s.poke pa v).errors = s.errors := rfl
@[simp] theorem poke_errorCount (s : State) (pa : Nat) (v : Byte) : (s.poke pa v).errorCount = s.errorCount := rfl

/-! ### `setCtl8` -/

@[simp] theorem setCtl8_cur (s : State) (off : Nat) (v : Byte) : (s.setCtl8 off v).cur = s.cur := rfl
@[simp] theorem setCtl8_tick (s : State) (off : Nat) (v : Byte) : (s.setCtl8 off v).tick = s.tick := rfl
@[simp] theorem setCtl8_cycle (s : State) (off : Nat) (v : Byte) : (s.setCtl8 off v).cycle = s.cycle := rfl
@[simp] theorem setCtl8_time (s : State) (off : Nat) (v : Byte) : (s.setCtl8 off v).time = s.time := rfl
@[simp] theorem setCtl8_rest (s : State) (off : Nat) (v : Byte) : (s.setCtl8 off v).rest = s.rest := rfl
@[simp] theorem setCtl8_agenda (s : State) (off : Nat) (v : Byte) : (s.setCtl8 off v).agenda = s.agenda := rfl
@[simp] theorem setCtl8_foreign (s : State) (off : Nat) (v : Byte) : (s.setCtl8 off v).foreign = s.foreign := rfl
@[simp] theorem setCtl8_mem (s : State) (off : Nat) (v : Byte) : (s.setCtl8 off v).mem = s.mem := rfl
@[simp] theorem setCtl8_poison (s : State) (off : Nat) (v : Byte) : (s.setCtl8 off v).poison = s.poison := rfl
@[simp] theorem setCtl8_latent (s : State) (off : Nat) (v : Byte) : (s.setCtl8 off v).latent = s.latent := rfl
@[simp] theorem setCtl8_stale (s : State) (off : Nat) (v : Byte) : (s.setCtl8 off v).stale = s.stale := rfl
@[simp] theorem setCtl8_l1 (s : State) (off : Nat) (v : Byte) : (s.setCtl8 off v).l1 = s.l1 := rfl
@[simp] theorem setCtl8_tlb (s : State) (off : Nat) (v : Byte) : (s.setCtl8 off v).tlb = s.tlb := rfl
@[simp] theorem setCtl8_basins (s : State) (off : Nat) (v : Byte) : (s.setCtl8 off v).basins = s.basins := rfl
@[simp] theorem setCtl8_nextBasin (s : State) (off : Nat) (v : Byte) :
    (s.setCtl8 off v).nextBasin = s.nextBasin := rfl
@[simp] theorem setCtl8_launches (s : State) (off : Nat) (v : Byte) : (s.setCtl8 off v).launches = s.launches := rfl
@[simp] theorem setCtl8_writes (s : State) (off : Nat) (v : Byte) : (s.setCtl8 off v).writes = s.writes := rfl
@[simp] theorem setCtl8_faults (s : State) (off : Nat) (v : Byte) : (s.setCtl8 off v).faults = s.faults := rfl
@[simp] theorem setCtl8_pageReqs (s : State) (off : Nat) (v : Byte) : (s.setCtl8 off v).pageReqs = s.pageReqs := rfl
@[simp] theorem setCtl8_copies (s : State) (off : Nat) (v : Byte) : (s.setCtl8 off v).copies = s.copies := rfl
@[simp] theorem setCtl8_nextCopy (s : State) (off : Nat) (v : Byte) : (s.setCtl8 off v).nextCopy = s.nextCopy := rfl
@[simp] theorem setCtl8_updates (s : State) (off : Nat) (v : Byte) : (s.setCtl8 off v).updates = s.updates := rfl
@[simp] theorem setCtl8_rays (s : State) (off : Nat) (v : Byte) : (s.setCtl8 off v).rays = s.rays := rfl
@[simp] theorem setCtl8_gens (s : State) (off : Nat) (v : Byte) : (s.setCtl8 off v).gens = s.gens := rfl
@[simp] theorem setCtl8_answers (s : State) (off : Nat) (v : Byte) : (s.setCtl8 off v).answers = s.answers := rfl
@[simp] theorem setCtl8_travs (s : State) (off : Nat) (v : Byte) : (s.setCtl8 off v).travs = s.travs := rfl
@[simp] theorem setCtl8_arrivals (s : State) (off : Nat) (v : Byte) : (s.setCtl8 off v).arrivals = s.arrivals := rfl
@[simp] theorem setCtl8_token (s : State) (off : Nat) (v : Byte) : (s.setCtl8 off v).token = s.token := rfl
@[simp] theorem setCtl8_slotQ (s : State) (off : Nat) (v : Byte) : (s.setCtl8 off v).slotQ = s.slotQ := rfl
@[simp] theorem setCtl8_spouts (s : State) (off : Nat) (v : Byte) : (s.setCtl8 off v).spouts = s.spouts := rfl
@[simp] theorem setCtl8_wh (s : State) (off : Nat) (v : Byte) : (s.setCtl8 off v).wh = s.wh := rfl
@[simp] theorem setCtl8_flash (s : State) (off : Nat) (v : Byte) : (s.setCtl8 off v).flash = s.flash := rfl
@[simp] theorem setCtl8_ctl (s : State) (off : Nat) (v : Byte) :
    (s.setCtl8 off v).ctl = Cells.set 0 s.ctl off v := rfl
@[simp] theorem setCtl8_errors (s : State) (off : Nat) (v : Byte) : (s.setCtl8 off v).errors = s.errors := rfl
@[simp] theorem setCtl8_errorCount (s : State) (off : Nat) (v : Byte) :
    (s.setCtl8 off v).errorCount = s.errorCount := rfl

/-! ### `setL1` -/

@[simp] theorem setL1_cur (s : State) (core line : Nat) (d : Cells Byte) : (s.setL1 core line d).cur = s.cur := rfl
@[simp] theorem setL1_tick (s : State) (core line : Nat) (d : Cells Byte) : (s.setL1 core line d).tick = s.tick := rfl
@[simp] theorem setL1_cycle (s : State) (core line : Nat) (d : Cells Byte) :
    (s.setL1 core line d).cycle = s.cycle := rfl
@[simp] theorem setL1_time (s : State) (core line : Nat) (d : Cells Byte) : (s.setL1 core line d).time = s.time := rfl
@[simp] theorem setL1_rest (s : State) (core line : Nat) (d : Cells Byte) : (s.setL1 core line d).rest = s.rest := rfl
@[simp] theorem setL1_agenda (s : State) (core line : Nat) (d : Cells Byte) :
    (s.setL1 core line d).agenda = s.agenda := rfl
@[simp] theorem setL1_foreign (s : State) (core line : Nat) (d : Cells Byte) :
    (s.setL1 core line d).foreign = s.foreign := rfl
@[simp] theorem setL1_mem (s : State) (core line : Nat) (d : Cells Byte) : (s.setL1 core line d).mem = s.mem := rfl
@[simp] theorem setL1_poison (s : State) (core line : Nat) (d : Cells Byte) :
    (s.setL1 core line d).poison = s.poison := rfl
@[simp] theorem setL1_latent (s : State) (core line : Nat) (d : Cells Byte) :
    (s.setL1 core line d).latent = s.latent := rfl
@[simp] theorem setL1_stale (s : State) (core line : Nat) (d : Cells Byte) :
    (s.setL1 core line d).stale = s.stale := rfl
@[simp] theorem setL1_tlb (s : State) (core line : Nat) (d : Cells Byte) : (s.setL1 core line d).tlb = s.tlb := rfl
@[simp] theorem setL1_basins (s : State) (core line : Nat) (d : Cells Byte) :
    (s.setL1 core line d).basins = s.basins := rfl
@[simp] theorem setL1_nextBasin (s : State) (core line : Nat) (d : Cells Byte) :
    (s.setL1 core line d).nextBasin = s.nextBasin := rfl
@[simp] theorem setL1_launches (s : State) (core line : Nat) (d : Cells Byte) :
    (s.setL1 core line d).launches = s.launches := rfl
@[simp] theorem setL1_writes (s : State) (core line : Nat) (d : Cells Byte) :
    (s.setL1 core line d).writes = s.writes := rfl
@[simp] theorem setL1_faults (s : State) (core line : Nat) (d : Cells Byte) :
    (s.setL1 core line d).faults = s.faults := rfl
@[simp] theorem setL1_pageReqs (s : State) (core line : Nat) (d : Cells Byte) :
    (s.setL1 core line d).pageReqs = s.pageReqs := rfl
@[simp] theorem setL1_copies (s : State) (core line : Nat) (d : Cells Byte) :
    (s.setL1 core line d).copies = s.copies := rfl
@[simp] theorem setL1_nextCopy (s : State) (core line : Nat) (d : Cells Byte) :
    (s.setL1 core line d).nextCopy = s.nextCopy := rfl
@[simp] theorem setL1_updates (s : State) (core line : Nat) (d : Cells Byte) :
    (s.setL1 core line d).updates = s.updates := rfl
@[simp] theorem setL1_rays (s : State) (core line : Nat) (d : Cells Byte) : (s.setL1 core line d).rays = s.rays := rfl
@[simp] theorem setL1_gens (s : State) (core line : Nat) (d : Cells Byte) : (s.setL1 core line d).gens = s.gens := rfl
@[simp] theorem setL1_answers (s : State) (core line : Nat) (d : Cells Byte) :
    (s.setL1 core line d).answers = s.answers := rfl
@[simp] theorem setL1_travs (s : State) (core line : Nat) (d : Cells Byte) :
    (s.setL1 core line d).travs = s.travs := rfl
@[simp] theorem setL1_arrivals (s : State) (core line : Nat) (d : Cells Byte) :
    (s.setL1 core line d).arrivals = s.arrivals := rfl
@[simp] theorem setL1_token (s : State) (core line : Nat) (d : Cells Byte) :
    (s.setL1 core line d).token = s.token := rfl
@[simp] theorem setL1_slotQ (s : State) (core line : Nat) (d : Cells Byte) :
    (s.setL1 core line d).slotQ = s.slotQ := rfl
@[simp] theorem setL1_spouts (s : State) (core line : Nat) (d : Cells Byte) :
    (s.setL1 core line d).spouts = s.spouts := rfl
@[simp] theorem setL1_wh (s : State) (core line : Nat) (d : Cells Byte) : (s.setL1 core line d).wh = s.wh := rfl
@[simp] theorem setL1_flash (s : State) (core line : Nat) (d : Cells Byte) :
    (s.setL1 core line d).flash = s.flash := rfl
@[simp] theorem setL1_ctl (s : State) (core line : Nat) (d : Cells Byte) : (s.setL1 core line d).ctl = s.ctl := rfl
@[simp] theorem setL1_errors (s : State) (core line : Nat) (d : Cells Byte) :
    (s.setL1 core line d).errors = s.errors := rfl
@[simp] theorem setL1_errorCount (s : State) (core line : Nat) (d : Cells Byte) :
    (s.setL1 core line d).errorCount = s.errorCount := rfl

/-! ### `dropL1Line` -/

@[simp] theorem dropL1Line_cur (s : State) (core line : Nat) : (s.dropL1Line core line).cur = s.cur := rfl
@[simp] theorem dropL1Line_tick (s : State) (core line : Nat) : (s.dropL1Line core line).tick = s.tick := rfl
@[simp] theorem dropL1Line_cycle (s : State) (core line : Nat) : (s.dropL1Line core line).cycle = s.cycle := rfl
@[simp] theorem dropL1Line_time (s : State) (core line : Nat) : (s.dropL1Line core line).time = s.time := rfl
@[simp] theorem dropL1Line_rest (s : State) (core line : Nat) : (s.dropL1Line core line).rest = s.rest := rfl
@[simp] theorem dropL1Line_agenda (s : State) (core line : Nat) : (s.dropL1Line core line).agenda = s.agenda := rfl
@[simp] theorem dropL1Line_foreign (s : State) (core line : Nat) : (s.dropL1Line core line).foreign = s.foreign := rfl
@[simp] theorem dropL1Line_mem (s : State) (core line : Nat) : (s.dropL1Line core line).mem = s.mem := rfl
@[simp] theorem dropL1Line_poison (s : State) (core line : Nat) : (s.dropL1Line core line).poison = s.poison := rfl
@[simp] theorem dropL1Line_latent (s : State) (core line : Nat) : (s.dropL1Line core line).latent = s.latent := rfl
@[simp] theorem dropL1Line_stale (s : State) (core line : Nat) : (s.dropL1Line core line).stale = s.stale := rfl
@[simp] theorem dropL1Line_tlb (s : State) (core line : Nat) : (s.dropL1Line core line).tlb = s.tlb := rfl
@[simp] theorem dropL1Line_basins (s : State) (core line : Nat) : (s.dropL1Line core line).basins = s.basins := rfl
@[simp] theorem dropL1Line_nextBasin (s : State) (core line : Nat) :
    (s.dropL1Line core line).nextBasin = s.nextBasin := rfl
@[simp] theorem dropL1Line_launches (s : State) (core line : Nat) :
    (s.dropL1Line core line).launches = s.launches := rfl
@[simp] theorem dropL1Line_writes (s : State) (core line : Nat) : (s.dropL1Line core line).writes = s.writes := rfl
@[simp] theorem dropL1Line_faults (s : State) (core line : Nat) : (s.dropL1Line core line).faults = s.faults := rfl
@[simp] theorem dropL1Line_pageReqs (s : State) (core line : Nat) :
    (s.dropL1Line core line).pageReqs = s.pageReqs := rfl
@[simp] theorem dropL1Line_copies (s : State) (core line : Nat) : (s.dropL1Line core line).copies = s.copies := rfl
@[simp] theorem dropL1Line_nextCopy (s : State) (core line : Nat) :
    (s.dropL1Line core line).nextCopy = s.nextCopy := rfl
@[simp] theorem dropL1Line_updates (s : State) (core line : Nat) : (s.dropL1Line core line).updates = s.updates := rfl
@[simp] theorem dropL1Line_rays (s : State) (core line : Nat) : (s.dropL1Line core line).rays = s.rays := rfl
@[simp] theorem dropL1Line_gens (s : State) (core line : Nat) : (s.dropL1Line core line).gens = s.gens := rfl
@[simp] theorem dropL1Line_answers (s : State) (core line : Nat) : (s.dropL1Line core line).answers = s.answers := rfl
@[simp] theorem dropL1Line_travs (s : State) (core line : Nat) : (s.dropL1Line core line).travs = s.travs := rfl
@[simp] theorem dropL1Line_arrivals (s : State) (core line : Nat) :
    (s.dropL1Line core line).arrivals = s.arrivals := rfl
@[simp] theorem dropL1Line_token (s : State) (core line : Nat) : (s.dropL1Line core line).token = s.token := rfl
@[simp] theorem dropL1Line_slotQ (s : State) (core line : Nat) : (s.dropL1Line core line).slotQ = s.slotQ := rfl
@[simp] theorem dropL1Line_spouts (s : State) (core line : Nat) : (s.dropL1Line core line).spouts = s.spouts := rfl
@[simp] theorem dropL1Line_wh (s : State) (core line : Nat) : (s.dropL1Line core line).wh = s.wh := rfl
@[simp] theorem dropL1Line_flash (s : State) (core line : Nat) : (s.dropL1Line core line).flash = s.flash := rfl
@[simp] theorem dropL1Line_ctl (s : State) (core line : Nat) : (s.dropL1Line core line).ctl = s.ctl := rfl
@[simp] theorem dropL1Line_errors (s : State) (core line : Nat) : (s.dropL1Line core line).errors = s.errors := rfl
@[simp] theorem dropL1Line_errorCount (s : State) (core line : Nat) :
    (s.dropL1Line core line).errorCount = s.errorCount := rfl

/-! ### `dropL1` -/

@[simp] theorem dropL1_cur (s : State) (core : Nat) : (s.dropL1 core).cur = s.cur := rfl
@[simp] theorem dropL1_tick (s : State) (core : Nat) : (s.dropL1 core).tick = s.tick := rfl
@[simp] theorem dropL1_cycle (s : State) (core : Nat) : (s.dropL1 core).cycle = s.cycle := rfl
@[simp] theorem dropL1_time (s : State) (core : Nat) : (s.dropL1 core).time = s.time := rfl
@[simp] theorem dropL1_rest (s : State) (core : Nat) : (s.dropL1 core).rest = s.rest := rfl
@[simp] theorem dropL1_agenda (s : State) (core : Nat) : (s.dropL1 core).agenda = s.agenda := rfl
@[simp] theorem dropL1_foreign (s : State) (core : Nat) : (s.dropL1 core).foreign = s.foreign := rfl
@[simp] theorem dropL1_mem (s : State) (core : Nat) : (s.dropL1 core).mem = s.mem := rfl
@[simp] theorem dropL1_poison (s : State) (core : Nat) : (s.dropL1 core).poison = s.poison := rfl
@[simp] theorem dropL1_latent (s : State) (core : Nat) : (s.dropL1 core).latent = s.latent := rfl
@[simp] theorem dropL1_stale (s : State) (core : Nat) : (s.dropL1 core).stale = s.stale := rfl
@[simp] theorem dropL1_l1 (s : State) (core : Nat) : (s.dropL1 core).l1 = s.l1.del core := rfl
@[simp] theorem dropL1_tlb (s : State) (core : Nat) : (s.dropL1 core).tlb = s.tlb := rfl
@[simp] theorem dropL1_basins (s : State) (core : Nat) : (s.dropL1 core).basins = s.basins := rfl
@[simp] theorem dropL1_nextBasin (s : State) (core : Nat) : (s.dropL1 core).nextBasin = s.nextBasin := rfl
@[simp] theorem dropL1_launches (s : State) (core : Nat) : (s.dropL1 core).launches = s.launches := rfl
@[simp] theorem dropL1_writes (s : State) (core : Nat) : (s.dropL1 core).writes = s.writes := rfl
@[simp] theorem dropL1_faults (s : State) (core : Nat) : (s.dropL1 core).faults = s.faults := rfl
@[simp] theorem dropL1_pageReqs (s : State) (core : Nat) : (s.dropL1 core).pageReqs = s.pageReqs := rfl
@[simp] theorem dropL1_copies (s : State) (core : Nat) : (s.dropL1 core).copies = s.copies := rfl
@[simp] theorem dropL1_nextCopy (s : State) (core : Nat) : (s.dropL1 core).nextCopy = s.nextCopy := rfl
@[simp] theorem dropL1_updates (s : State) (core : Nat) : (s.dropL1 core).updates = s.updates := rfl
@[simp] theorem dropL1_rays (s : State) (core : Nat) : (s.dropL1 core).rays = s.rays := rfl
@[simp] theorem dropL1_gens (s : State) (core : Nat) : (s.dropL1 core).gens = s.gens := rfl
@[simp] theorem dropL1_answers (s : State) (core : Nat) : (s.dropL1 core).answers = s.answers := rfl
@[simp] theorem dropL1_travs (s : State) (core : Nat) : (s.dropL1 core).travs = s.travs := rfl
@[simp] theorem dropL1_arrivals (s : State) (core : Nat) : (s.dropL1 core).arrivals = s.arrivals := rfl
@[simp] theorem dropL1_token (s : State) (core : Nat) : (s.dropL1 core).token = s.token := rfl
@[simp] theorem dropL1_slotQ (s : State) (core : Nat) : (s.dropL1 core).slotQ = s.slotQ := rfl
@[simp] theorem dropL1_spouts (s : State) (core : Nat) : (s.dropL1 core).spouts = s.spouts := rfl
@[simp] theorem dropL1_wh (s : State) (core : Nat) : (s.dropL1 core).wh = s.wh := rfl
@[simp] theorem dropL1_flash (s : State) (core : Nat) : (s.dropL1 core).flash = s.flash := rfl
@[simp] theorem dropL1_ctl (s : State) (core : Nat) : (s.dropL1 core).ctl = s.ctl := rfl
@[simp] theorem dropL1_errors (s : State) (core : Nat) : (s.dropL1 core).errors = s.errors := rfl
@[simp] theorem dropL1_errorCount (s : State) (core : Nat) : (s.dropL1 core).errorCount = s.errorCount := rfl

/-! ### `fillTlb` -/

@[simp] theorem fillTlb_cur (s : State) (x : TlbEntry) : (s.fillTlb x).cur = s.cur := rfl
@[simp] theorem fillTlb_tick (s : State) (x : TlbEntry) : (s.fillTlb x).tick = s.tick := rfl
@[simp] theorem fillTlb_cycle (s : State) (x : TlbEntry) : (s.fillTlb x).cycle = s.cycle := rfl
@[simp] theorem fillTlb_time (s : State) (x : TlbEntry) : (s.fillTlb x).time = s.time := rfl
@[simp] theorem fillTlb_rest (s : State) (x : TlbEntry) : (s.fillTlb x).rest = s.rest := rfl
@[simp] theorem fillTlb_agenda (s : State) (x : TlbEntry) : (s.fillTlb x).agenda = s.agenda := rfl
@[simp] theorem fillTlb_foreign (s : State) (x : TlbEntry) : (s.fillTlb x).foreign = s.foreign := rfl
@[simp] theorem fillTlb_mem (s : State) (x : TlbEntry) : (s.fillTlb x).mem = s.mem := rfl
@[simp] theorem fillTlb_poison (s : State) (x : TlbEntry) : (s.fillTlb x).poison = s.poison := rfl
@[simp] theorem fillTlb_latent (s : State) (x : TlbEntry) : (s.fillTlb x).latent = s.latent := rfl
@[simp] theorem fillTlb_stale (s : State) (x : TlbEntry) : (s.fillTlb x).stale = s.stale := rfl
@[simp] theorem fillTlb_l1 (s : State) (x : TlbEntry) : (s.fillTlb x).l1 = s.l1 := rfl
@[simp] theorem fillTlb_basins (s : State) (x : TlbEntry) : (s.fillTlb x).basins = s.basins := rfl
@[simp] theorem fillTlb_nextBasin (s : State) (x : TlbEntry) : (s.fillTlb x).nextBasin = s.nextBasin := rfl
@[simp] theorem fillTlb_launches (s : State) (x : TlbEntry) : (s.fillTlb x).launches = s.launches := rfl
@[simp] theorem fillTlb_writes (s : State) (x : TlbEntry) : (s.fillTlb x).writes = s.writes := rfl
@[simp] theorem fillTlb_faults (s : State) (x : TlbEntry) : (s.fillTlb x).faults = s.faults := rfl
@[simp] theorem fillTlb_pageReqs (s : State) (x : TlbEntry) : (s.fillTlb x).pageReqs = s.pageReqs := rfl
@[simp] theorem fillTlb_copies (s : State) (x : TlbEntry) : (s.fillTlb x).copies = s.copies := rfl
@[simp] theorem fillTlb_nextCopy (s : State) (x : TlbEntry) : (s.fillTlb x).nextCopy = s.nextCopy := rfl
@[simp] theorem fillTlb_updates (s : State) (x : TlbEntry) : (s.fillTlb x).updates = s.updates := rfl
@[simp] theorem fillTlb_rays (s : State) (x : TlbEntry) : (s.fillTlb x).rays = s.rays := rfl
@[simp] theorem fillTlb_gens (s : State) (x : TlbEntry) : (s.fillTlb x).gens = s.gens := rfl
@[simp] theorem fillTlb_answers (s : State) (x : TlbEntry) : (s.fillTlb x).answers = s.answers := rfl
@[simp] theorem fillTlb_travs (s : State) (x : TlbEntry) : (s.fillTlb x).travs = s.travs := rfl
@[simp] theorem fillTlb_arrivals (s : State) (x : TlbEntry) : (s.fillTlb x).arrivals = s.arrivals := rfl
@[simp] theorem fillTlb_token (s : State) (x : TlbEntry) : (s.fillTlb x).token = s.token := rfl
@[simp] theorem fillTlb_slotQ (s : State) (x : TlbEntry) : (s.fillTlb x).slotQ = s.slotQ := rfl
@[simp] theorem fillTlb_spouts (s : State) (x : TlbEntry) : (s.fillTlb x).spouts = s.spouts := rfl
@[simp] theorem fillTlb_wh (s : State) (x : TlbEntry) : (s.fillTlb x).wh = s.wh := rfl
@[simp] theorem fillTlb_flash (s : State) (x : TlbEntry) : (s.fillTlb x).flash = s.flash := rfl
@[simp] theorem fillTlb_ctl (s : State) (x : TlbEntry) : (s.fillTlb x).ctl = s.ctl := rfl
@[simp] theorem fillTlb_errors (s : State) (x : TlbEntry) : (s.fillTlb x).errors = s.errors := rfl
@[simp] theorem fillTlb_errorCount (s : State) (x : TlbEntry) : (s.fillTlb x).errorCount = s.errorCount := rfl

/-! ### `holdLine` -/

@[simp] theorem holdLine_cur (s : State) (pa : Nat) : (s.holdLine pa).cur = s.cur := rfl
@[simp] theorem holdLine_tick (s : State) (pa : Nat) : (s.holdLine pa).tick = s.tick := rfl
@[simp] theorem holdLine_cycle (s : State) (pa : Nat) : (s.holdLine pa).cycle = s.cycle := rfl
@[simp] theorem holdLine_time (s : State) (pa : Nat) : (s.holdLine pa).time = s.time := rfl
@[simp] theorem holdLine_rest (s : State) (pa : Nat) : (s.holdLine pa).rest = s.rest := rfl
@[simp] theorem holdLine_agenda (s : State) (pa : Nat) : (s.holdLine pa).agenda = s.agenda := rfl
@[simp] theorem holdLine_foreign (s : State) (pa : Nat) : (s.holdLine pa).foreign = s.foreign := rfl
@[simp] theorem holdLine_mem (s : State) (pa : Nat) : (s.holdLine pa).mem = s.mem := rfl
@[simp] theorem holdLine_poison (s : State) (pa : Nat) : (s.holdLine pa).poison = s.poison := rfl
@[simp] theorem holdLine_latent (s : State) (pa : Nat) : (s.holdLine pa).latent = s.latent := rfl
@[simp] theorem holdLine_stale (s : State) (pa : Nat) : (s.holdLine pa).stale = s.stale := rfl
@[simp] theorem holdLine_l1 (s : State) (pa : Nat) : (s.holdLine pa).l1 = s.l1 := rfl
@[simp] theorem holdLine_tlb (s : State) (pa : Nat) : (s.holdLine pa).tlb = s.tlb := rfl
@[simp] theorem holdLine_basins (s : State) (pa : Nat) : (s.holdLine pa).basins = s.basins := rfl
@[simp] theorem holdLine_nextBasin (s : State) (pa : Nat) : (s.holdLine pa).nextBasin = s.nextBasin := rfl
@[simp] theorem holdLine_launches (s : State) (pa : Nat) : (s.holdLine pa).launches = s.launches := rfl
@[simp] theorem holdLine_writes (s : State) (pa : Nat) : (s.holdLine pa).writes = s.writes := rfl
@[simp] theorem holdLine_faults (s : State) (pa : Nat) : (s.holdLine pa).faults = s.faults := rfl
@[simp] theorem holdLine_pageReqs (s : State) (pa : Nat) : (s.holdLine pa).pageReqs = s.pageReqs := rfl
@[simp] theorem holdLine_copies (s : State) (pa : Nat) : (s.holdLine pa).copies = s.copies := rfl
@[simp] theorem holdLine_nextCopy (s : State) (pa : Nat) : (s.holdLine pa).nextCopy = s.nextCopy := rfl
@[simp] theorem holdLine_updates (s : State) (pa : Nat) : (s.holdLine pa).updates = s.updates := rfl
@[simp] theorem holdLine_rays (s : State) (pa : Nat) : (s.holdLine pa).rays = s.rays := rfl
@[simp] theorem holdLine_gens (s : State) (pa : Nat) : (s.holdLine pa).gens = s.gens := rfl
@[simp] theorem holdLine_answers (s : State) (pa : Nat) : (s.holdLine pa).answers = s.answers := rfl
@[simp] theorem holdLine_travs (s : State) (pa : Nat) : (s.holdLine pa).travs = s.travs := rfl
@[simp] theorem holdLine_arrivals (s : State) (pa : Nat) : (s.holdLine pa).arrivals = s.arrivals := rfl
@[simp] theorem holdLine_slotQ (s : State) (pa : Nat) : (s.holdLine pa).slotQ = s.slotQ := rfl
@[simp] theorem holdLine_spouts (s : State) (pa : Nat) : (s.holdLine pa).spouts = s.spouts := rfl
@[simp] theorem holdLine_wh (s : State) (pa : Nat) : (s.holdLine pa).wh = s.wh := rfl
@[simp] theorem holdLine_flash (s : State) (pa : Nat) : (s.holdLine pa).flash = s.flash := rfl
@[simp] theorem holdLine_ctl (s : State) (pa : Nat) : (s.holdLine pa).ctl = s.ctl := rfl
@[simp] theorem holdLine_errors (s : State) (pa : Nat) : (s.holdLine pa).errors = s.errors := rfl
@[simp] theorem holdLine_errorCount (s : State) (pa : Nat) : (s.holdLine pa).errorCount = s.errorCount := rfl

/-! ### `publish` -/

@[simp] theorem publish_cur (s : State) : (s.publish).cur = s.cur := rfl
@[simp] theorem publish_tick (s : State) : (s.publish).tick = s.tick := rfl
@[simp] theorem publish_cycle (s : State) : (s.publish).cycle = s.cycle := rfl
@[simp] theorem publish_time (s : State) : (s.publish).time = s.time := rfl
@[simp] theorem publish_rest (s : State) : (s.publish).rest = s.rest := rfl
@[simp] theorem publish_agenda (s : State) : (s.publish).agenda = s.agenda := rfl
@[simp] theorem publish_foreign (s : State) : (s.publish).foreign = s.foreign := rfl
@[simp] theorem publish_mem (s : State) : (s.publish).mem = s.mem := rfl
@[simp] theorem publish_poison (s : State) : (s.publish).poison = s.poison := rfl
@[simp] theorem publish_latent (s : State) : (s.publish).latent = s.latent := rfl
@[simp] theorem publish_stale (s : State) : (s.publish).stale = s.stale := rfl
@[simp] theorem publish_l1 (s : State) : (s.publish).l1 = s.l1 := rfl
@[simp] theorem publish_tlb (s : State) : (s.publish).tlb = s.tlb := rfl
@[simp] theorem publish_basins (s : State) : (s.publish).basins = s.basins := rfl
@[simp] theorem publish_nextBasin (s : State) : (s.publish).nextBasin = s.nextBasin := rfl
@[simp] theorem publish_launches (s : State) : (s.publish).launches = s.launches := rfl
@[simp] theorem publish_writes (s : State) : (s.publish).writes = s.writes := rfl
@[simp] theorem publish_faults (s : State) : (s.publish).faults = s.faults := rfl
@[simp] theorem publish_pageReqs (s : State) : (s.publish).pageReqs = s.pageReqs := rfl
@[simp] theorem publish_copies (s : State) : (s.publish).copies = s.copies := rfl
@[simp] theorem publish_nextCopy (s : State) : (s.publish).nextCopy = s.nextCopy := rfl
@[simp] theorem publish_updates (s : State) : (s.publish).updates = s.updates := rfl
@[simp] theorem publish_rays (s : State) : (s.publish).rays = s.rays := rfl
@[simp] theorem publish_gens (s : State) : (s.publish).gens = s.gens := rfl
@[simp] theorem publish_answers (s : State) : (s.publish).answers = s.answers := rfl
@[simp] theorem publish_travs (s : State) : (s.publish).travs = s.travs := rfl
@[simp] theorem publish_arrivals (s : State) : (s.publish).arrivals = s.arrivals := rfl
@[simp] theorem publish_slotQ (s : State) : (s.publish).slotQ = s.slotQ := rfl
@[simp] theorem publish_spouts (s : State) : (s.publish).spouts = s.spouts := rfl
@[simp] theorem publish_wh (s : State) : (s.publish).wh = s.wh := rfl
@[simp] theorem publish_flash (s : State) : (s.publish).flash = s.flash := rfl
@[simp] theorem publish_ctl (s : State) : (s.publish).ctl = s.ctl := rfl
@[simp] theorem publish_errors (s : State) : (s.publish).errors = s.errors := rfl
@[simp] theorem publish_errorCount (s : State) : (s.publish).errorCount = s.errorCount := rfl

/-! ### `setSpout` -/

@[simp] theorem setSpout_cur (s : State) (core sp : Nat) (x : Spout) : (s.setSpout core sp x).cur = s.cur := rfl
@[simp] theorem setSpout_tick (s : State) (core sp : Nat) (x : Spout) : (s.setSpout core sp x).tick = s.tick := rfl
@[simp] theorem setSpout_cycle (s : State) (core sp : Nat) (x : Spout) : (s.setSpout core sp x).cycle = s.cycle := rfl
@[simp] theorem setSpout_time (s : State) (core sp : Nat) (x : Spout) : (s.setSpout core sp x).time = s.time := rfl
@[simp] theorem setSpout_rest (s : State) (core sp : Nat) (x : Spout) : (s.setSpout core sp x).rest = s.rest := rfl
@[simp] theorem setSpout_agenda (s : State) (core sp : Nat) (x : Spout) :
    (s.setSpout core sp x).agenda = s.agenda := rfl
@[simp] theorem setSpout_foreign (s : State) (core sp : Nat) (x : Spout) :
    (s.setSpout core sp x).foreign = s.foreign := rfl
@[simp] theorem setSpout_mem (s : State) (core sp : Nat) (x : Spout) : (s.setSpout core sp x).mem = s.mem := rfl
@[simp] theorem setSpout_poison (s : State) (core sp : Nat) (x : Spout) :
    (s.setSpout core sp x).poison = s.poison := rfl
@[simp] theorem setSpout_latent (s : State) (core sp : Nat) (x : Spout) :
    (s.setSpout core sp x).latent = s.latent := rfl
@[simp] theorem setSpout_stale (s : State) (core sp : Nat) (x : Spout) : (s.setSpout core sp x).stale = s.stale := rfl
@[simp] theorem setSpout_l1 (s : State) (core sp : Nat) (x : Spout) : (s.setSpout core sp x).l1 = s.l1 := rfl
@[simp] theorem setSpout_tlb (s : State) (core sp : Nat) (x : Spout) : (s.setSpout core sp x).tlb = s.tlb := rfl
@[simp] theorem setSpout_basins (s : State) (core sp : Nat) (x : Spout) :
    (s.setSpout core sp x).basins = s.basins := rfl
@[simp] theorem setSpout_nextBasin (s : State) (core sp : Nat) (x : Spout) :
    (s.setSpout core sp x).nextBasin = s.nextBasin := rfl
@[simp] theorem setSpout_launches (s : State) (core sp : Nat) (x : Spout) :
    (s.setSpout core sp x).launches = s.launches := rfl
@[simp] theorem setSpout_writes (s : State) (core sp : Nat) (x : Spout) :
    (s.setSpout core sp x).writes = s.writes := rfl
@[simp] theorem setSpout_faults (s : State) (core sp : Nat) (x : Spout) :
    (s.setSpout core sp x).faults = s.faults := rfl
@[simp] theorem setSpout_pageReqs (s : State) (core sp : Nat) (x : Spout) :
    (s.setSpout core sp x).pageReqs = s.pageReqs := rfl
@[simp] theorem setSpout_copies (s : State) (core sp : Nat) (x : Spout) :
    (s.setSpout core sp x).copies = s.copies := rfl
@[simp] theorem setSpout_nextCopy (s : State) (core sp : Nat) (x : Spout) :
    (s.setSpout core sp x).nextCopy = s.nextCopy := rfl
@[simp] theorem setSpout_updates (s : State) (core sp : Nat) (x : Spout) :
    (s.setSpout core sp x).updates = s.updates := rfl
@[simp] theorem setSpout_rays (s : State) (core sp : Nat) (x : Spout) : (s.setSpout core sp x).rays = s.rays := rfl
@[simp] theorem setSpout_gens (s : State) (core sp : Nat) (x : Spout) : (s.setSpout core sp x).gens = s.gens := rfl
@[simp] theorem setSpout_answers (s : State) (core sp : Nat) (x : Spout) :
    (s.setSpout core sp x).answers = s.answers := rfl
@[simp] theorem setSpout_travs (s : State) (core sp : Nat) (x : Spout) : (s.setSpout core sp x).travs = s.travs := rfl
@[simp] theorem setSpout_arrivals (s : State) (core sp : Nat) (x : Spout) :
    (s.setSpout core sp x).arrivals = s.arrivals := rfl
@[simp] theorem setSpout_token (s : State) (core sp : Nat) (x : Spout) : (s.setSpout core sp x).token = s.token := rfl
@[simp] theorem setSpout_slotQ (s : State) (core sp : Nat) (x : Spout) : (s.setSpout core sp x).slotQ = s.slotQ := rfl
@[simp] theorem setSpout_spouts (s : State) (core sp : Nat) (x : Spout) :
    (s.setSpout core sp x).spouts = s.spouts.put (spoutKey core sp) x := rfl
@[simp] theorem setSpout_wh (s : State) (core sp : Nat) (x : Spout) : (s.setSpout core sp x).wh = s.wh := rfl
@[simp] theorem setSpout_flash (s : State) (core sp : Nat) (x : Spout) : (s.setSpout core sp x).flash = s.flash := rfl
@[simp] theorem setSpout_ctl (s : State) (core sp : Nat) (x : Spout) : (s.setSpout core sp x).ctl = s.ctl := rfl
@[simp] theorem setSpout_errors (s : State) (core sp : Nat) (x : Spout) :
    (s.setSpout core sp x).errors = s.errors := rfl
@[simp] theorem setSpout_errorCount (s : State) (core sp : Nat) (x : Spout) :
    (s.setSpout core sp x).errorCount = s.errorCount := rfl

/-! ### `setQueue` -/

@[simp] theorem setQueue_cur (s : State) (c q : Nat) (x : Queue) : (s.setQueue c q x).cur = s.cur := rfl
@[simp] theorem setQueue_tick (s : State) (c q : Nat) (x : Queue) : (s.setQueue c q x).tick = s.tick := rfl
@[simp] theorem setQueue_cycle (s : State) (c q : Nat) (x : Queue) : (s.setQueue c q x).cycle = s.cycle := rfl
@[simp] theorem setQueue_time (s : State) (c q : Nat) (x : Queue) : (s.setQueue c q x).time = s.time := rfl
@[simp] theorem setQueue_rest (s : State) (c q : Nat) (x : Queue) : (s.setQueue c q x).rest = s.rest := rfl
@[simp] theorem setQueue_agenda (s : State) (c q : Nat) (x : Queue) : (s.setQueue c q x).agenda = s.agenda := rfl
@[simp] theorem setQueue_foreign (s : State) (c q : Nat) (x : Queue) : (s.setQueue c q x).foreign = s.foreign := rfl
@[simp] theorem setQueue_mem (s : State) (c q : Nat) (x : Queue) : (s.setQueue c q x).mem = s.mem := rfl
@[simp] theorem setQueue_poison (s : State) (c q : Nat) (x : Queue) : (s.setQueue c q x).poison = s.poison := rfl
@[simp] theorem setQueue_latent (s : State) (c q : Nat) (x : Queue) : (s.setQueue c q x).latent = s.latent := rfl
@[simp] theorem setQueue_stale (s : State) (c q : Nat) (x : Queue) : (s.setQueue c q x).stale = s.stale := rfl
@[simp] theorem setQueue_l1 (s : State) (c q : Nat) (x : Queue) : (s.setQueue c q x).l1 = s.l1 := rfl
@[simp] theorem setQueue_tlb (s : State) (c q : Nat) (x : Queue) : (s.setQueue c q x).tlb = s.tlb := rfl
@[simp] theorem setQueue_basins (s : State) (c q : Nat) (x : Queue) : (s.setQueue c q x).basins = s.basins := rfl
@[simp] theorem setQueue_nextBasin (s : State) (c q : Nat) (x : Queue) :
    (s.setQueue c q x).nextBasin = s.nextBasin := rfl
@[simp] theorem setQueue_launches (s : State) (c q : Nat) (x : Queue) :
    (s.setQueue c q x).launches = s.launches := rfl
@[simp] theorem setQueue_writes (s : State) (c q : Nat) (x : Queue) : (s.setQueue c q x).writes = s.writes := rfl
@[simp] theorem setQueue_faults (s : State) (c q : Nat) (x : Queue) : (s.setQueue c q x).faults = s.faults := rfl
@[simp] theorem setQueue_pageReqs (s : State) (c q : Nat) (x : Queue) :
    (s.setQueue c q x).pageReqs = s.pageReqs := rfl
@[simp] theorem setQueue_copies (s : State) (c q : Nat) (x : Queue) : (s.setQueue c q x).copies = s.copies := rfl
@[simp] theorem setQueue_nextCopy (s : State) (c q : Nat) (x : Queue) :
    (s.setQueue c q x).nextCopy = s.nextCopy := rfl
@[simp] theorem setQueue_updates (s : State) (c q : Nat) (x : Queue) : (s.setQueue c q x).updates = s.updates := rfl
@[simp] theorem setQueue_rays (s : State) (c q : Nat) (x : Queue) : (s.setQueue c q x).rays = s.rays := rfl
@[simp] theorem setQueue_gens (s : State) (c q : Nat) (x : Queue) : (s.setQueue c q x).gens = s.gens := rfl
@[simp] theorem setQueue_answers (s : State) (c q : Nat) (x : Queue) : (s.setQueue c q x).answers = s.answers := rfl
@[simp] theorem setQueue_travs (s : State) (c q : Nat) (x : Queue) : (s.setQueue c q x).travs = s.travs := rfl
@[simp] theorem setQueue_arrivals (s : State) (c q : Nat) (x : Queue) :
    (s.setQueue c q x).arrivals = s.arrivals := rfl
@[simp] theorem setQueue_token (s : State) (c q : Nat) (x : Queue) : (s.setQueue c q x).token = s.token := rfl
@[simp] theorem setQueue_slotQ (s : State) (c q : Nat) (x : Queue) : (s.setQueue c q x).slotQ = s.slotQ := rfl
@[simp] theorem setQueue_spouts (s : State) (c q : Nat) (x : Queue) : (s.setQueue c q x).spouts = s.spouts := rfl
@[simp] theorem setQueue_flash (s : State) (c q : Nat) (x : Queue) : (s.setQueue c q x).flash = s.flash := rfl
@[simp] theorem setQueue_ctl (s : State) (c q : Nat) (x : Queue) : (s.setQueue c q x).ctl = s.ctl := rfl
@[simp] theorem setQueue_errors (s : State) (c q : Nat) (x : Queue) : (s.setQueue c q x).errors = s.errors := rfl
@[simp] theorem setQueue_errorCount (s : State) (c q : Nat) (x : Queue) :
    (s.setQueue c q x).errorCount = s.errorCount := rfl

/-! ### `leaveQueues` -/

@[simp] theorem leaveQueues_cur (s : State) (b j : Nat) : (s.leaveQueues b j).cur = s.cur := rfl
@[simp] theorem leaveQueues_tick (s : State) (b j : Nat) : (s.leaveQueues b j).tick = s.tick := rfl
@[simp] theorem leaveQueues_cycle (s : State) (b j : Nat) : (s.leaveQueues b j).cycle = s.cycle := rfl
@[simp] theorem leaveQueues_time (s : State) (b j : Nat) : (s.leaveQueues b j).time = s.time := rfl
@[simp] theorem leaveQueues_rest (s : State) (b j : Nat) : (s.leaveQueues b j).rest = s.rest := rfl
@[simp] theorem leaveQueues_agenda (s : State) (b j : Nat) : (s.leaveQueues b j).agenda = s.agenda := rfl
@[simp] theorem leaveQueues_foreign (s : State) (b j : Nat) : (s.leaveQueues b j).foreign = s.foreign := rfl
@[simp] theorem leaveQueues_mem (s : State) (b j : Nat) : (s.leaveQueues b j).mem = s.mem := rfl
@[simp] theorem leaveQueues_poison (s : State) (b j : Nat) : (s.leaveQueues b j).poison = s.poison := rfl
@[simp] theorem leaveQueues_latent (s : State) (b j : Nat) : (s.leaveQueues b j).latent = s.latent := rfl
@[simp] theorem leaveQueues_stale (s : State) (b j : Nat) : (s.leaveQueues b j).stale = s.stale := rfl
@[simp] theorem leaveQueues_l1 (s : State) (b j : Nat) : (s.leaveQueues b j).l1 = s.l1 := rfl
@[simp] theorem leaveQueues_tlb (s : State) (b j : Nat) : (s.leaveQueues b j).tlb = s.tlb := rfl
@[simp] theorem leaveQueues_basins (s : State) (b j : Nat) : (s.leaveQueues b j).basins = s.basins := rfl
@[simp] theorem leaveQueues_nextBasin (s : State) (b j : Nat) : (s.leaveQueues b j).nextBasin = s.nextBasin := rfl
@[simp] theorem leaveQueues_launches (s : State) (b j : Nat) : (s.leaveQueues b j).launches = s.launches := rfl
@[simp] theorem leaveQueues_writes (s : State) (b j : Nat) : (s.leaveQueues b j).writes = s.writes := rfl
@[simp] theorem leaveQueues_faults (s : State) (b j : Nat) : (s.leaveQueues b j).faults = s.faults := rfl
@[simp] theorem leaveQueues_pageReqs (s : State) (b j : Nat) : (s.leaveQueues b j).pageReqs = s.pageReqs := rfl
@[simp] theorem leaveQueues_copies (s : State) (b j : Nat) : (s.leaveQueues b j).copies = s.copies := rfl
@[simp] theorem leaveQueues_nextCopy (s : State) (b j : Nat) : (s.leaveQueues b j).nextCopy = s.nextCopy := rfl
@[simp] theorem leaveQueues_updates (s : State) (b j : Nat) : (s.leaveQueues b j).updates = s.updates := rfl
@[simp] theorem leaveQueues_rays (s : State) (b j : Nat) : (s.leaveQueues b j).rays = s.rays := rfl
@[simp] theorem leaveQueues_gens (s : State) (b j : Nat) : (s.leaveQueues b j).gens = s.gens := rfl
@[simp] theorem leaveQueues_answers (s : State) (b j : Nat) : (s.leaveQueues b j).answers = s.answers := rfl
@[simp] theorem leaveQueues_travs (s : State) (b j : Nat) : (s.leaveQueues b j).travs = s.travs := rfl
@[simp] theorem leaveQueues_arrivals (s : State) (b j : Nat) : (s.leaveQueues b j).arrivals = s.arrivals := rfl
@[simp] theorem leaveQueues_spouts (s : State) (b j : Nat) : (s.leaveQueues b j).spouts = s.spouts := rfl
@[simp] theorem leaveQueues_wh (s : State) (b j : Nat) : (s.leaveQueues b j).wh = s.wh := rfl
@[simp] theorem leaveQueues_flash (s : State) (b j : Nat) : (s.leaveQueues b j).flash = s.flash := rfl
@[simp] theorem leaveQueues_ctl (s : State) (b j : Nat) : (s.leaveQueues b j).ctl = s.ctl := rfl
@[simp] theorem leaveQueues_errors (s : State) (b j : Nat) : (s.leaveQueues b j).errors = s.errors := rfl
@[simp] theorem leaveQueues_errorCount (s : State) (b j : Nat) : (s.leaveQueues b j).errorCount = s.errorCount := rfl

end Sys2Proof.Machine
end

