-- ==== Sys2Proof/Laws/Issue.lean ====
section
/-! SUPPORT. What the shared operations of an issue do: the checks of R100 in `State.issue`, one write per executing lane in
`State.laneOp`, one write per issue in `State.uniformOp`. -/

namespace Sys2Proof.Machine

variable {s : State} {o : Operands} {B : Basin} {J : Jet}

theorem put_put {β : Type} (c : Cells β) (k : Nat) (v v' : β) : (c.put k v).put k v' = c.put k v' := by
  induction c with
  | nil => simp [Cells.put]
  | cons e c ih =>
    obtain ⟨k', x⟩ := e
    simp only [Cells.put]
    split
    · simp [Cells.put]
    · split
      · simp [Cells.put]
      · simp [Cells.put, *]

theorem modify_eq_put {β : Type} {c : Cells β} {k : Nat} {v : β} (h : c.get? k = some v) (f : β → β) :
    c.modify k f = c.put k (f v) := by
  simp [Cells.modify, h]

/-- A named issue condition lets the instruction's own effect happen. -/
theorem issue_body (h : Issues s o B J) (body : Basin → Jet → State) : s.issue o body = body B J := by
  have hl := h.landed
  simp only [State.issue, State.basin?, h.basin, h.jet, h.allowed, h.registers, h.lanes, h.landed, h.operands, h.seen, if_false]
  simp

theorem withBasin_eq (h : s.basins.get? s.cur.basin = some B) (f : Basin → Basin) :
    s.withBasin s.cur.basin f = { s with basins := s.basins.put s.cur.basin (f B) } := by
  simp [State.withBasin, modify_eq_put h]

theorem withJet_eq (hB : s.basins.get? s.cur.basin = some B) (hJ : B.jets.get? s.cur.jet = some J) (f : Jet → Jet) :
    s.withJet s.cur.basin s.cur.jet f
      = { s with basins := s.basins.put s.cur.basin { B with jets := B.jets.put s.cur.jet (f J) } } := by
  simp [State.withJet, withBasin_eq hB, Basin.withJet, modify_eq_put hJ]

theorem narrowed_refl (l : List LongOp) : Narrowed l l := fun o h => ⟨o, h, rfl, Nat.le_refl _, fun _ h => h⟩

theorem narrowed_trans {a b c : List LongOp} (h : Narrowed a b) (h' : Narrowed b c) : Narrowed a c := by
  intro x hx
  obtain ⟨y, hy, ey, sy, dy⟩ := h' x hx
  obtain ⟨z, hz, ez, sz, dz⟩ := h y hy
  refine ⟨z, hz, ?_, Nat.le_trans sy sz, fun e he => dz e (dy e he)⟩
  rw [ey, ez]

theorem narrowed_discard (l : List LongOp) (f : Nat → Bool) (d : Dest) : Narrowed l (discard l f d) := by
  intro x hx
  obtain ⟨y, hy, e⟩ := List.mem_map.mp hx
  refine ⟨y, hy, ?_, ?_, ?_⟩ <;> subst e <;> split <;> simp +contextual

theorem narrowed_discardAll (l : List LongOp) (f : Nat → Bool) (ds : List Dest) : Narrowed l (discardAll l f ds) := by
  induction ds generalizing l with
  | nil => exact narrowed_refl l
  | cons d ds ih => exact narrowed_trans (narrowed_discard l f d) (ih _)

theorem narrowed_pass (l : List LongOp) (m : Lanes) (issue : Bool) :
    Narrowed l ((passShadows l m issue).filter fun o => !o.finished) := by
  intro x hx
  obtain ⟨y, hy, e⟩ := List.mem_map.mp (List.mem_filter.mp hx).1
  refine ⟨y, hy, ?_, ?_, ?_⟩ <;> subst e <;> split <;> simp

theorem touched_refl (q : List MatOp) : Touched q q := ⟨rfl, fun _ o h => ⟨o, h, rfl⟩⟩

theorem touched_touchRegs (q : List MatOp) (j : Nat) (f : Nat → Bool) (ws : List Nat) :
    Touched q (touchRegs q j f ws) := by
  refine ⟨by simp [touchRegs], fun k o' h => ?_⟩
  simp only [touchRegs, List.getElem?_map, Option.map_eq_some_iff] at h
  obtain ⟨o, ho, e⟩ := h
  exact ⟨o, ho, by subst e; split <;> rfl⟩

@[simp] theorem pass_word (t : Thread) (w : Nat) : t.pass.word w = t.word w := rfl
@[simp] theorem pass_pred (t : Thread) (p : Nat) : t.pass.pred p = t.pred p := rfl

theorem advanced_word (t : Thread) (g : Bool) (w : Nat) : (t.advanced g).word w = t.word w := by
  cases g <;> rfl

theorem advanced_pred (t : Thread) (g : Bool) (p : Nat) : (t.advanced g).pred p = t.pred p := by
  cases g <;> rfl

theorem get?_withLanes (J : Jet) (m : Lanes) (f : Nat → Thread → Thread) (l : Nat) :
    (J.withLanes m f).threads.get? l = (J.threads.get? l).map fun t => if m.getLsbD l then f l t else t := by
  simp [Jet.withLanes]

/-- The state after the issue's lane writes and its retirement. -/
theorem laneWrite_retire (hB : s.basins.get? s.cur.basin = some B) (hJ : B.jets.get? s.cur.jet = some J)
    (ws ps : List Nat) (f : Nat → Thread → Thread) :
    State.retire (s.withBasin s.cur.basin fun B => B.laneWrite s.cur.jet s.cur.exec ws ps f)
      = s.withIssued B
          { J with
            threads := ((J.withLanes s.cur.exec f).withLanes s.cur.group fun _ t => t.pass).threads
            longs := (passShadows (discardAll J.longs (fun l => s.cur.exec.getLsbD l)
              (ws.map Dest.word ++ ps.map Dest.pred)) s.cur.group (!s.cur.resumed)).filter fun o => !o.finished }
          (touchRegs B.matQ s.cur.jet (fun l => s.cur.exec.getLsbD l) ws)
          (touchRegs B.matDone s.cur.jet (fun l => s.cur.exec.getLsbD l) ws) := by
  rw [withBasin_eq hB, State.retire]
  simp [State.withJet, State.withBasin, Cells.modify, Basin.withJet, Basin.laneWrite, hJ, put_put, State.withIssued,
    Jet.retire, Jet.withLanes]

/-- One write per executing lane: `f` changes words and predicates only, to the values `words` and `preds` give. -/
theorem laneWrite_result (hB : s.basins.get? s.cur.basin = some B) (hJ : B.jets.get? s.cur.jet = some J)
    (ws ps : List Nat) (f : Nat → Thread → Thread) (words : Nat → Thread → List (Nat × Word))
    (preds : Nat → Thread → List (Nat × Bool))
    (hf : ∀ l T, f l T = { T with words := (f l T).words, preds := (f l T).preds })
    (hw : ∀ l T w, (f l T).word w = ((words l T).lookup w).getD (T.word w))
    (hp : ∀ l T p, p ≠ 0 → (f l T).pred p = ((preds l T).lookup p).getD (T.pred p)) :
    LaneResult s (State.retire (s.withBasin s.cur.basin fun B => B.laneWrite s.cur.jet s.cur.exec ws ps f)) B J words
      preds := by
  rw [laneWrite_retire hB hJ]
  have hthread : ∀ (K : Jet) (q d : List MatOp) (l : Nat),
      (s.withIssued B K q d).thread? s.cur.basin s.cur.jet l = K.threads.get? l := by
    intro K q d l
    simp [State.thread?, State.jet?, State.basin?, State.withIssued]
  refine ⟨⟨_, _, _, _, rfl, narrowed_trans (narrowed_discardAll _ _ _) (narrowed_pass _ _ _), touched_touchRegs _ _ _ _,
    touched_touchRegs _ _ _ _⟩, ?_, ?_⟩
  · intro l T hT
    rw [hthread]
    simp only [get?_withLanes, hT, Option.map_some]
    refine ⟨_, rfl, ?_, ?_, ?_⟩
    · obtain ⟨w0, p0, e⟩ : ∃ w0 p0, f l T = { T with words := w0, preds := p0 } := ⟨_, _, hf l T⟩
      rw [e]
      cases s.cur.group.getLsbD l <;> cases s.cur.exec.getLsbD l <;> rfl
    · intro w
      have h0 := hw l T w
      cases hg : s.cur.group.getLsbD l <;> cases hx : s.cur.exec.getLsbD l <;> simp [h0]
    · intro p
      by_cases hp0 : p = 0
      · subst hp0
        simp [Thread.pred]
      · have h0 := hp l T p hp0
        cases hg : s.cur.group.getLsbD l <;> cases hx : s.cur.exec.getLsbD l <;> simp [h0, hp0]
  · intro l hl
    rw [hthread]
    simp [get?_withLanes, hl]

/-- What a lane instruction leaves. -/
theorem laneOp_result (h : Issues s o B J) (ws ps : List Nat) (f : Jet → Nat → Thread → Thread)
    (words : Nat → Thread → List (Nat × Word)) (preds : Nat → Thread → List (Nat × Bool))
    (hf : ∀ l T, f J l T = { T with words := (f J l T).words, preds := (f J l T).preds })
    (hw : ∀ l T w, (f J l T).word w = ((words l T).lookup w).getD (T.word w))
    (hp : ∀ l T p, p ≠ 0 → (f J l T).pred p = ((preds l T).lookup p).getD (T.pred p)) :
    LaneResult s (s.laneOp o ws ps f) B J words preds := by
  rw [State.laneOp, issue_body h]
  exact laneWrite_result h.basin h.jet _ _ _ _ _ hf hw hp

@[simp] theorem setWord_word (t : Thread) (w : Nat) (v : Word) (x : Nat) :
    (t.setWord w v).word x = if x = w then v else t.word x := by
  by_cases h : x = w
  · subst h
    simp [Thread.setWord, Thread.word]
  · simp [Thread.setWord, Thread.word, get_put_ne _ _ _ h, h]

@[simp] theorem setWord_pred (t : Thread) (w : Nat) (v : Word) (p : Nat) : (t.setWord w v).pred p = t.pred p := rfl

@[simp] theorem setWord_preds (t : Thread) (w : Nat) (v : Word) : (t.setWord w v).preds = t.preds := rfl

theorem setBit16_getLsbD (m : BitVec 16) (i : Nat) (v : Bool) (p : Nat) :
    (setBit16 m i v).getLsbD p = if p = i ∧ p < 16 then v else m.getLsbD p := by
  by_cases hp : p < 16
  · by_cases hi : p = i
    · subst hi
      cases v <;> simp [setBit16, hp]
    · cases v <;> simp [setBit16, hp, hi]
  · have h1 : m.getLsbD p = false := BitVec.getLsbD_of_ge m p (by omega)
    have h2 : (setBit16 m i v).getLsbD p = false := BitVec.getLsbD_of_ge _ p (by omega)
    simp [h1, h2, hp]

theorem setPred_pred (t : Thread) {p : Nat} (hp : p < 16) (v : Bool) (x : Nat) (hx : x ≠ 0) :
    (t.setPred p v).pred x = if x = p then v else t.pred x := by
  unfold Thread.setPred
  split
  · subst p; simp [hx]
  · simp only [Thread.pred, setBit16_getLsbD, hx, decide_false, Bool.false_or]
    by_cases h : x = p
    · subst h; simp [hp]
    · simp [h]

@[simp] theorem setPred_word (t : Thread) (p : Nat) (v : Bool) (w : Nat) : (t.setPred p v).word w = t.word w := by
  unfold Thread.setPred
  split <;> rfl

@[simp] theorem setSreg_sreg (J : Jet) (r : Nat) (v : Word) (x : Nat) :
    (J.setSreg r v).sreg x = if x = r ∧ 8 ≤ r then v else J.sreg x := by
  unfold Jet.setSreg
  split
  · next h => simp [show ¬ 8 ≤ r by omega]
  · next h =>
    by_cases hx : x = r
    · subst hx; simp [Jet.sreg, show 8 ≤ x by omega]
    · simp [Jet.sreg, get_put_ne _ _ _ hx, hx]

/-- What a write of uniform registers leaves in the jet besides them. -/
theorem setSregs_frame (d : List (Nat × Word)) (J : Jet) :
    ∃ sregs longs, d.foldl (fun K e => K.setSreg e.1 e.2) J = { J with sregs := sregs, longs := longs }
      ∧ Narrowed J.longs longs := by
  induction d generalizing J with
  | nil => exact ⟨_, _, rfl, narrowed_refl _⟩
  | cons e d ih =>
    obtain ⟨r, v⟩ := e
    obtain ⟨s1, l1, h1, n1⟩ := ih (J.setSreg r v)
    simp only [List.foldl_cons, h1]
    unfold Jet.setSreg at n1 ⊢
    split
    · next hr => rw [if_pos hr] at n1; exact ⟨_, _, rfl, n1⟩
    · next hr => rw [if_neg hr] at n1; exact ⟨_, _, rfl, narrowed_trans (narrowed_discard J.longs (fun l => decide (l = 32)) (.ureg r)) n1⟩

/-- What a uniform instruction leaves: `regs` reads as the writes in their order do. -/
theorem uniformOp_result (h : Issues s o B J) (d : List (Nat × (Jet → Word))) (regs : List (Nat × Word))
    (hr : ∀ r, (d.foldl (fun K e => K.setSreg e.1 (e.2 J)) J).sreg r
      = if 8 ≤ r then (regs.lookup r).getD (J.sreg r) else J.sreg r) :
    UniformResult s (s.uniformOp o d) B J regs := by
  rw [State.uniformOp, issue_body h, withJet_eq h.basin h.jet]
  obtain ⟨s1, l1, e, n⟩ := setSregs_frame (d.map fun e => (e.1, e.2 J)) J
  rw [List.foldl_map] at e
  have hret : ∀ K : Jet,
      State.retire { s with basins := s.basins.put s.cur.basin { B with jets := B.jets.put s.cur.jet K } }
        = s.withIssued B (K.retire s.cur.group (!s.cur.resumed)) B.matQ B.matDone := by
    intro K
    simp [State.retire, State.withJet, State.withBasin, Cells.modify, Basin.withJet, put_put, State.withIssued]
  rw [hret, e]
  refine ⟨⟨_, s1, _, rfl, narrowed_trans n (narrowed_pass _ _ _)⟩, fun l => ?_, fun J' hJ' r => ?_⟩
  · simp [State.thread?, State.jet?, State.basin?, State.withIssued, Jet.retire, get?_withLanes]
    cases J.threads.get? l <;> rfl
  · simp [State.jet?, State.basin?, State.withIssued] at hJ'
    rw [← hr r, e, ← hJ']
    rfl

end Sys2Proof.Machine
end

