-- ==== Sys2Proof/Laws/Control.lean ====
section
/-! SUPPORT. What the shared operations of control do: sets of lanes, the mask test of R150, the moves of lanes, the
operations that only a lane outside transactions performs. -/

namespace Sys2Proof.Machine

theorem maskOf_foldl (l : List Nat) (m : Lanes) (k : Nat) (hk : k < 32) :
    (l.foldl (fun m k => m ||| laneBit k) m).getLsbD k = (m.getLsbD k || l.contains k) := by
  induction l generalizing m with
  | nil => simp
  | cons x l ih =>
    rw [List.foldl_cons, ih]
    by_cases h : x = k
    · subst h; simp [laneBit, hk]
    · simp [laneBit, BitVec.getLsbD_twoPow, h, Ne.symm h]

theorem getLsbD_maskOf (l : List Nat) (k : Nat) (hk : k < 32) : (maskOf l).getLsbD k = l.contains k := by
  simpa [maskOf] using maskOf_foldl l 0 k hk

theorem get?_mem {β : Type} {c : Cells β} {k : Nat} {v : β} (h : c.get? k = some v) : (k, v) ∈ c := by
  induction c with
  | nil => simp at h
  | cons e c ih =>
    obtain ⟨k', x⟩ := e
    simp only [Cells.get?] at h
    split at h
    · next he => subst he; cases h; simp
    · split at h
      · cases h
      · exact List.mem_cons_of_mem _ (ih h)

theorem mem_get? {β : Type} {lo : Option Nat} {c : Cells β} (hs : Cells.sortedFrom lo c = true) {k : Nat} {v : β}
    (h : (k, v) ∈ c) : c.get? k = some v := by
  induction c generalizing lo with
  | nil => simp at h
  | cons e c ih =>
    obtain ⟨k', x⟩ := e
    rcases List.mem_cons.mp h with h | h
    · cases h; simp [Cells.get?]
    · have ht : Cells.sortedFrom (some k') c = true := by
        simp only [Cells.sortedFrom, Bool.and_eq_true] at hs; exact hs.2
      have hg := ih ht h
      have hk : k' < k := by
        rcases Nat.lt_or_ge k' k with hlt | hge
        · exact hlt
        · rw [get?_below ht (j := k) (fun b hb => by cases hb; exact hge) (by simp)] at hg
          cases hg
      simp [Cells.get?, Nat.ne_of_lt hk, show ¬ k < k' by omega, hg]

/-- Which lanes satisfy a test, in a jet whose threads are listed in order. -/
theorem getLsbD_lanesWith {J : Jet} (h : J.Ordered) (f : Thread → Bool) (l : Nat) (hl : l < 32) :
    (J.lanesWith f).getLsbD l = ((J.threads.get? l).map f).getD false := by
  rw [Jet.lanesWith, getLsbD_maskOf _ _ hl]
  cases hg : J.threads.get? l with
  | none =>
    simp only [Option.map_none, Option.getD_none]
    rw [List.contains_eq_mem, decide_eq_false_iff_not]
    intro hm
    obtain ⟨e, he, rfl⟩ := List.mem_map.mp hm
    rw [mem_get? h.sorted (k := e.1) (v := e.2) (List.mem_filter.mp he).1] at hg
    cases hg
  | some T =>
    simp only [Option.map_some, Option.getD_some]
    cases hf : f T with
    | true =>
      rw [List.contains_eq_mem, decide_eq_true_eq]
      exact List.mem_map.mpr ⟨(l, T), List.mem_filter.mpr ⟨get?_mem hg, hf⟩, rfl⟩
    | false =>
      rw [List.contains_eq_mem, decide_eq_false_iff_not]
      intro hm
      obtain ⟨e, he, rfl⟩ := List.mem_map.mp hm
      have h1 := mem_get? h.sorted (k := e.1) (v := e.2) (List.mem_filter.mp he).1
      rw [hg] at h1
      cases h1
      exact absurd (List.mem_filter.mp he).2 (by simp [hf])

theorem sortedFrom_mapKeys {β : Type} {lo : Option Nat} (c : Cells β) (f : Nat → β → β) :
    Cells.sortedFrom lo (c.mapKeys f) = Cells.sortedFrom lo c := by
  induction c generalizing lo with
  | nil => rfl
  | cons e c ih =>
    obtain ⟨k, v⟩ := e
    simp only [Cells.mapKeys, Cells.sortedFrom]
    rw [ih]

theorem mem_mapKeys {β : Type} {c : Cells β} {f : Nat → β → β} {e : Nat × β} (h : e ∈ c.mapKeys f) :
    ∃ v, (e.1, v) ∈ c ∧ e.2 = f e.1 v := by
  induction c with
  | nil => simp [Cells.mapKeys] at h
  | cons x c ih =>
    obtain ⟨k, v⟩ := x
    rcases List.mem_cons.mp h with h | h
    · subst h; exact ⟨v, by simp, rfl⟩
    · obtain ⟨v', hm, he⟩ := ih h
      exact ⟨v', List.mem_cons_of_mem _ hm, he⟩

theorem ordered_withLanes {J : Jet} (h : J.Ordered) (m : Lanes) (f : Nat → Thread → Thread) : (J.withLanes m f).Ordered :=
  ⟨by simpa [Jet.withLanes, sortedFrom_mapKeys] using h.sorted, fun e he => by
    obtain ⟨v, hm, _⟩ := mem_mapKeys he
    exact h.lanes (e.1, v) hm⟩

theorem get?_moveOn (J : Jet) (m : Lanes) (l : Nat) :
    (J.moveOn m).threads.get? l = (J.threads.get? l).map fun t => if m.getLsbD l then t.pass else t :=
  get?_withLanes J m _ l

theorem ordered_moveOn {J : Jet} (h : J.Ordered) (m : Lanes) : (J.moveOn m).Ordered := by
  have := ordered_withLanes h m (fun _ t => t.pass)
  exact ⟨this.sorted, this.lanes⟩

/-- The threads blocked on a mask. -/
def Jet.blockedOn (J : Jet) (m : Nat) : Lanes := J.lanesWith fun t => decide (t.wait = .mask m)

/-- A thread after the mask tests of the masks below `n`. -/
def Thread.tested (J : Jet) (n : Nat) (t : Thread) : Thread :=
  match t.wait with
  | .mask k => if k < n ∧ J.mask k &&& ~~~ J.blockedOn k = 0 then t.pass else t
  | _ => t

theorem testMask_masks (J : Jet) (m : Nat) : (J.testMask m).masks = J.masks := by
  unfold Jet.testMask; simp only; split <;> rfl

theorem tested_wait (J : Jet) (n : Nat) (t : Thread) (m : Nat) (hm : n ≤ m) :
    decide ((t.tested J n).wait = .mask m) = decide (t.wait = .mask m) := by
  unfold Thread.tested
  split
  · next k hk =>
    split
    · next h => rw [hk]; simp [Thread.pass]; omega
    · rfl
  · rfl

theorem tested_succ (J : Jet) (n : Nat) (t : Thread) :
    t.tested J (n + 1)
      = if t.wait = .mask n ∧ J.mask n &&& ~~~ J.blockedOn n = 0 then (t.tested J n).pass else t.tested J n := by
  unfold Thread.tested
  cases hw : t.wait with
  | mask k =>
    by_cases hk : k = n
    · subst hk; simp
    · simp [hk, show (k < n + 1) ↔ (k < n) by omega]
  | _ => simp

theorem ordered_testMask {J : Jet} (h : J.Ordered) (m : Nat) : (J.testMask m).Ordered := by
  unfold Jet.testMask
  simp only
  split
  · exact ordered_moveOn h _
  · exact h

/-- The mask tests of R150 release exactly the threads that are blocked on a complete mask. -/
theorem testMasks_below {J : Jet} (h : J.Ordered) (n : Nat) :
    let K := (List.range n).foldl (fun J m => J.testMask m) J
    K.Ordered ∧ K.masks = J.masks ∧ ∀ l, K.threads.get? l = (J.threads.get? l).map (Thread.tested J n) := by
  induction n with
  | zero =>
    refine ⟨h, rfl, fun l => ?_⟩
    simp only [List.range_zero, List.foldl_nil]
    cases J.threads.get? l with
    | none => rfl
    | some t =>
      simp only [Option.map_some, Thread.tested, Option.some.injEq]
      split <;> simp
  | succ n ih =>
    rw [List.range_succ, List.foldl_append]
    simp only [List.foldl_cons, List.foldl_nil] at ih ⊢
    generalize (List.range n).foldl (fun J m => J.testMask m) J = K at ih ⊢
    obtain ⟨hK, hm, ht⟩ := ih
    have hb : (K.lanesWith fun t => decide (t.wait = .mask n)) = J.blockedOn n := by
      apply BitVec.eq_of_getLsbD_eq
      intro l hl
      rw [Jet.blockedOn, getLsbD_lanesWith hK _ _ hl, getLsbD_lanesWith h _ _ hl, ht]
      cases J.threads.get? l with
      | none => rfl
      | some t => simp [tested_wait J n t n (Nat.le_refl _)]
    have hmask : K.mask n = J.mask n := by rw [Jet.mask, Jet.mask, hm]
    refine ⟨ordered_testMask hK n, by rw [testMask_masks, hm], fun l => ?_⟩
    unfold Jet.testMask
    simp only [hb, hmask]
    split
    · next hc =>
      rw [get?_moveOn, ht]
      cases hg : J.threads.get? l with
      | none => rfl
      | some t =>
        have hl : l < 32 := h.lanes _ (get?_mem hg)
        have hbit := getLsbD_lanesWith h (fun t => decide (t.wait = .mask n)) l hl
        rw [← Jet.blockedOn, hg] at hbit
        simp only [Option.map_some, Option.getD_some] at hbit ⊢
        rw [hbit, tested_succ]
        simp [hc.2]
    · next hc =>
      rw [ht]
      cases hg : J.threads.get? l with
      | none => rfl
      | some t =>
        have hl : l < 32 := h.lanes _ (get?_mem hg)
        simp only [Option.map_some]
        rw [tested_succ, if_neg]
        rintro ⟨hw, h0⟩
        refine hc ⟨fun hz => ?_, h0⟩
        have hbit := getLsbD_lanesWith h (fun t => decide (t.wait = .mask n)) l hl
        rw [← Jet.blockedOn, hg, hz] at hbit
        simp [hw] at hbit

theorem testMasks_spec {J : Jet} (h : J.Ordered) :
    J.testMasks.Ordered ∧ J.testMasks.masks = J.masks
      ∧ ∀ l, J.testMasks.threads.get? l = (J.threads.get? l).map (Thread.tested J 12) := testMasks_below h 12

@[simp] theorem convdead_threads (J : Jet) (now : Nat) : (J.convdead now).threads = J.threads := by
  unfold Jet.convdead; simp only; split <;> rfl

@[simp] theorem convdead_masks (J : Jet) (now : Nat) : (J.convdead now).masks = J.masks := by
  unfold Jet.convdead; simp only; split <;> rfl

/-- With no transactional lane an instruction of the first row of Table 15.2 simply goes on (R255). -/
theorem unsupp_body {s : State} {B : Basin} {J : Jet} (hB : s.basins.get? s.cur.basin = some B)
    (hJ : B.jets.get? s.cur.jet = some J) (hx : s.cur.exec ≠ 0) (h : NoTransaction s J) (body : State → State) :
    s.unsupp body = body s := by
  have h0 : s.cur.exec &&& J.lanesWith Thread.inTx = 0 := by
    apply BitVec.eq_of_getLsbD_eq
    intro l hl
    rw [BitVec.getLsbD_and, Jet.lanesWith, getLsbD_maskOf _ _ hl]
    cases hc : s.cur.exec.getLsbD l with
    | false => simp
    | true =>
      rw [List.contains_eq_mem]
      rw [show (0 : Lanes).getLsbD l = false by simp, Bool.true_and, decide_eq_false_iff_not]
      intro hm
      obtain ⟨e, he, rfl⟩ := List.mem_map.mp hm
      have := h e.1 e.2 (List.mem_filter.mp he).1 hc
      rw [(List.mem_filter.mp he).2] at this
      cases this
  have hd : s.dropTx = s := by
    simp [State.dropTx, State.jet?, State.basin?, hB, hJ, h0]
  simp only [State.unsupp, hd, if_neg hx]

end Sys2Proof.Machine
end

