-- ==== Sys2Proof/Laws/Encoding.lean ====
section
/-! SUPPORT. Field by field laws of the encoding: what each field of a word built from its fields reads, and that every
code is read back. -/

namespace Sys2Proof

theorem extract_low {v w n : Nat} (s : Nat) (h : BitVec v) (l : BitVec w) (hs : s + n ≤ w) :
    BitVec.extractLsb' s n (h ++ l) = BitVec.extractLsb' s n l := BitVec.extractLsb'_append_eq_of_add_le hs

theorem extract_high {v w n : Nat} (s : Nat) (h : BitVec v) (l : BitVec w) (hs : w ≤ s) :
    BitVec.extractLsb' s n (h ++ l) = BitVec.extractLsb' (s - w) n h := BitVec.extractLsb'_append_eq_of_le hs

theorem extract_all {v : Nat} (b : BitVec v) : BitVec.extractLsb' 0 v b = b := BitVec.extractLsb'_eq_self

@[simp] theorem fieldOp_wordRRR (op d a b : BitVec 7) (x : BitVec 4) : fieldOp (wordRRR op d a b x) = op :=
  (extract_high 25 (op ++ d ++ a ++ b) x (by decide)).trans <|
  (extract_high 21 (op ++ d ++ a) b (by decide)).trans <|
  (extract_high 14 (op ++ d) a (by decide)).trans <|
  (extract_high 7 (op) d (by decide)).trans <|
  extract_all op

@[simp] theorem fieldD_wordRRR (op d a b : BitVec 7) (x : BitVec 4) : fieldD (wordRRR op d a b x) = d :=
  (extract_high 18 (op ++ d ++ a ++ b) x (by decide)).trans <|
  (extract_high 14 (op ++ d ++ a) b (by decide)).trans <|
  (extract_high 7 (op ++ d) a (by decide)).trans <|
  (extract_low 0 (op) d (by decide)).trans <|
  extract_all d

@[simp] theorem fieldA_wordRRR (op d a b : BitVec 7) (x : BitVec 4) : fieldA (wordRRR op d a b x) = a :=
  (extract_high 11 (op ++ d ++ a ++ b) x (by decide)).trans <|
  (extract_high 7 (op ++ d ++ a) b (by decide)).trans <|
  (extract_low 0 (op ++ d) a (by decide)).trans <|
  extract_all a

@[simp] theorem fieldB_wordRRR (op d a b : BitVec 7) (x : BitVec 4) : fieldB (wordRRR op d a b x) = b :=
  (extract_high 4 (op ++ d ++ a ++ b) x (by decide)).trans <|
  (extract_low 0 (op ++ d ++ a) b (by decide)).trans <|
  extract_all b

@[simp] theorem fieldX_wordRRR (op d a b : BitVec 7) (x : BitVec 4) : fieldX (wordRRR op d a b x) = x :=
  (extract_low 0 (op ++ d ++ a ++ b) x (by decide)).trans <|
  extract_all x

@[simp] theorem fieldOp_wordRI (op d a : BitVec 7) (imm : BitVec 11) : fieldOp (wordRI op d a imm) = op :=
  (extract_high 25 (op ++ d ++ a) imm (by decide)).trans <|
  (extract_high 14 (op ++ d) a (by decide)).trans <|
  (extract_high 7 (op) d (by decide)).trans <|
  extract_all op

@[simp] theorem fieldD_wordRI (op d a : BitVec 7) (imm : BitVec 11) : fieldD (wordRI op d a imm) = d :=
  (extract_high 18 (op ++ d ++ a) imm (by decide)).trans <|
  (extract_high 7 (op ++ d) a (by decide)).trans <|
  (extract_low 0 (op) d (by decide)).trans <|
  extract_all d

@[simp] theorem fieldA_wordRI (op d a : BitVec 7) (imm : BitVec 11) : fieldA (wordRI op d a imm) = a :=
  (extract_high 11 (op ++ d ++ a) imm (by decide)).trans <|
  (extract_low 0 (op ++ d) a (by decide)).trans <|
  extract_all a

@[simp] theorem fieldImm11_wordRI (op d a : BitVec 7) (imm : BitVec 11) : fieldImm11 (wordRI op d a imm) = imm :=
  (extract_low 0 (op ++ d ++ a) imm (by decide)).trans <|
  extract_all imm

@[simp] theorem fieldOp_wordI18 (op d : BitVec 7) (imm : BitVec 18) : fieldOp (wordI18 op d imm) = op :=
  (extract_high 25 (op ++ d) imm (by decide)).trans <|
  (extract_high 7 (op) d (by decide)).trans <|
  extract_all op

@[simp] theorem fieldD_wordI18 (op d : BitVec 7) (imm : BitVec 18) : fieldD (wordI18 op d imm) = d :=
  (extract_high 18 (op ++ d) imm (by decide)).trans <|
  (extract_low 0 (op) d (by decide)).trans <|
  extract_all d

@[simp] theorem fieldImm18_wordI18 (op d : BitVec 7) (imm : BitVec 18) : fieldImm18 (wordI18 op d imm) = imm :=
  (extract_low 0 (op ++ d) imm (by decide)).trans <|
  extract_all imm

@[simp] theorem fieldOp_wordJ25 (op : BitVec 7) (off : BitVec 25) : fieldOp (wordJ25 op off) = op :=
  (extract_high 25 (op) off (by decide)).trans <|
  extract_all op

@[simp] theorem fieldOff25_wordJ25 (op : BitVec 7) (off : BitVec 25) : fieldOff25 (wordJ25 op off) = off :=
  (extract_low 0 (op) off (by decide)).trans <|
  extract_all off

@[simp] theorem low_2_2 (a : BitVec 2) (b : BitVec 2) : BitVec.extractLsb' 0 2 (a ++ b) = b :=
  (extract_low 0 a b (by decide)).trans (extract_all b)

@[simp] theorem high_2_2 (a : BitVec 2) (b : BitVec 2) : BitVec.extractLsb' 2 2 (a ++ b) = a :=
  (extract_high 2 a b (by decide)).trans (extract_all a)

@[simp] theorem low_1_3 (a : BitVec 1) (b : BitVec 3) : BitVec.extractLsb' 0 3 (a ++ b) = b :=
  (extract_low 0 a b (by decide)).trans (extract_all b)

@[simp] theorem low_2_5 (a : BitVec 2) (b : BitVec 5) : BitVec.extractLsb' 0 5 (a ++ b) = b :=
  (extract_low 0 a b (by decide)).trans (extract_all b)

@[simp] theorem low_2_16 (a : BitVec 2) (b : BitVec 16) : BitVec.extractLsb' 0 16 (a ++ b) = b :=
  (extract_low 0 a b (by decide)).trans (extract_all b)

@[simp] theorem high_2_16 (a : BitVec 2) (b : BitVec 16) : BitVec.extractLsb' 16 2 (a ++ b) = a :=
  (extract_high 16 a b (by decide)).trans (extract_all a)

@[simp] theorem high_3_4 (a : BitVec 3) (b : BitVec 4) : BitVec.extractLsb' 4 3 (a ++ b) = a :=
  (extract_high 4 a b (by decide)).trans (extract_all a)

@[simp] theorem atomField_op (a : BitVec 3) (b c : BitVec 2) : BitVec.extractLsb' 4 3 (atomField a b c) = a :=
  (extract_high 4 a (b ++ c) (by decide)).trans (extract_all a)

@[simp] theorem atomField_scope (a : BitVec 3) (b c : BitVec 2) : BitVec.extractLsb' 2 2 (atomField a b c) = b :=
  (extract_low 2 a (b ++ c) (by decide)).trans <| (extract_high 2 b c (by decide)).trans (extract_all b)

@[simp] theorem atomField_order (a : BitVec 3) (b c : BitVec 2) : BitVec.extractLsb' 0 2 (atomField a b c) = c :=
  (extract_low 0 a (b ++ c) (by decide)).trans <| (extract_low 0 b c (by decide)).trans (extract_all c)

@[simp] theorem prefField_level (b : Bool) : (prefField b)[2] = b := by cases b <;> rfl

@[simp] theorem branchField_neg (b : Bool) (p : BitVec 4) : (branchField b p)[4] = b := by
  revert p; cases b <;> decide

@[simp] theorem branchField_pred (b : Bool) (p : BitVec 4) : BitVec.extractLsb' 0 4 (branchField b p) = p := by
  revert p; cases b <;> decide

@[simp] theorem cvtField_sat (b : Bool) (c : BitVec 2) : (cvtField b c)[3] = b := by revert c; cases b <;> decide

@[simp] theorem cvtField_rm (b : Bool) (c : BitVec 2) : BitVec.extractLsb' 0 2 (cvtField b c) = c := by
  revert c; cases b <;> decide

@[simp] theorem ofFlag4_flag4 (b : Bool) : ofFlag4 (flag4 b) = some b := by cases b <;> rfl
@[simp] theorem ofFlag7_flag7 (b : Bool) : ofFlag7 (flag7 b) = some b := by cases b <;> rfl
@[simp] theorem Sign.ofCode_code (s : Sign) : Sign.ofCode (Sign.code s) = some s := by cases s <;> rfl
@[simp] theorem Sign.ofMinCode_minCode (s : Sign) : Sign.ofMinCode (Sign.minCode s) = some s := by cases s <;> rfl

@[simp] theorem AddForm.ofCode_code (c : AddForm) : AddForm.ofCode (AddForm.code c) = some c := by cases c <;> rfl
@[simp] theorem MadForm.ofCode_code (c : MadForm) : MadForm.ofCode (MadForm.code c) = some c := by cases c <;> rfl
@[simp] theorem Cc.ofCode_code (c : Cc) : Cc.ofCode (Cc.code c) = some c := by cases c <;> rfl
@[simp] theorem Fcc.ofCode_code (c : Fcc) : Fcc.ofCode (Fcc.code c) = some c := by cases c <;> rfl
@[simp] theorem FTy.ofCode_code (c : FTy) : FTy.ofCode (FTy.code c) = some c := by cases c <;> rfl
@[simp] theorem Rm.ofCode_code (c : Rm) : Rm.ofCode (Rm.code c) = some c := by cases c <;> rfl
@[simp] theorem CvtCode.ofCode_code (c : CvtCode) : CvtCode.ofCode (CvtCode.code c) = some c := by cases c <;> rfl
@[simp] theorem PackForm.ofCode_code (c : PackForm) : PackForm.ofCode (PackForm.code c) = some c := by cases c <;> rfl
@[simp] theorem UnpkForm.ofCode_code (c : UnpkForm) : UnpkForm.ofCode (UnpkForm.code c) = some c := by cases c <;> rfl
@[simp] theorem SmulForm.ofCode_code (c : SmulForm) : SmulForm.ofCode (SmulForm.code c) = some c := by cases c <;> rfl
@[simp] theorem SlogForm.ofCode_code (c : SlogForm) : SlogForm.ofCode (SlogForm.code c) = some c := by cases c <;> rfl
@[simp] theorem SshfForm.ofCode_code (c : SshfForm) : SshfForm.ofCode (SshfForm.code c) = some c := by cases c <;> rfl
@[simp] theorem RedOp.ofCode_code (c : RedOp) : RedOp.ofCode (RedOp.code c) = some c := by cases c <;> rfl
@[simp] theorem PlogForm.ofCode_code (c : PlogForm) : PlogForm.ofCode (PlogForm.code c) = some c := by cases c <;> rfl
@[simp] theorem IdForm.ofCode_code (c : IdForm) : IdForm.ofCode (IdForm.code c) = some c := by cases c <;> rfl
@[simp] theorem Size.ofCode_code (c : Size) : Size.ofCode (Size.code c) = some c := by cases c <;> rfl
@[simp] theorem Scope.ofCode_code (c : Scope) : Scope.ofCode (Scope.code c) = some c := by cases c <;> rfl
@[simp] theorem MemOrder.ofCode_code (c : MemOrder) : MemOrder.ofCode (MemOrder.code c) = some c := by cases c <;> rfl
@[simp] theorem AtomOp.ofCode_code (c : AtomOp) : AtomOp.ofCode (AtomOp.code c) = some c := by cases c <;> rfl
@[simp] theorem Space.ofCode_code (c : Space) : Space.ofCode (Space.code c) = some c := by cases c <;> rfl
@[simp] theorem RsvField.ofCode_code (c : RsvField) : RsvField.ofCode (RsvField.code c) = some c := by cases c <;> rfl

end Sys2Proof
end

