-- ==== Sys2Proof/Laws/Memory.lean ====
section
/-! SUPPORT. Memory: every operation on it keeps its canonical form, what the basic writes leave, and the same of the bytes of
the control space. -/

namespace Sys2Proof.Machine

theorem wf_foldl {α : Type} {f : State → α → State} (hf : ∀ s a, Memory.wf s.mem = true → Memory.wf (f s a).mem = true)
    (l : List α) {s : State} (h : Memory.wf s.mem = true) : Memory.wf (l.foldl f s).mem = true := by
  induction l generalizing s with
  | nil => exact h
  | cons a l ih => exact ih (hf s a h)

theorem mem_foldl {α : Type} {f : State → α → State} (hf : ∀ s a, (f s a).mem = s.mem) (l : List α) (s : State) :
    (l.foldl f s).mem = s.mem := by
  induction l generalizing s with
  | nil => rfl
  | cons a l ih => exact (ih _).trans (hf s a)

theorem wf_ite (c : Prop) [Decidable c] {x y : State} (hx : Memory.wf x.mem = true) (hy : Memory.wf y.mem = true) :
    Memory.wf (if c then x else y).mem = true := by
  split <;> assumption

theorem wf_ite_pair {β : Type} (c : Prop) [Decidable c] {x y : State × β} (hx : Memory.wf x.1.mem = true)
    (hy : Memory.wf y.1.mem = true) : Memory.wf (if c then x else y).1.mem = true := by
  split <;> assumption

/-! ### The canonical form -/

theorem reset_mem_wf : Memory.wf State.reset.mem = true := by decide

theorem poke_wf {s : State} (h : Memory.wf s.mem = true) (pa : Nat) (v : Byte) : Memory.wf (s.poke pa v).mem = true :=
  wf_set h pa v

theorem pokeNat_wf {s : State} (h : Memory.wf s.mem = true) (pa v n : Nat) : Memory.wf (s.pokeNat pa v n).mem = true := by
  induction n generalizing s pa v with
  | zero => exact h
  | succ n ih => exact ih (poke_wf h pa _) _ _

theorem pokeBytes_wf {s : State} (h : Memory.wf s.mem = true) (pa : Nat) (l : List Byte) :
    Memory.wf (s.pokeBytes pa l).mem = true := by
  induction l generalizing s pa with
  | nil => exact h
  | cons b l ih => exact ih (poke_wf h pa b) _

theorem scrub_mem (s : State) (ctx g : Nat) : (s.scrub ctx g).mem = s.mem := by
  unfold State.scrub
  split <;> rfl

theorem homeCheck_mem (s : State) (pa n ctx : Nat) : (s.homeCheck pa n ctx).1.mem = s.mem :=
  mem_foldl (fun s g => scrub_mem s ctx g) _ _

theorem keepOld_mem (s : State) (base : Nat) (data : Cells Byte) : (s.keepOld base data).mem = s.mem := by
  unfold State.keepOld
  split <;> rfl

theorem pokes_wf {s : State} (h : Memory.wf s.mem = true) (base : Nat) (data : Cells Byte) :
    Memory.wf (data.foldl (fun (s : State) (e : Nat × Byte) => s.poke (base + e.1) e.2) s).mem = true :=
  wf_foldl (fun _ e h => poke_wf h (base + e.1) e.2) data h

theorem writeGranule_wf {s : State} (h : Memory.wf s.mem = true) (base : Nat) (data : Cells Byte) (g ctx : Nat) :
    Memory.wf (s.writeGranule base data g ctx).1.mem = true := by
  have h2 : Memory.wf ({ s with poison := removeKey s.poison g, latent := removeKey s.latent g } : State).mem = true := h
  generalize hp : ({ s with poison := removeKey s.poison g, latent := removeKey s.latent g } : State) = s2 at h2
  unfold State.writeGranule
  simp only [hp]
  split
  · exact pokes_wf h base _
  · split
    · exact pokes_wf h2 base _
    · split
      · exact h
      · split
        · exact h
        · exact pokes_wf h base _

/-! ### The control space -/

@[simp] theorem setCtl_mem (s : State) (off v n : Nat) : (s.setCtl off v n).mem = s.mem := by
  induction n generalizing s off v with
  | zero => rfl
  | succ n ih => exact ih _ _ _

@[simp] theorem setCtlBytes_mem (s : State) (off : Nat) (l : List Byte) : (s.setCtlBytes off l).mem = s.mem := by
  induction l generalizing s off with
  | nil => rfl
  | cons b l ih => exact ih _ _

@[simp] theorem putMasked_mem (s : State) (base : Nat) (mask : Nat → Byte) (data : Cells Byte) :
    (s.putMasked base mask data).mem = s.mem := mem_foldl (fun s (e : Nat × Byte) => setCtl8_mem s (base + e.1) (e.2 &&& mask e.1)) _ _

theorem writeContext_mem (s : State) (c : Nat) (data : Cells Byte) : (s.writeContext c data).mem = s.mem := by
  unfold State.writeContext
  dsimp only
  repeat' split
  all_goals first
    | rfl
    | exact putMasked_mem ..

theorem writeQueue_mem (s : State) (c q : Nat) (data : Cells Byte) : (s.writeQueue c q data).mem = s.mem := by
  unfold State.writeQueue
  dsimp only
  repeat' split
  all_goals first
    | rfl
    | exact putMasked_mem ..

theorem writeMailbox_mem (s : State) (data : Cells Byte) : (s.writeMailbox data).mem = s.mem := by
  unfold State.writeMailbox
  dsimp only
  split
  · exact (setCtl_mem ..).trans (putMasked_mem ..)
  · exact putMasked_mem ..

/-- A write to the control space changes no memory. -/
theorem controlWrite_mem (s : State) (data : Cells Byte) : (s.controlWrite data).mem = s.mem := by
  unfold State.controlWrite
  dsimp only
  rw [mem_foldl (fun _ _ => writeQueue_mem ..), mem_foldl (fun _ _ => writeContext_mem ..)]
  split
  · rfl
  · exact writeMailbox_mem ..

theorem ctl_setCtl8 {s : State} (h : Cells.wf (0 : Byte) s.ctl = true) (off : Nat) (v : Byte) :
    Cells.wf (0 : Byte) (s.setCtl8 off v).ctl = true := wf_set h off v

/-- What a byte of the control space reads after one is written. -/
theorem ctl8_setCtl8 {s : State} (h : Cells.wf (0 : Byte) s.ctl = true) (off : Nat) (v : Byte) (o : Nat) :
    (s.setCtl8 off v).ctl8 o = if o = off then v else s.ctl8 o := get_set h off o v

theorem ctl_setCtl {s : State} (h : Cells.wf (0 : Byte) s.ctl = true) (off v n : Nat) :
    Cells.wf (0 : Byte) (s.setCtl off v n).ctl = true := by
  induction n generalizing s off v with
  | zero => exact h
  | succ n ih => exact ih (ctl_setCtl8 h ..) _ _

/-! ### Requests at the home copy -/

theorem wf_foldl_pair {α β : Type} {f : State × β → α → State × β}
    (hf : ∀ r a, Memory.wf r.1.mem = true → Memory.wf (f r a).1.mem = true) (l : List α) {r : State × β}
    (h : Memory.wf r.1.mem = true) : Memory.wf (l.foldl f r).1.mem = true := by
  induction l generalizing r with
  | nil => exact h
  | cons a l ih => exact ih (hf r a h)

theorem homeWrite_wf {s : State} (h : Memory.wf s.mem = true) (base : Nat) (data : Cells Byte) (ctx : Nat) :
    Memory.wf (s.homeWrite base data ctx).1.mem = true := by
  unfold State.homeWrite
  split
  · rw [controlWrite_mem]
    exact h
  · refine wf_foldl_pair (fun r k hr => ?_) _ (by rw [keepOld_mem]; exact h)
    refine wf_ite_pair _ ?_ hr
    have hw := writeGranule_wf hr base data (base / 32 + k) ctx
    generalize r.1.writeGranule base data (base / 32 + k) ctx = x at hw ⊢
    obtain ⟨s', d⟩ := x
    exact hw

theorem homePut_wf {s : State} (h : Memory.wf s.mem = true) (pa v n ctx : Nat) :
    Memory.wf (s.homePut pa v n ctx).1.mem = true := homeWrite_wf h _ _ _

theorem addCounter_wf {s : State} (h : Memory.wf s.mem = true) (pa ctx : Nat) (inc : Dword) :
    Memory.wf (s.addCounter pa ctx inc).1.mem = true := by
  have h' : Memory.wf (s.homeCheck pa 8 ctx).1.mem = true := (congrArg Memory.wf (homeCheck_mem ..)).trans h
  unfold State.addCounter
  generalize s.homeCheck pa 8 ctx = x at h'
  obtain ⟨t, bad⟩ := x
  exact wf_ite_pair _ h' (homePut_wf h' ..)

@[simp] theorem fillTlbs_mem (s : State) (x : TlbEntry) : (s.fillTlbs x).mem = s.mem := by
  unfold State.fillTlbs
  repeat' split
  all_goals rfl

theorem setUsed_wf {s : State} (h : Memory.wf s.mem = true) (ctx a e : Nat) (acc : Access) :
    Memory.wf (s.setUsed ctx a e acc).mem = true := wf_ite _ h (homePut_wf h ..)

/-- A translation changes memory only in the A and D bits that it sets, and keeps the canonical form. -/
theorem translateBy_wf {s : State} (h : Memory.wf s.mem = true) (tlb : List TlbEntry) (place ctx : Nat) (sys : Bool) (va : Nat)
    (acc : Access) : Memory.wf (s.translateBy tlb place ctx sys va acc).1.mem = true := by
  unfold State.translateBy
  generalize tlbHit tlb s.tick place ctx va acc = hit
  generalize s.findLeaf va 3 (s.root ctx) = found
  cases hit with
  | some e =>
    dsimp only
    generalize s.leafCheck e.leaf.toNat e.bits acc sys = bad
    cases bad with
    | some k => exact h
    | none => exact wf_ite _ h (h : Memory.wf (s.fillTlb _).mem = true)
  | none =>
    cases found with
    | held => exact h
    | fault k z => exact h
    | leaf a e level =>
      dsimp only
      generalize s.leafCheck (s.groupLeaf va a e level) (levelBits level) acc sys = bad
      cases bad with
      | some k => exact h
      | none =>
        show Memory.wf ((s.setUsed ctx a e acc).fillTlbs _).mem = true
        rw [fillTlbs_mem]
        exact setUsed_wf h ctx a e acc

theorem translate_wf {s : State} (h : Memory.wf s.mem = true) (place ctx : Nat) (sys : Bool) (va : Nat) (acc : Access) :
    Memory.wf (s.translate place ctx sys va acc).1.mem = true := translateBy_wf h ..

theorem translateFor_wf {s : State} (h : Memory.wf s.mem = true) (own : Bool) (place ctx : Nat) (sys : Bool) (va : Nat)
    (acc : Access) : Memory.wf (s.translateFor own place ctx sys va acc).1.mem = true := by
  unfold State.translateFor State.translateOwn
  split
  · exact translateBy_wf (s := { s with token := { s.token with lines := [] } }) h s.tlb place ctx sys va acc
  · exact translateBy_wf h ..

/-! ### Pages -/

theorem zeroFill_wf {s : State} (h : Memory.wf s.mem = true) (pa n : Nat) : Memory.wf (s.zeroFill pa n).mem = true :=
  wf_filter h _

theorem puts_wf (old new : Nat) (l : List (Nat × Byte)) (hl : ∀ e ∈ l, e.2 ≠ 0) {m : Memory} (h : Memory.wf m = true) :
    Memory.wf (l.foldl (fun (m : Memory) (e : Nat × Byte) => Cells.put m (new + (e.1 - old)) e.2) m) = true := by
  induction l generalizing m with
  | nil => exact h
  | cons e l ih =>
    exact ih (fun x hx => hl x (List.mem_cons_of_mem _ hx)) (wf_put h _ (hl e List.mem_cons_self))

theorem copyPage_wf {s : State} (h : Memory.wf s.mem = true) (old new n : Nat) :
    Memory.wf (s.copyPage old new n).mem = true := by
  refine puts_wf old new _ (fun e he => ?_) (zeroFill_wf h new n)
  have hw := h
  simp only [Memory.wf, Cells.wf, Bool.and_eq_true] at hw
  exact of_decide_eq_true (List.all_eq_true.mp hw.2 e (List.mem_filter.mp he).1)

theorem setFrame_wf {s : State} (h : Memory.wf s.mem = true) (c a frame : Nat) :
    Memory.wf (s.setFrame c a frame).mem = true := homePut_wf h ..

theorem setFrames_wf {s : State} (h : Memory.wf s.mem = true) (c a frame n : Nat) :
    Memory.wf (s.setFrames c a frame n).mem = true :=
  wf_foldl (fun _ i h => setFrame_wf h c (a + 8 * i) (frame + i)) _ h

theorem installPage_wf {s t : State} (h : Memory.wf s.mem = true) (c va : Nat) (ht : s.installPage c va = some t) :
    Memory.wf t.mem = true := by
  unfold State.installPage at ht
  cases he : s.entryAt va 3 (s.root c) with
  | none => rw [he] at ht; cases ht
  | some a =>
    cases hf : Cells.get [] s.wh.frames (pagePool c (va / 4096)) with
    | nil => rw [he] at ht; dsimp only at ht; rw [hf] at ht; cases ht
    | cons f rest =>
      rw [he] at ht
      dsimp only at ht
      rw [hf] at ht
      have hw := homePut_wf (zeroFill_wf h (4096 * f) 4096) a (withFrame (s.homeNat a 8) f ||| 1) 8 c
      dsimp only at ht
      generalize (s.zeroFill (4096 * f) 4096).homePut a (withFrame (s.homeNat a 8) f ||| 1) 8 c = x at hw ht
      cases ht
      exact wf_ite _ hw hw

theorem sets_wf (pa v : Nat) (l : List Nat) {m : Memory} (h : Memory.wf m = true) :
    Memory.wf (l.foldl (fun (m : Memory) i => Cells.set 0 m (pa + i) (BitVec.ofNat 8 (v / 256 ^ i))) m) = true := by
  induction l generalizing m with
  | nil => exact h
  | cons i l ih => exact ih (wf_set h _ _)

theorem loadedMemory_wf {m : Memory} (h : Memory.wf m = true) (w : Nat) : Memory.wf (loadedMemory m w) = true := by
  simp only [loadedMemory]
  exact sets_wf 0x10000 w _ (sets_wf 0x4080 (loadedLeaf 0x10000) _ (sets_wf 0x3000 0x4001 _ (sets_wf 0x2000 0x3001 _
    (sets_wf 0x1000 0x2001 _ h))))

/-! ### Reading back -/

/-- What a byte of memory reads after one is written. -/
theorem get_poke {s : State} (h : Memory.wf s.mem = true) (pa : Nat) (v : Byte) (a : Nat) :
    Cells.get 0 (s.poke pa v).mem a = if a = pa then v else Cells.get 0 s.mem a := get_set h pa a v

/-- What a byte of memory reads after bytes of a number are written. -/
theorem get_pokeNat {s : State} (h : Memory.wf s.mem = true) (pa v n a : Nat) :
    Cells.get 0 (s.pokeNat pa v n).mem a =
      if pa ≤ a ∧ a < pa + n then BitVec.ofNat 8 (v / 256 ^ (a - pa)) else Cells.get 0 s.mem a := by
  induction n generalizing s pa v with
  | zero => rw [if_neg (by omega)]; rfl
  | succ n ih =>
    show Cells.get 0 ((s.poke pa (BitVec.ofNat 8 v)).pokeNat (pa + 1) (v / 256) n).mem a = _
    rw [ih (poke_wf h pa _), get_poke h]
    by_cases h1 : pa + 1 ≤ a ∧ a < pa + 1 + n
    · rw [if_pos h1, if_pos (by omega), Nat.div_div_eq_div_mul]
      have h2 : a - pa = a - (pa + 1) + 1 := by omega
      rw [h2, Nat.pow_succ, Nat.mul_comm (256 ^ _)]
    · rw [if_neg h1]
      by_cases h3 : a = pa
      · subst h3; simp
      · rw [if_neg h3, if_neg (by omega)]

theorem get?_filter {β : Type} (p : Nat → Bool) (c : Cells β) {lo : Option Nat} (h : Cells.sortedFrom lo c = true) (k : Nat) :
    Cells.get? (c.filter fun e => p e.1) k = if p k then Cells.get? c k else none := by
  induction c generalizing lo with
  | nil => simp [Cells.get?]
  | cons e c ih =>
    obtain ⟨k', v⟩ := e
    have ht : Cells.sortedFrom (some k') c = true := by
      simp only [Cells.sortedFrom, Bool.and_eq_true] at h; exact h.2
    by_cases hp : p k' = true
    · rw [List.filter_cons_of_pos (by simpa using hp)]
      simp only [Cells.get?, ih ht]
      by_cases hk : k' = k
      · subst hk; simp [hp]
      · simp only [hk, if_false]
        by_cases hlt : k < k'
        · simp [hlt]
        · simp [hlt]
    · rw [List.filter_cons_of_neg (by simpa using hp), ih ht]
      by_cases hk : k' = k
      · subst hk; simp [hp]
      · simp only [Cells.get?, hk, if_false]
        by_cases hlt : k < k'
        · simp only [hlt, if_true]
          have := get?_below ht (j := k) (fun b hb => by cases hb; omega) (by simp)
          simp [this]
        · simp [hlt]

/-- What a byte of memory reads after a range is filled with zero. -/
theorem get_zeroFill {s : State} (h : Memory.wf s.mem = true) (pa n a : Nat) :
    Cells.get 0 (s.zeroFill pa n).mem a = if pa ≤ a ∧ a < pa + n then 0 else Cells.get 0 s.mem a := by
  have hs : Cells.sortedFrom none s.mem = true := by
    simp only [Memory.wf, Cells.wf, Bool.and_eq_true] at h; exact h.1
  have := get?_filter (fun x => !decide (pa ≤ x ∧ x < pa + n)) s.mem hs a
  simp only [Cells.get, State.zeroFill]
  rw [this]
  by_cases hr : pa ≤ a ∧ a < pa + n
  · simp [hr]
  · simp [hr]

/-! ### What comes from outside -/

theorem halt_mem (s : State) (b j : Nat) : (s.halt b j).mem = s.mem := by
  unfold State.halt
  split
  · rfl
  · split <;> rfl

theorem poisonStore_mem (s : State) (b : Nat) (owns : Basin → Bool) (mark : Basin → Basin) :
    (s.poisonStore b owns mark).mem = s.mem := by
  unfold State.poisonStore
  split
  · rfl
  · split <;> rfl

theorem moduleReset_mem (s : State) : s.moduleReset.mem = s.mem := rfl

theorem flash_mem (s : State) (f : Flash) : ({ s with flash := f } : State).mem = s.mem := rfl

theorem journalAdd_mem (s : State) (step path outcome detail : Nat) : (s.journalAdd step path outcome detail).mem = s.mem := by
  unfold State.journalAdd
  exact flash_mem s _

theorem strike_mem (s : State) (u : Upset) : (s.strike u).mem = s.mem := by
  cases u with
  | scratchpad b w => exact poisonStore_mem ..
  | region b w => exact poisonStore_mem ..
  | accumulator b k => exact poisonStore_mem ..
  | parkedRay k =>
    unfold State.strike
    dsimp only
    split
    · rfl
    · split <;> rfl
  | register b j =>
    unfold State.strike
    dsimp only
    split
    · rfl
    · split
      · rfl
      · exact halt_mem ..
  | granule g =>
    unfold State.strike
    dsimp only
    split <;> rfl
  | homeWord pa =>
    unfold State.strike
    dsimp only
    split <;> rfl
  | flit =>
    unfold State.strike State.flitLost
    exact (moduleReset_mem _).trans (journalAdd_mem ..)

theorem foreignUpdate_wf {s : State} (h : Memory.wf s.mem = true) (pa : Nat) (k : LongKind) :
    Memory.wf (s.foreignUpdate pa k).mem = true := by
  have h' : Memory.wf (s.homeCheck pa 4).1.mem = true := (congrArg Memory.wf (homeCheck_mem s pa 4 noContext)).trans h
  have word : Memory.wf (if (s.homeCheck pa 4).2 then (s.homeCheck pa 4).1
      else match k.newWord (BitVec.ofNat 32 ((s.homeCheck pa 4).1.homeNat pa 4)) with
        | none => (s.homeCheck pa 4).1
        | some new => ((s.homeCheck pa 4).1.homePut pa new.toNat 4).1).mem = true := by
    split
    · exact h'
    · split
      · exact h'
      · exact homePut_wf h' ..
  cases k with
  | ctradd inc => exact addCounter_wf h ..
  | atom op v => exact word
  | cas e n => exact word
  | load n => exact h
  | ldnr n r => exact h
  | reservoir => exact h
  | ready n => exact h
  | grow inc => exact h
  | texf d u v l => exact h
  | hgrid d l x y z => exact h

theorem foreignAccess_wf {s : State} (h : Memory.wf s.mem = true) (pa n : Nat) {f : State → State}
    (hf : ∀ s : State, Memory.wf s.mem = true → Memory.wf (f s).mem = true) :
    Memory.wf (s.foreignAccess pa n f).mem = true :=
  wf_ite _ h (wf_ite _ h (hf _ h))

/-- Accesses from outside keep the canonical form of memory, and the rest of what comes from outside leaves memory. -/
theorem foreignAct_wf {s : State} (h : Memory.wf s.mem = true) (f : Foreign) :
    Memory.wf (s.foreignAct f).mem = true := by
  cases f with
  | read pa n => exact foreignAccess_wf h _ _ fun s h => (congrArg Memory.wf (homeCheck_mem s pa n noContext)).trans h
  | write pa data => exact foreignAccess_wf h _ _ fun s h => homeWrite_wf h ..
  | update pa k =>
    unfold State.foreignAct
    exact foreignAccess_wf h _ _ fun t ht => wf_ite _ (foreignUpdate_wf ht _ _) ht
  | traffic dest addr data => exact h
  | restart => exact h
  | upset u => exact (congrArg Memory.wf (strike_mem ..)).trans h

end Sys2Proof.Machine
end

