-- ==== Sys2Proof/Laws/PerInstr.lean ====
section
/-! SUPPORT. Per-instruction statements: one lemma per constructor of `Instr`. Family `RoundTrip`: the decoder's candidate
for an instruction's word is that instruction. -/

namespace Sys2Proof.Laws.RoundTrip

/-- The word of an instruction, where it has one, names that instruction as its candidate. -/
def Statement (i : Instr) : Prop := ∀ w, encode i = some w → candidate w = some i

theorem nop : Statement (.nop) := by
  intro w h
  cases h
  simp [candidate, decodeControl]

theorem grd (k : Reg) (neg : Bool) (n : BitVec 3) : Statement (.grd k neg n) := by
  intro w h
  cases h
  simp [candidate, decodeControl]

theorem bra (off : BitVec 25) : Statement (.bra off) := by
  intro w h
  cases h
  simp [candidate, decodeControl]

theorem brc (neg : Bool) (p : BitVec 4) (imm : BitVec 18) : Statement (.brc neg p imm) := by
  intro w h
  cases h
  simp [candidate, decodeControl]

theorem brx (a : Reg) : Statement (.brx a) := by
  intro w h
  cases h
  simp [candidate, decodeControl]

theorem call (off : BitVec 25) : Statement (.call off) := by
  intro w h
  cases h
  simp [candidate, decodeControl]

theorem callx (a : Reg) : Statement (.callx a) := by
  intro w h
  cases h
  simp [candidate, decodeControl]

theorem ret : Statement (.ret) := by
  intro w h
  cases h
  simp [candidate, decodeControl]

theorem exit : Statement (.exit) := by
  intro w h
  cases h
  simp [candidate, decodeControl]

theorem mark (m : Reg) : Statement (.mark m) := by
  intro w h
  cases h
  simp [candidate, decodeControl]

theorem join (m : Reg) : Statement (.join m) := by
  intro w h
  cases h
  simp [candidate, decodeControl]

theorem leave (m : Reg) : Statement (.leave m) := by
  intro w h
  cases h
  simp [candidate, decodeControl]

theorem waitm (m : Reg) : Statement (.waitm m) := by
  intro w h
  cases h
  simp [candidate, decodeControl]

theorem bar (k : Reg) (a : Reg) : Statement (.bar k a) := by
  intro w h
  cases h
  simp [candidate, decodeControl]

theorem barArrive (k : Reg) (a : Reg) : Statement (.barArrive k a) := by
  intro w h
  cases h
  simp [candidate, decodeControl]

theorem winb (imm : BitVec 18) : Statement (.winb imm) := by
  intro w h
  cases h
  simp [candidate, decodeControl]

theorem reord (a : Reg) : Statement (.reord a) := by
  intro w h
  cases h
  simp [candidate, decodeControl]

theorem iadd (d : Reg) (a : Reg) (b : Reg) (it : AddForm) : Statement (.iadd d a b it) := by
  intro w h
  cases h
  simp [candidate, decodeInteger]

theorem isub (d : Reg) (a : Reg) (b : Reg) (it : AddForm) : Statement (.isub d a b it) := by
  intro w h
  cases h
  simp [candidate, decodeInteger]

theorem imul (d : Reg) (a : Reg) (b : Reg) : Statement (.imul d a b) := by
  intro w h
  cases h
  simp [candidate, decodeInteger]

theorem imad (d : Reg) (a : Reg) (b : Reg) (f : MadForm) : Statement (.imad d a b f) := by
  intro w h
  cases h
  simp [candidate, decodeInteger]

theorem imulh (d : Reg) (a : Reg) (b : Reg) (s : Sign) : Statement (.imulh d a b s) := by
  intro w h
  cases h
  simp [candidate, decodeInteger]

theorem iaddi (d : Reg) (a : Reg) (imm : BitVec 11) : Statement (.iaddi d a imm) := by
  intro w h
  cases h
  simp [candidate, decodeInteger]

theorem and (d : Reg) (a : Reg) (b : Reg) (inv : Bool) : Statement (.and d a b inv) := by
  intro w h
  cases h
  simp [candidate, decodeInteger]

theorem or (d : Reg) (a : Reg) (b : Reg) (inv : Bool) : Statement (.or d a b inv) := by
  intro w h
  cases h
  simp [candidate, decodeInteger]

theorem xor (d : Reg) (a : Reg) (b : Reg) (inv : Bool) : Statement (.xor d a b inv) := by
  intro w h
  cases h
  simp [candidate, decodeInteger]

theorem andi (d : Reg) (a : Reg) (imm : BitVec 11) : Statement (.andi d a imm) := by
  intro w h
  cases h
  simp [candidate, decodeInteger]

theorem ori (d : Reg) (a : Reg) (imm : BitVec 11) : Statement (.ori d a imm) := by
  intro w h
  cases h
  simp [candidate, decodeInteger]

theorem shl (d : Reg) (a : Reg) (b : Reg) : Statement (.shl d a b) := by
  intro w h
  cases h
  simp [candidate, decodeInteger]

theorem shlI (d : Reg) (a : Reg) (n : BitVec 5) : Statement (.shlI d a n) := by
  intro w h
  cases h
  simp [candidate, decodeInteger]

theorem shr (d : Reg) (a : Reg) (b : Reg) : Statement (.shr d a b) := by
  intro w h
  cases h
  simp [candidate, decodeInteger]

theorem shrI (d : Reg) (a : Reg) (n : BitVec 5) : Statement (.shrI d a n) := by
  intro w h
  cases h
  simp [candidate, decodeInteger]

theorem sar (d : Reg) (a : Reg) (b : Reg) : Statement (.sar d a b) := by
  intro w h
  cases h
  simp [candidate, decodeInteger]

theorem sarI (d : Reg) (a : Reg) (n : BitVec 5) : Statement (.sarI d a n) := by
  intro w h
  cases h
  simp [candidate, decodeInteger]

theorem bfe (d : Reg) (a : Reg) (b : Reg) (s : Sign) : Statement (.bfe d a b s) := by
  intro w h
  cases h
  simp [candidate, decodeInteger]

theorem bfi (d : Reg) (a : Reg) (b : Reg) : Statement (.bfi d a b) := by
  intro w h
  cases h
  simp [candidate, decodeInteger]

theorem popc (d : Reg) (a : Reg) : Statement (.popc d a) := by
  intro w h
  cases h
  simp [candidate, decodeInteger]

theorem clz (d : Reg) (a : Reg) : Statement (.clz d a) := by
  intro w h
  cases h
  simp [candidate, decodeInteger]

theorem imin (d : Reg) (a : Reg) (b : Reg) (s : Sign) : Statement (.imin d a b s) := by
  intro w h
  cases h
  simp [candidate, decodeInteger]

theorem imax (d : Reg) (a : Reg) (b : Reg) (s : Sign) : Statement (.imax d a b s) := by
  intro w h
  cases h
  simp [candidate, decodeInteger]

theorem icmp (p : Reg) (a : Reg) (b : Reg) (cc : Cc) : Statement (.icmp p a b cc) := by
  intro w h
  cases h
  simp [candidate, decodeInteger]

theorem sel (d : Reg) (a : Reg) (b : Reg) (p : BitVec 4) : Statement (.sel d a b p) := by
  intro w h
  cases h
  simp [candidate, decodeInteger]

theorem movi (d : Reg) (imm : BitVec 18) : Statement (.movi d imm) := by
  intro w h
  cases h
  simp [candidate, decodeInteger]

theorem movhi (d : Reg) (imm : BitVec 18) : Statement (.movhi d imm) := by
  intro w h
  cases h
  simp [candidate, decodeInteger]

theorem fadd (d : Reg) (a : Reg) (b : Reg) (ty : FTy) (rm : Rm) : Statement (.fadd d a b ty rm) := by
  intro w h
  cases h
  simp [candidate, decodeFloat]

theorem fsub (d : Reg) (a : Reg) (b : Reg) (ty : FTy) (rm : Rm) : Statement (.fsub d a b ty rm) := by
  intro w h
  cases h
  simp [candidate, decodeFloat]

theorem fmul (d : Reg) (a : Reg) (b : Reg) (ty : FTy) (rm : Rm) : Statement (.fmul d a b ty rm) := by
  intro w h
  cases h
  simp [candidate, decodeFloat]

theorem ffma (d : Reg) (a : Reg) (b : Reg) (ty : FTy) (rm : Rm) : Statement (.ffma d a b ty rm) := by
  intro w h
  cases h
  simp [candidate, decodeFloat]

theorem fmin (d : Reg) (a : Reg) (b : Reg) (ty : FTy) : Statement (.fmin d a b ty) := by
  intro w h
  cases h
  simp [candidate, decodeFloat]

theorem fmax (d : Reg) (a : Reg) (b : Reg) (ty : FTy) : Statement (.fmax d a b ty) := by
  intro w h
  cases h
  simp [candidate, decodeFloat]

theorem fcmp (p : Reg) (a : Reg) (b : Reg) (cc : Fcc) : Statement (.fcmp p a b cc) := by
  intro w h
  cases h
  simp [candidate, decodeFloat]

theorem fclass (d : Reg) (a : Reg) : Statement (.fclass d a) := by
  intro w h
  cases h
  simp [candidate, decodeFloat]

theorem cvt (d : Reg) (a : Reg) (code : CvtCode) (sat : Bool) (rm : Rm) : Statement (.cvt d a code sat rm) := by
  intro w h
  cases h
  simp [candidate, decodeFloat]

theorem frnd (d : Reg) (a : Reg) (ty : FTy) (rm : Rm) : Statement (.frnd d a ty rm) := by
  intro w h
  cases h
  simp [candidate, decodeFloat]

theorem rcp (d : Reg) (a : Reg) : Statement (.rcp d a) := by
  intro w h
  cases h
  simp [candidate, decodeFloat]

theorem rsq (d : Reg) (a : Reg) : Statement (.rsq d a) := by
  intro w h
  cases h
  simp [candidate, decodeFloat]

theorem sqrt (d : Reg) (a : Reg) : Statement (.sqrt d a) := by
  intro w h
  cases h
  simp [candidate, decodeFloat]

theorem exp2 (d : Reg) (a : Reg) : Statement (.exp2 d a) := by
  intro w h
  cases h
  simp [candidate, decodeFloat]

theorem log2 (d : Reg) (a : Reg) : Statement (.log2 d a) := by
  intro w h
  cases h
  simp [candidate, decodeFloat]

theorem sin (d : Reg) (a : Reg) : Statement (.sin d a) := by
  intro w h
  cases h
  simp [candidate, decodeFloat]

theorem cos (d : Reg) (a : Reg) : Statement (.cos d a) := by
  intro w h
  cases h
  simp [candidate, decodeFloat]

theorem tanh (d : Reg) (a : Reg) : Statement (.tanh d a) := by
  intro w h
  cases h
  simp [candidate, decodeFloat]

theorem fdot2 (d : Reg) (a : Reg) (b : Reg) (ty : FTy) (rm : Rm) : Statement (.fdot2 d a b ty rm) := by
  intro w h
  cases h
  simp [candidate, decodeFloat]

theorem fdiv (d : Reg) (a : Reg) (b : Reg) : Statement (.fdiv d a b) := by
  intro w h
  cases h
  simp [candidate, decodeFloat]

theorem pack (d : Reg) (a : Reg) (b : Reg) (f : PackForm) : Statement (.pack d a b f) := by
  intro w h
  cases h
  simp [candidate, decodeFloat]

theorem unpk (d : Reg) (a : Reg) (f : UnpkForm) : Statement (.unpk d a f) := by
  intro w h
  cases h
  simp [candidate, decodeFloat]

theorem sadd (d : Reg) (a : Reg) (b : Reg) (it : AddForm) : Statement (.sadd d a b it) := by
  intro w h
  cases h
  simp [candidate, decodeUniform]

theorem smul (d : Reg) (a : Reg) (b : Reg) (f : SmulForm) : Statement (.smul d a b f) := by
  intro w h
  cases h
  simp [candidate, decodeUniform]

theorem slog (d : Reg) (a : Reg) (b : Reg) (f : SlogForm) : Statement (.slog d a b f) := by
  intro w h
  cases h
  simp [candidate, decodeUniform]

theorem sshf (d : Reg) (a : Reg) (b : Reg) (f : SshfForm) : Statement (.sshf d a b f) := by
  intro w h
  cases h
  simp [candidate, decodeUniform]

theorem scmp (d : Reg) (a : Reg) (b : Reg) (cc : Cc) : Statement (.scmp d a b cc) := by
  intro w h
  cases h
  simp [candidate, decodeUniform]

theorem smovi (d : Reg) (imm : BitVec 18) : Statement (.smovi d imm) := by
  intro w h
  cases h
  simp [candidate, decodeUniform]

theorem smovhi (d : Reg) (imm : BitVec 18) : Statement (.smovhi d imm) := by
  intro w h
  cases h
  simp [candidate, decodeUniform]

theorem bcast (d : Reg) (a : Reg) : Statement (.bcast d a) := by
  intro w h
  cases h
  simp [candidate, decodeUniform]

theorem jred (d : Reg) (a : Reg) (f : RedOp) : Statement (.jred d a f) := by
  intro w h
  cases h
  simp [candidate, decodeUniform]

theorem ballot (d : Reg) (p : Reg) (inv : Bool) : Statement (.ballot d p inv) := by
  intro w h
  cases h
  simp [candidate, decodeUniform]

theorem grow (d : Reg) (a : Reg) (la : BitVec 4) : Statement (.grow d a la) := by
  intro w h
  cases h
  simp [candidate, decodeUniform]

theorem sld (d : Reg) (a : Reg) (off : Reg) (sz : Size) (la : BitVec 2) : Statement (.sld d a off sz la) := by
  intro w h
  cases h
  simp [candidate, decodeUniform]

theorem plog (d : Reg) (a : Reg) (b : Reg) (f : PlogForm) : Statement (.plog d a b f) := by
  intro w h
  cases h
  simp [candidate, decodeUniform]

theorem pmovPv (d : Reg) (a : Reg) : Statement (.pmovPv d a) := by
  intro w h
  cases h
  simp [candidate, decodeUniform]

theorem pmovVp (d : Reg) (a : Reg) : Statement (.pmovVp d a) := by
  intro w h
  cases h
  simp [candidate, decodeUniform]

theorem pmovPp (d : Reg) (a : Reg) : Statement (.pmovPp d a) := by
  intro w h
  cases h
  simp [candidate, decodeUniform]

theorem mmovSm (d : Reg) (m : Reg) : Statement (.mmovSm d m) := by
  intro w h
  cases h
  simp [candidate, decodeUniform]

theorem mmovMs (m : Reg) (a : Reg) : Statement (.mmovMs m a) := by
  intro w h
  cases h
  simp [candidate, decodeUniform]

theorem mmovMm (d : Reg) (m : Reg) : Statement (.mmovMm d m) := by
  intro w h
  cases h
  simp [candidate, decodeUniform]

theorem idr (d : Reg) (f : IdForm) : Statement (.idr d f) := by
  intro w h
  cases h
  simp [candidate, decodeUniform]

theorem ldG (d : Reg) (a : Reg) (off : Reg) (sz : Size) (la : BitVec 2) : Statement (.ldG d a off sz la) := by
  intro w h
  cases h
  simp [candidate, decodeMemory]

theorem stG (d : Reg) (a : Reg) (off : Reg) (sz : Size) : Statement (.stG d a off sz) := by
  intro w h
  cases h
  simp [candidate, decodeMemory]

theorem lds (d : Reg) (a : Reg) (off : Reg) (sz : Size) (la : BitVec 2) : Statement (.lds d a off sz la) := by
  intro w h
  cases h
  simp [candidate, decodeMemory]

theorem sts (d : Reg) (a : Reg) (off : Reg) (sz : Size) : Statement (.sts d a off sz) := by
  intro w h
  cases h
  simp [candidate, decodeMemory]

theorem atom (d : Reg) (a : Reg) (op : AtomOp) (sc : Scope) (ord : MemOrder) (la : BitVec 4) : Statement (.atom d a op sc ord la) := by
  intro w h
  cases h
  simp [candidate, decodeMemory]

theorem atoms (d : Reg) (a : Reg) (op : AtomOp) (sc : Scope) (ord : MemOrder) (la : BitVec 4) : Statement (.atoms d a op sc ord la) := by
  intro w h
  cases h
  simp [candidate, decodeMemory]

theorem ldnr (d : Reg) (a : Reg) (p : Reg) (sz : Size) (la : BitVec 2) : Statement (.ldnr d a p sz la) := by
  intro w h
  cases h
  simp [candidate, decodeMemory]

theorem pgreq (a : Reg) : Statement (.pgreq a) := by
  intro w h
  cases h
  simp [candidate, decodeMemory]

theorem fence (sc : Scope) (ord : MemOrder) : Statement (.fence sc ord) := by
  intro w h
  cases h
  simp [candidate, decodeMemory]

theorem copy (a : Reg) (sc : Scope) (ord : MemOrder) : Statement (.copy a sc ord) := by
  intro w h
  cases h
  simp [candidate, decodeMemory]

theorem waitge (a : Reg) (b : Reg) (sc : Scope) (ord : MemOrder) : Statement (.waitge a b sc ord) := by
  intro w h
  cases h
  simp [candidate, decodeMemory]

theorem ctradd (a : Reg) (b : Reg) (sc : Scope) (ord : MemOrder) : Statement (.ctradd a b sc ord) := by
  intro w h
  cases h
  simp [candidate, decodeMemory]

theorem pref (a : Reg) (off : Reg) (lv : Bool) : Statement (.pref a off lv) := by
  intro w h
  cases h
  simp [candidate, decodeMemory]

theorem cas (d : Reg) (a : Reg) (sc : Scope) (ord : MemOrder) (la : BitVec 4) : Statement (.cas d a sc ord la) := by
  intro w h
  cases h
  simp [candidate, decodeMemory]

theorem txb : Statement (.txb) := by
  intro w h
  cases h
  simp [candidate, decodeTransaction]

theorem txbIrr : Statement (.txbIrr) := by
  intro w h
  cases h
  simp [candidate, decodeTransaction]

theorem txe (p : Reg) : Statement (.txe p) := by
  intro w h
  cases h
  simp [candidate, decodeTransaction]

theorem txa (imm : BitVec 18) : Statement (.txa imm) := by
  intro w h
  cases h
  simp [candidate, decodeTransaction]

theorem txq (d : Reg) : Statement (.txq d) := by
  intro w h
  cases h
  simp [candidate, decodeTransaction]

theorem rsvi (q : Reg) : Statement (.rsvi q) := by
  intro w h
  cases h
  simp [candidate, decodeTransaction]

theorem rsvu (q : Reg) (a : Reg) (b : Reg) : Statement (.rsvu q a b) := by
  intro w h
  cases h
  simp [candidate, decodeTransaction]

theorem rsvm (q : Reg) (r : Reg) (b : Reg) (cap : BitVec 4) : Statement (.rsvm q r b cap) := by
  intro w h
  cases h
  simp [candidate, decodeTransaction]

theorem rsvf (d : Reg) (q : Reg) : Statement (.rsvf d q) := by
  intro w h
  cases h
  simp [candidate, decodeTransaction]

theorem rsvld (q : Reg) (a : Reg) (off : Reg) (sp : Space) (la : BitVec 2) : Statement (.rsvld q a off sp la) := by
  intro w h
  cases h
  simp [candidate, decodeTransaction]

theorem rsvst (q : Reg) (a : Reg) (off : Reg) (sp : Space) : Statement (.rsvst q a off sp) := by
  intro w h
  cases h
  simp [candidate, decodeTransaction]

theorem rsvxGet (d : Reg) (q : Reg) (f : RsvField) : Statement (.rsvxGet d q f) := by
  intro w h
  cases h
  simp [candidate, decodeTransaction]

theorem rsvxSet (q : Reg) (a : Reg) (f : RsvField) : Statement (.rsvxSet q a f) := by
  intro w h
  cases h
  simp [candidate, decodeTransaction]

theorem drawSeed (a : Reg) (b : Reg) : Statement (.drawSeed a b) := by
  intro w h
  cases h
  simp [candidate, decodeTransaction]

theorem drawKey (d : Reg) : Statement (.drawKey d) := by
  intro w h
  cases h
  simp [candidate, decodeTransaction]

theorem drawCtr (d : Reg) : Statement (.drawCtr d) := by
  intro w h
  cases h
  simp [candidate, decodeTransaction]

theorem drawInt (d : Reg) : Statement (.drawInt d) := by
  intro w h
  cases h
  simp [candidate, decodeTransaction]

theorem drawF32 (d : Reg) : Statement (.drawF32 d) := by
  intro w h
  cases h
  simp [candidate, decodeTransaction]

theorem drawSetc (a : Reg) : Statement (.drawSetc a) := by
  intro w h
  cases h
  simp [candidate, decodeTransaction]

theorem setfmt (imm : BitVec 18) : Statement (.setfmt imm) := by
  intro w h
  cases h
  simp [candidate, decodeMatrix]

theorem mmavVv (c : Reg) (a : Reg) (b : Reg) : Statement (.mmavVv c a b) := by
  intro w h
  cases h
  simp [candidate, decodeMatrix]

theorem mmavVt (c : Reg) (a : Reg) (t : Reg) : Statement (.mmavVt c a t) := by
  intro w h
  cases h
  simp [candidate, decodeMatrix]

theorem mloop (c : Reg) (a : Reg) (b : Reg) (k : BitVec 4) : Statement (.mloop c a b k) := by
  intro w h
  cases h
  simp [candidate, decodeMatrix]

theorem mwait (c : Reg) : Statement (.mwait c) := by
  intro w h
  cases h
  simp [candidate, decodeMatrix]

theorem mrdy : Statement (.mrdy) := by
  intro w h
  cases h
  simp [candidate, decodeMatrix]

theorem tmovDef (t : Reg) (a : Reg) : Statement (.tmovDef t a) := by
  intro w h
  cases h
  simp [candidate, decodeMatrix]

theorem tmovRd (d : Reg) (t : Reg) (b : Reg) : Statement (.tmovRd d t b) := by
  intro w h
  cases h
  simp [candidate, decodeMatrix]

theorem tmovWr (t : Reg) (a : Reg) (b : Reg) : Statement (.tmovWr t a b) := by
  intro w h
  cases h
  simp [candidate, decodeMatrix]

theorem tmovRel (t : Reg) : Statement (.tmovRel t) := by
  intro w h
  cases h
  simp [candidate, decodeMatrix]

theorem amovRd (d : Reg) (c : Reg) (b : Reg) : Statement (.amovRd d c b) := by
  intro w h
  cases h
  simp [candidate, decodeMatrix]

theorem amovWr (c : Reg) (a : Reg) (b : Reg) : Statement (.amovWr c a b) := by
  intro w h
  cases h
  simp [candidate, decodeMatrix]

theorem amovZero (c : Reg) : Statement (.amovZero c) := by
  intro w h
  cases h
  simp [candidate, decodeMatrix]

theorem amovTile (t : Reg) (c : Reg) : Statement (.amovTile t c) := by
  intro w h
  cases h
  simp [candidate, decodeMatrix]

theorem tstat (d : Reg) (t : Reg) : Statement (.tstat d t) := by
  intro w h
  cases h
  simp [candidate, decodeMatrix]

theorem trace (d : Reg) (a : Reg) (b : Reg) : Statement (.trace d a b) := by
  intro w h
  cases h
  simp [candidate, decodeSystem]

theorem trwait (d : Reg) (a : Reg) : Statement (.trwait d a) := by
  intro w h
  cases h
  simp [candidate, decodeSystem]

theorem trresAcc (a : Reg) (b : Reg) : Statement (.trresAcc a b) := by
  intro w h
  cases h
  simp [candidate, decodeSystem]

theorem trresIgn (a : Reg) : Statement (.trresIgn a) := by
  intro w h
  cases h
  simp [candidate, decodeSystem]

theorem trresTerm (a : Reg) : Statement (.trresTerm a) := by
  intro w h
  cases h
  simp [candidate, decodeSystem]

theorem trresRetry (a : Reg) : Statement (.trresRetry a) := by
  intro w h
  cases h
  simp [candidate, decodeSystem]

theorem trcan (a : Reg) : Statement (.trcan a) := by
  intro w h
  cases h
  simp [candidate, decodeSystem]

theorem trrec (d : Reg) (a : Reg) (n : BitVec 2) : Statement (.trrec d a n) := by
  intro w h
  cases h
  simp [candidate, decodeSystem]

theorem asupd (a : Reg) : Statement (.asupd a) := by
  intro w h
  cases h
  simp [candidate, decodeSystem]

theorem texf (d : Reg) (a : Reg) (b : Reg) (la : BitVec 4) : Statement (.texf d a b la) := by
  intro w h
  cases h
  simp [candidate, decodeSystem]

theorem hgrid (d : Reg) (a : Reg) (b : Reg) (la : BitVec 4) : Statement (.hgrid d a b la) := by
  intro w h
  cases h
  simp [candidate, decodeSystem]

theorem mfs (d : Reg) (imm : BitVec 18) : Statement (.mfs d imm) := by
  intro w h
  cases h
  simp [candidate, decodeSystem]

theorem mts (d : Reg) (imm : BitVec 18) : Statement (.mts d imm) := by
  intro w h
  cases h
  simp [candidate, decodeSystem]

theorem trap (code : BitVec 16) : Statement (.trap code) := by
  intro w h
  cases h
  simp [candidate, decodeSystem]

theorem trapBrk (code : BitVec 16) : Statement (.trapBrk code) := by
  intro w h
  cases h
  simp [candidate, decodeSystem]

theorem eret : Statement (.eret) := by
  intro w h
  cases h
  simp [candidate, decodeSystem]

theorem reordRepack (b : Nat) : Statement (.reordRepack b) := fun _ h => nomatch h

theorem growPerform (b : Nat) (j : Nat) (k : Nat) : Statement (.growPerform b j k) := fun _ h => nomatch h

theorem trapEntry (b : Nat) (j : Nat) : Statement (.trapEntry b j) := fun _ h => nomatch h

theorem launchPacket (c : Nat) (q : Nat) : Statement (.launchPacket c q) := fun _ h => nomatch h

theorem copyPacket (c : Nat) (q : Nat) : Statement (.copyPacket c q) := fun _ h => nomatch h

theorem structureUpdatePacket (c : Nat) (q : Nat) : Statement (.structureUpdatePacket c q) := fun _ h => nomatch h

theorem counterWaitSatisfied (c : Nat) (q : Nat) : Statement (.counterWaitSatisfied c q) := fun _ h => nomatch h

theorem staging (n : Nat) : Statement (.staging n) := fun _ h => nomatch h

theorem tailPoll (c : Nat) (q : Nat) : Statement (.tailPoll c q) := fun _ h => nomatch h

theorem basinPlace (n : Nat) : Statement (.basinPlace n) := fun _ h => nomatch h

theorem placementWaitTimeout (n : Nat) : Statement (.placementWaitTimeout n) := fun _ h => nomatch h

theorem launchComplete (n : Nat) : Statement (.launchComplete n) := fun _ h => nomatch h

theorem basinExit (b : Nat) : Statement (.basinExit b) := fun _ h => nomatch h

theorem rotationSwap (core : Nat) (sp : Nat) : Statement (.rotationSwap core sp) := fun _ h => nomatch h

theorem jetWake (b : Nat) (j : Nat) : Statement (.jetWake b j) := fun _ h => nomatch h

theorem longWriteLands (b : Nat) (j : Nat) (k : Nat) : Statement (.longWriteLands b j k) := fun _ h => nomatch h

theorem storePerformed (k : Nat) : Statement (.storePerformed k) := fun _ h => nomatch h

theorem writeDropReport (k : Nat) : Statement (.writeDropReport k) := fun _ h => nomatch h

theorem storeAck (k : Nat) : Statement (.storeAck k) := fun _ h => nomatch h

theorem atomicPerform (b : Nat) (j : Nat) (k : Nat) : Statement (.atomicPerform b j k) := fun _ h => nomatch h

theorem requestAgePromotion (b : Nat) (j : Nat) (k : Nat) : Statement (.requestAgePromotion b j k) := fun _ h => nomatch h

theorem faultResolved (k : Nat) : Statement (.faultResolved k) := fun _ h => nomatch h

theorem faultUnresolvable (k : Nat) : Statement (.faultUnresolvable k) := fun _ h => nomatch h

theorem pageRequestServiced (k : Nat) : Statement (.pageRequestServiced k) := fun _ h => nomatch h

theorem migration (c : Nat) (va : Nat) (fr : Nat) : Statement (.migration c va fr) := fun _ h => nomatch h

theorem copyService (k : Nat) (w : Nat) : Statement (.copyService k w) := fun _ h => nomatch h

theorem copyComplete (k : Nat) : Statement (.copyComplete k) := fun _ h => nomatch h

theorem copyFaultEnd (k : Nat) : Statement (.copyFaultEnd k) := fun _ h => nomatch h

theorem waitgeSatisfied (b : Nat) (j : Nat) (l : Nat) : Statement (.waitgeSatisfied b j l) := fun _ h => nomatch h

theorem txSlotGrant (core : Nat) : Statement (.txSlotGrant core) := fun _ h => nomatch h

theorem tokenGrant : Statement (.tokenGrant) := fun _ h => nomatch h

theorem txCommit (b : Nat) (j : Nat) (l : Nat) : Statement (.txCommit b j l) := fun _ h => nomatch h

theorem timeout (b : Nat) (j : Nat) (l : Nat) : Statement (.timeout b j l) := fun _ h => nomatch h

theorem matrixOpComplete (b : Nat) (k : Nat) : Statement (.matrixOpComplete b k) := fun _ h => nomatch h

theorem filterLookup (b : Nat) (j : Nat) (k : Nat) : Statement (.filterLookup b j k) := fun _ h => nomatch h

theorem rayArrive (st : Nat) : Statement (.rayArrive st) := fun _ h => nomatch h

theorem enginePick (st : Nat) : Statement (.enginePick st) := fun _ h => nomatch h

theorem rayTraverse (r : Nat) : Statement (.rayTraverse r) := fun _ h => nomatch h

theorem nodeVersionTimeout (r : Nat) : Statement (.nodeVersionTimeout r) := fun _ h => nomatch h

theorem answerArrives (k : Nat) : Statement (.answerArrives k) := fun _ h => nomatch h

theorem sueUpdate : Statement (.sueUpdate) := fun _ h => nomatch h

theorem config : Statement (.config) := fun _ h => nomatch h

theorem linkDown (p : Nat) : Statement (.linkDown p) := fun _ h => nomatch h

theorem flitCrcFailure (p : Nat) : Statement (.flitCrcFailure p) := fun _ h => nomatch h

theorem moduleStart : Statement (.moduleStart) := fun _ h => nomatch h

theorem startStepTimeout (n : Nat) : Statement (.startStepTimeout n) := fun _ h => nomatch h

theorem powerClockStep (up : Bool) : Statement (.powerClockStep up) := fun _ h => nomatch h

theorem queueFirmwareSwap (c : Nat) (q : Nat) : Statement (.queueFirmwareSwap c q) := fun _ h => nomatch h

theorem getconfig (mb : Nat) : Statement (.getconfig mb) := fun _ h => nomatch h

theorem setpower (mb : Nat) : Statement (.setpower mb) := fun _ h => nomatch h

theorem invalidate (mb : Nat) : Statement (.invalidate mb) := fun _ h => nomatch h

theorem endlaunch (mb : Nat) : Statement (.endlaunch mb) := fun _ h => nomatch h

theorem resolve (mb : Nat) : Statement (.resolve mb) := fun _ h => nomatch h

theorem refuse (mb : Nat) : Statement (.refuse mb) := fun _ h => nomatch h

theorem report (mb : Nat) : Statement (.report mb) := fun _ h => nomatch h

theorem update (mb : Nat) : Statement (.update mb) := fun _ h => nomatch h

theorem setparam (mb : Nat) : Statement (.setparam mb) := fun _ h => nomatch h

theorem clearjournal (mb : Nat) : Statement (.clearjournal mb) := fun _ h => nomatch h

theorem readlog (mb : Nat) : Statement (.readlog mb) := fun _ h => nomatch h

theorem contextDescriptorWrite (c : Nat) (off : Nat) (sz : Nat) (v : Dword) : Statement (.contextDescriptorWrite c off sz v) := fun _ h => nomatch h

theorem queueDescriptorWrite (c : Nat) (q : Nat) (off : Nat) (sz : Nat) (v : Dword) : Statement (.queueDescriptorWrite c q off sz v) := fun _ h => nomatch h

theorem controlSpaceWrite (off : Nat) (sz : Nat) (v : Dword) : Statement (.controlSpaceWrite off sz v) := fun _ h => nomatch h

theorem storePointPassed (b : Nat) (j : Nat) : Statement (.storePointPassed b j) := fun _ h => nomatch h

theorem peerForwarding : Statement (.peerForwarding) := fun _ h => nomatch h

theorem eccScrubbing (g : Nat) : Statement (.eccScrubbing g) := fun _ h => nomatch h

end Sys2Proof.Laws.RoundTrip
end

