-- ==== Sys2Proof/Laws/Shapes.lean ====
section
/-! SUPPORT. The shapes of Safety.lean follow from the model's shapes of issue: one lemma per shape. -/

namespace Sys2Proof.Machine

variable {i : Instr} {d a b : Reg}

theorem lookup_cons (w k : Nat) {β : Type} (v : β) (l : List (Nat × β)) :
    ((k, v) :: l).lookup w = if w = k then some v else l.lookup w := by
  rw [List.lookup]
  by_cases h : w = k
  · rw [if_pos h, beq_iff_eq.mpr h]
  · rw [if_neg h, beq_eq_false_iff_ne.mpr h]

theorem lookup_one (w k : Nat) {β : Type} (v : β) : [(k, v)].lookup w = if w = k then some v else none :=
  lookup_cons w k v []

theorem lo32_eq (v : Dword) : lo32 v = v.extractLsb' 0 32 := by
  apply BitVec.eq_of_getLsbD_eq
  intro k hk
  simp [lo32]

theorem hi32_eq (v : Dword) : hi32 v = v.extractLsb' 32 32 := by
  apply BitVec.eq_of_getLsbD_eq
  intro k hk
  simp [hi32]

theorem setPair_word (T : Thread) (wb r : Nat) (v : Dword) (w : Nat) :
    (T.setPair wb r v).word w = ((pairWords wb r v).lookup w).getD (T.word w) := by
  simp only [Thread.setPair, pairWords, setWord_word, hi32_eq, lo32_eq, lookup_cons]
  by_cases h1 : w = mapReg wb (r + 1)
  · rw [if_pos h1, if_pos h1]; rfl
  · rw [if_neg h1, if_neg h1]
    by_cases h0 : w = mapReg wb r
    · rw [if_pos h0, if_pos h0]; rfl
    · rw [if_neg h0, if_neg h0]; rfl

theorem alu0_shape {v v' : Word} (he : ∀ s, exec i s = .next (s.alu0 d v)) (hv : v = v') : NoSource i d v' := by
  subst hv
  intro s B J h
  refine ⟨_, he s, laneOp_result h _ _ _ _ _ (fun _ _ => rfl) (fun l T w => ?_) (fun _ _ _ _ => by simp)⟩
  simp only [lookup_one, setWord_word]
  split <;> simp

theorem alu1_shape {f g : Word → Word} (he : ∀ s, exec i s = .next (s.alu1 d a f)) (hfg : ∀ x, f x = g x) :
    OneSource i d a g := by
  intro s B J h
  refine ⟨_, he s, laneOp_result h _ _ _ _ _ (fun _ _ => rfl) (fun l T w => ?_) (fun _ _ _ _ => by simp)⟩
  simp only [lookup_one, setWord_word, hfg]
  split <;> simp

theorem alu2_shape {f g : Word → Word → Word} (he : ∀ s, exec i s = .next (s.alu2 d a b f))
    (hfg : ∀ x y, f x y = g x y) : TwoSource i d a b g := by
  intro s B J h
  refine ⟨_, he s, laneOp_result h _ _ _ _ _ (fun _ _ => rfl) (fun l T w => ?_) (fun _ _ _ _ => by simp)⟩
  simp only [lookup_one, setWord_word, hfg]
  split <;> simp

theorem alu3_shape {f g : Word → Word → Word → Word} (he : ∀ s, exec i s = .next (s.alu3 d a b f))
    (hfg : ∀ x y z, f x y z = g x y z) : ThreeSource i d a b g := by
  intro s B J h
  refine ⟨_, he s, laneOp_result h _ _ _ _ _ (fun _ _ => rfl) (fun l T w => ?_) (fun _ _ _ _ => by simp)⟩
  simp only [lookup_one, setWord_word, hfg]
  split <;> simp

theorem aluPair_shape {f : Dword → Dword → Dword} (he : ∀ s, exec i s = .next (s.aluPair d a b f)) :
    PairSource i d a b f := by
  intro s B J h
  exact ⟨_, he s, laneOp_result h _ _ _ _ _ (fun _ _ => rfl) (fun l T w => setPair_word _ _ _ _ _)
    (fun _ _ _ _ => by simp [Thread.setPair])⟩

theorem aluAcc64_shape {f : Word → Word → Dword → Dword} (he : ∀ s, exec i s = .next (s.aluAcc64 d a b f)) :
    WideSource i d a b f := by
  intro s B J h
  exact ⟨_, he s, laneOp_result h _ _ _ _ _ (fun _ _ => rfl) (fun l T w => setPair_word _ _ _ _ _)
    (fun _ _ _ _ => by simp [Thread.setPair])⟩

theorem setPred_words (t : Thread) (p : Nat) (v : Bool) : (t.setPred p v).words = t.words := by
  unfold Thread.setPred; split <;> rfl

theorem setPred_frame (t : Thread) (p : Nat) (v : Bool) :
    t.setPred p v = { t with words := (t.setPred p v).words, preds := (t.setPred p v).preds } := by
  unfold Thread.setPred; split <;> rfl

theorem cmp2_shape {f g : Word → Word → Bool} (hd : d.toNat < 16) (he : ∀ s, exec i s = .next (s.cmp2 d a b f))
    (hfg : ∀ x y, f x y = g x y) : Compare i d a b g := by
  intro s B J h
  refine ⟨_, he s, laneOp_result h _ _ _ _ _ (fun _ _ => setPred_frame _ _ _) (fun _ _ _ => by simp) (fun l T p hp => ?_)⟩
  simp only [lookup_one, setPred_pred _ hd _ _ hp, hfg]
  split <;> simp

theorem suni2_shape {f g : Word → Word → Word} (he : ∀ s, exec i s = .next (s.suni2 d a b f))
    (hfg : ∀ x y, f x y = g x y) : UniformTwo i d a b g := by
  intro s B J h
  refine ⟨_, he s, uniformOp_result h _ _ fun r => ?_⟩
  simp only [List.foldl_cons, List.foldl_nil, setSreg_sreg, lookup_one, hfg]
  by_cases hr : r = d.toNat
  · subst hr; by_cases h8 : 8 ≤ d.toNat <;> simp [h8]
  · simp [hr]

end Sys2Proof.Machine
end

