-- ==== Sys2Proof/Tests/Slice0.lean ====
section
/-! SUPPORT. Tests: terms that are no instructions, words written out in the spec, and for each statement with hypotheses a
state and operands that meet them. Expected results come from the spec's tables and worked words. -/

namespace Sys2Proof.Tests

open Sys2Proof Sys2Proof.Machine

/-! ### Terms that are no instructions (R90 to R99) -/

theorem test_wf_refuses_registers :
    Instr.wf (.grd 16 false 0) = false ∧ Instr.wf (.brx 3) = false ∧ Instr.wf (.callx 127) = false
      ∧ Instr.wf (.mark 12) = false ∧ Instr.wf (.join 12) = false ∧ Instr.wf (.leave 12) = false
      ∧ Instr.wf (.waitm 12) = false ∧ Instr.wf (.bar 16 0) = false ∧ Instr.wf (.barArrive 16 0) = false
      ∧ Instr.wf (.icmp 0 1 2 .eq) = false ∧ Instr.wf (.icmp 16 1 2 .eq) = false ∧ Instr.wf (.fcmp 0 1 2 .eq) = false
      ∧ Instr.wf (.plog 0 1 2 .and) = false ∧ Instr.wf (.plog 1 16 2 .and) = false ∧ Instr.wf (.plog 1 2 16 .and) = false
      ∧ Instr.wf (.pmovPv 0 1) = false ∧ Instr.wf (.pmovVp 0 16) = false ∧ Instr.wf (.pmovPp 0 1) = false
      ∧ Instr.wf (.pmovPp 1 16) = false ∧ Instr.wf (.txe 0) = false := by decide

theorem test_wf_refuses_pairs :
    Instr.wf (.iadd 1 2 4 .b64) = false ∧ Instr.wf (.iadd 2 1 4 .b64) = false ∧ Instr.wf (.iadd 2 4 1 .b64) = false
      ∧ Instr.wf (.isub 1 2 4 .b64) = false ∧ Instr.wf (.isub 2 3 4 .b64) = false ∧ Instr.wf (.isub 2 4 5 .b64) = false
      ∧ Instr.wf (.imad 3 1 2 .n64) = false ∧ Instr.wf (.imad 3 1 2 .s64) = false ∧ Instr.wf (.imad 3 1 2 .b32) = true
      ∧ Instr.wf (.idr 1 .wid) = false ∧ Instr.wf (.idr 1 .wid0) = false ∧ Instr.wf (.idr 1 .lane) = true
      ∧ Instr.wf (.ldG 1 2 0 .b64 0) = false ∧ Instr.wf (.ldG 1 3 0 .b32 0) = false ∧ Instr.wf (.stG 1 2 0 .b64) = false
      ∧ Instr.wf (.stG 1 3 0 .b32) = false ∧ Instr.wf (.lds 1 0 0 .b64 0) = false ∧ Instr.wf (.sts 1 0 0 .b64) = false
      ∧ Instr.wf (.ldnr 1 2 1 .b64 0) = false ∧ Instr.wf (.ldnr 0 3 1 .b32 0) = false ∧ Instr.wf (.ldnr 0 2 0 .b32 0) = false
      ∧ Instr.wf (.pgreq 1) = false ∧ Instr.wf (.pref 1 0 true) = false ∧ Instr.wf (.asupd 1) = false
      ∧ Instr.wf (.cas 1 2 .bsn .relaxed 0) = false ∧ Instr.wf (.cas 2 1 .bsn .relaxed 0) = false := by decide

theorem test_wf_refuses_uniform :
    Instr.wf (.sadd 7 0 0 .wrap) = false ∧ Instr.wf (.sadd 9 0 0 .b64) = false ∧ Instr.wf (.sadd 8 1 0 .b64) = false
      ∧ Instr.wf (.sadd 8 0 1 .b64) = false ∧ Instr.wf (.smul 7 0 0 .low) = false ∧ Instr.wf (.slog 7 0 0 .and) = false
      ∧ Instr.wf (.sshf 7 0 0 .shl) = false ∧ Instr.wf (.scmp 7 0 0 .eq) = false ∧ Instr.wf (.smovi 7 0) = false
      ∧ Instr.wf (.smovhi 7 0) = false ∧ Instr.wf (.smovhi 8 65536) = false ∧ Instr.wf (.movhi 0 65536) = false
      ∧ Instr.wf (.jred 7 0 .add) = false ∧ Instr.wf (.ballot 7 0 false) = false ∧ Instr.wf (.ballot 8 16 false) = false
      ∧ Instr.wf (.grow 9 0 0) = false ∧ Instr.wf (.grow 6 0 0) = false ∧ Instr.wf (.sld 7 0 0 .b32 0) = false
      ∧ Instr.wf (.sld 8 1 0 .b32 0) = false ∧ Instr.wf (.sld 8 0 0 .b8 0) = false ∧ Instr.wf (.sld 9 0 0 .b64 0) = false
      ∧ Instr.wf (.mmovSm 7 0) = false ∧ Instr.wf (.mmovSm 8 12) = false ∧ Instr.wf (.mmovMs 12 0) = false
      ∧ Instr.wf (.mmovMm 12 0) = false ∧ Instr.wf (.mmovMm 0 12) = false ∧ Instr.wf (.tstat 7 0) = false := by decide

theorem test_wf_refuses_orders :
    Instr.wf (.atom 0 1 .add .bsn .relaxed 0) = false ∧ Instr.wf (.atom 0 2 .add .pkg .relaxed 0) = false
      ∧ Instr.wf (.atoms 0 1 .add .pkg .acq 0) = false ∧ Instr.wf (.fence .pkg .relaxed) = false
      ∧ Instr.wf (.copy 7 .bsn .relaxed) = false ∧ Instr.wf (.copy 0 .bsn .relaxed) = false
      ∧ Instr.wf (.copy 8 .pkg .relaxed) = false ∧ Instr.wf (.copy 8 .pkg .acq) = false
      ∧ Instr.wf (.waitge 1 2 .pkg .acq) = false ∧ Instr.wf (.waitge 2 1 .pkg .acq) = false
      ∧ Instr.wf (.waitge 2 4 .pkg .rel) = false ∧ Instr.wf (.ctradd 1 2 .pkg .rel) = false
      ∧ Instr.wf (.ctradd 2 1 .pkg .rel) = false ∧ Instr.wf (.ctradd 2 4 .pkg .acq) = false
      ∧ Instr.wf (.cas 2 4 .pkg .relaxed 0) = false := by decide

theorem test_wf_refuses_codes :
    Instr.wf (.winb 0) = false ∧ Instr.wf (.winb 300) = false ∧ Instr.wf (.winb 512) = false ∧ Instr.wf (.winb 480) = true
      ∧ Instr.wf (.setfmt 1024) = false ∧ Instr.wf (.setfmt 9) = false ∧ Instr.wf (.setfmt 1) = false
      ∧ Instr.wf (.setfmt 0x90) = false ∧ Instr.wf (.cvt 0 1 .f32f16 true .rn) = false
      ∧ Instr.wf (.cvt 0 1 .f32f16 false .rz) = false ∧ Instr.wf (.fdot2 0 1 2 .f32 .rn) = false
      ∧ Instr.wf (.txa 256) = false ∧ Instr.wf (.mfs 0 0x19) = false ∧ Instr.wf (.mts 0 0x180) = false
      ∧ Instr.wf (.mfs 0 0x40) = false := by decide

theorem test_wf_refuses_units :
    Instr.wf (.rsvi 8) = false ∧ Instr.wf (.rsvu 8 0 0) = false ∧ Instr.wf (.rsvu 0 1 0) = false
      ∧ Instr.wf (.rsvm 8 0 0 0) = false ∧ Instr.wf (.rsvm 0 8 0 0) = false ∧ Instr.wf (.rsvf 0 8) = false
      ∧ Instr.wf (.rsvld 8 0 0 .g 0) = false ∧ Instr.wf (.rsvld 0 1 0 .g 0) = false ∧ Instr.wf (.rsvst 8 0 0 .g) = false
      ∧ Instr.wf (.rsvst 0 1 0 .g) = false ∧ Instr.wf (.rsvst 0 1 0 .s) = true ∧ Instr.wf (.rsvxGet 0 8 .pay) = false
      ∧ Instr.wf (.rsvxSet 8 0 .pay) = false ∧ Instr.wf (.mmavVv 32 0 0) = false ∧ Instr.wf (.mmavVv 0 121 0) = false
      ∧ Instr.wf (.mmavVv 0 0 121) = false ∧ Instr.wf (.mmavVt 32 0 0) = false ∧ Instr.wf (.mmavVt 0 121 0) = false
      ∧ Instr.wf (.mmavVt 0 0 64) = false ∧ Instr.wf (.mloop 32 0 0 1) = false ∧ Instr.wf (.mloop 0 64 0 1) = false
      ∧ Instr.wf (.mloop 0 0 64 1) = false ∧ Instr.wf (.mloop 0 0 0 0) = false ∧ Instr.wf (.mwait 32) = false
      ∧ Instr.wf (.tmovDef 64 0) = false ∧ Instr.wf (.tmovDef 0 1) = false ∧ Instr.wf (.tmovRd 0 64 0) = false
      ∧ Instr.wf (.tmovWr 64 0 0) = false ∧ Instr.wf (.tmovRel 64) = false ∧ Instr.wf (.amovRd 0 32 0) = false
      ∧ Instr.wf (.amovWr 32 0 0) = false ∧ Instr.wf (.amovZero 32) = false ∧ Instr.wf (.amovTile 64 0) = false
      ∧ Instr.wf (.amovTile 0 32) = false ∧ Instr.wf (.tstat 8 64) = false := by decide

theorem test_wf_refuses_rays_and_events :
    Instr.wf (.trace 0 119 0) = false ∧ Instr.wf (.trwait 121 0) = false ∧ Instr.wf (.trrec 121 0 0) = false
      ∧ Instr.wf (.texf 125 0 8 0) = false ∧ Instr.wf (.texf 0 126 8 0) = false ∧ Instr.wf (.texf 0 0 0 0) = false
      ∧ Instr.wf (.texf 0 0 9 0) = false ∧ Instr.wf (.hgrid 0 126 8 0) = false ∧ Instr.wf (.hgrid 0 0 4 0) = false
      ∧ Instr.wf (.waitgeSatisfied 0 0 32) = false ∧ Instr.wf (.txCommit 0 0 32) = false
      ∧ Instr.wf (.timeout 0 0 32) = false ∧ Instr.wf (.contextDescriptorWrite 0 0 3 0) = false
      ∧ Instr.wf (.queueDescriptorWrite 0 0 0 16 0) = false ∧ Instr.wf (.controlSpaceWrite 0 0 0) = false := by decide

/-! ### Words written out in the spec's chapters 05 and 06 decode to their instructions -/

/-- The instruction that a word decodes to. -/
def dec (w : Word) : Option Instr := decodeBytes (bytesOfWord w)

theorem test_decode_control :
    dec 0x0208_0003 = some (.grd 2 false 3) ∧ dec 0x0208_0800 = some (.grd 2 true 0) ∧ dec 0x0400_0002 = some (.bra 2)
      ∧ dec 0x0607_FFFD = some (.brc false 1 0x3FFFD) ∧ dec 0x0644_0003 = some (.brc true 1 3)
      ∧ dec 0x0A00_001A = some (.call 26) ∧ dec 0x0E00_0000 = some .ret ∧ dec 0x1000_0000 = some .exit
      ∧ dec 0x1218_0000 = some (.mark 6) ∧ dec 0x1A00_7000 = some (.bar 0 14) ∧ dec 0x1A04_6001 = some (.barArrive 1 12)
      ∧ dec 0x1E00_3800 = some (.reord 7) ∧ dec 0x1C00_0040 = some (.winb 64) := by decide

theorem test_decode_integers :
    dec 0x2028_5060 = some (.iadd 10 10 6 .wrap) ∧ dec 0x2A20_47FD = some (.iaddi 8 8 0x7FD)
      ∧ dec 0x4804_50C0 = some (.icmp 1 10 12 .eq) ∧ dec 0x4804_1036 = some (.icmp 1 2 3 .ltu)
      ∧ dec 0x4804_1039 = some (.icmp 1 2 3 .geu) ∧ dec 0x3610_1011 = some (.shlI 4 2 1)
      ∧ dec 0x3821_A090 = some (.shr 8 52 9) ∧ dec 0x4A18_3072 = some (.sel 6 6 7 2)
      ∧ dec 0x4C40_0001 = some (.movi 16 1) ∧ dec 0x9E08_0000 = some (.idr 2 .lane) := by decide

theorem test_decode_floats :
    dec 0x500C_1840 = some (.fadd 3 3 4 .f32 .rn) ∧ dec 0x540C_0820 = some (.fmul 3 1 2 .f32 .rn)
      ∧ dec 0x5610_0820 = some (.ffma 4 1 2 .f32 .rn) ∧ dec 0x5289_1210 = some (.fsub 34 34 33 .f32 .rn)
      ∧ dec 0x5AA1_4290 = some (.fmax 40 40 41 .f32) ∧ dec 0x7640_48B0 = some (.fdiv 16 9 11)
      ∧ dec 0x663C_7800 = some (.rsq 15 15) ∧ dec 0x6885_0800 = some (.sqrt 33 33) := by decide

theorem test_decode_uniform_and_predicates :
    dec 0x9228_0800 = some (.ballot 10 1 false) ∧ dec 0x9030_7008 = some (.jred 12 14 .fadd)
      ∧ dec 0x9020_100B = some (.jred 8 2 .first) ∧ dec 0x9620_82CC = some (.sld 8 16 0x2C .b64 0)
      ∧ dec 0x9A10_4000 = some (.pmovPv 4 8) ∧ dec 0x9A14_2001 = some (.pmovVp 5 4)
      ∧ dec 0x9C00_6001 = some (.mmovMs 0 12) ∧ dec 0x9C4C_0000 = some (.mmovSm 19 0) := by decide

theorem test_decode_memory :
    dec 0xA018_200B = some (.ldG 6 4 0 .b32 3) ∧ dec 0xA418_5009 = some (.lds 6 10 0 .b32 1)
      ∧ dec 0xA200_C408 = some (.stG 0 24 0x40 .b32) ∧ dec 0xA650_B00C = some (.sts 20 22 0 .b64)
      ∧ dec 0xA81C_4760 = some (.atom 7 8 .exch .pkg .rel 0) ∧ dec 0xA870_F500 = some (.atom 28 30 .or .bsn .relaxed 0)
      ∧ dec 0xAC18_2028 = some (.ldnr 6 4 2 .b32 0) ∧ dec 0xAE00_7000 = some (.pgreq 14)
      ∧ dec 0xB000_0006 = some (.fence .pkg .rel) ∧ dec 0xB000_0003 = some (.fence .bsn .ar)
      ∧ dec 0xB200_8000 = some (.copy 16 .bsn .relaxed) ∧ dec 0xBA28_2072 = some (.cas 10 4 .pkg .ar 2) := by decide

theorem test_decode_transactions_and_reservoirs :
    dec 0xC000_0000 = some .txb ∧ dec 0xC000_0001 = some .txbIrr ∧ dec 0xC400_0005 = some (.txa 5)
      ∧ dec 0xC62C_0000 = some (.txq 11) ∧ dec 0xC800_0000 = some (.rsvi 0) ∧ dec 0xCA00_60E0 = some (.rsvu 0 12 14)
      ∧ dec 0xCC00_09A5 = some (.rsvm 0 1 26 5) ∧ dec 0xCE78_0000 = some (.rsvf 30 0)
      ∧ dec 0xD004_E004 = some (.rsvld 1 28 0 .s 0) ∧ dec 0xD201_0000 = some (.rsvst 0 32 0 .g)
      ∧ dec 0xD444_0003 = some (.rsvxGet 17 0 .mf) ∧ dec 0xD460_0800 = some (.rsvxGet 24 1 .pay)
      ∧ dec 0xD600_50B0 = some (.drawSeed 10 11) ∧ dec 0xD648_0002 = some (.drawCtr 18) := by decide

theorem test_decode_matrix :
    dec 0xD800_0011 = some (.setfmt 0x11) ∧ dec 0xDA08_8200 = some (.mmavVv 2 16 32)
      ∧ dec 0xDA04_4021 = some (.mmavVt 1 8 2) ∧ dec 0xDC00_0012 = some (.mloop 0 0 1 2)
      ∧ dec 0xDE0C_0000 = some (.mwait 3) ∧ dec 0xE000_0000 = some .mrdy ∧ dec 0xE204_D000 = some (.tmovDef 1 26)
      ∧ dec 0xE200_50C2 = some (.tmovWr 0 10 12) ∧ dec 0xE4A0_0A20 = some (.amovRd 40 1 34)
      ∧ dec 0xE401_4221 = some (.amovWr 0 40 34) ∧ dec 0xE404_0002 = some (.amovZero 1)
      ∧ dec 0xE408_0003 = some (.amovTile 2 0) := by decide

theorem test_decode_traversal_filter_and_system :
    dec 0xE8A0_80C0 = some (.trace 40 16 12) ∧ dec 0xEAC1_4000 = some (.trwait 48 40)
      ∧ dec 0xEE01_4000 = some (.trcan 40) ∧ dec 0xF200_A000 = some (.asupd 20) ∧ dec 0xF680_2080 = some (.hgrid 32 4 8 0)
      ∧ dec 0xF820_0000 = some (.mfs 8 0) ∧ dec 0xFA2C_0030 = some (.mts 11 0x30) ∧ dec 0xFC00_0012 = some (.trap 0x12)
      ∧ dec 0xFC01_0007 = some (.trapBrk 7) ∧ dec 0xFE00_0000 = some .eret := by decide

/-- Reserved encodings trap ILLEGAL at decode (R99): no row, a bad window base, one above 480. -/
theorem test_decode_refuses : dec 0x7C00_0000 = none ∧ dec 0x1C00_012C = none ∧ dec 0x1C00_0200 = none := by decide

/-! ### Small states, and single steps on them -/

/-- A module that runs one jet of 32 threads at 0x1_0000. -/
def base : State := State.reset.loaded 0

/-- Its jet. -/
def jet0 : Jet := { newJet loadedLaunch 0 0 0 0 with run := .active }

/-- A basin with jet `J` alone. -/
def basinOf (J : Jet) : Basin := { loadedBasin with jets := [(0, J)] }

/-- An issue of lanes 0 and 1 of jet `J` of basin `B`. -/
def issuing (B : Basin) (J : Jet) : State :=
  { base with
    basins := [(0, { B with jets := [(0, J)] })]
    cur := { basin := 0, jet := 0, group := 3, exec := 3, pc := 0x10000, window := false } }

/-- The sample issue. -/
def sample : State := issuing loadedBasin jet0

/-- The state after an outcome. -/
def after (o : Host.Outcome State Fault Refusal) : State :=
  match o with
  | .next t => t
  | .fault _ | .refused _ => {}

/-- A register of a lane of the sample jet, numbered as an instruction names it. -/
def lane (s : State) (l r : Nat) : Word := ((s.thread? 0 0 l).map fun (T : Thread) => T.word (mapReg 32 r)).getD 0

/-- A jet with the given registers in lane 0. -/
def with0 (ws : List (Nat × Word)) : Jet :=
  { jet0 with threads := jet0.threads.modify 0 fun T => ws.foldl (fun (T : Thread) e => T.setWord (mapReg 32 e.1) e.2) T }

/-- One issue of `i` by lanes 0 and 1 with the given registers in lane 0. -/
def run (i : Instr) (ws : List (Nat × Word)) : State := after (exec i (issuing loadedBasin (with0 ws)))

/-- R58: the word at the program counter is fetched and executed; `MOVI v3, 8` (chapter 06). -/
theorem test_step_movi : lane (after (step (State.reset.withFetchWord 32 0x4C0C_0008))) 31 3 = 8 := by decide

/-- R143: `BRA` with offset −1 returns to itself less one word. -/
theorem test_step_bra :
    ((after (step (State.reset.withFetchWord 32 0x05FF_FFFF))).thread? 0 0 7).map (·.pc) = some 0xFFFC := by decide

/-- R379, R380: `TRAP 0x12` enters the handler with cause 9 and the code above it. -/
theorem test_step_trap :
    ((after (step (State.reset.withFetchWord 32 0xFC00_0012))).jet? 0 0).map (fun J => (J.sys, J.cause))
      = some (true, 0x0012_0009) := by decide

/-- R99, Table 25.1: a reserved word is ILLEGAL, cause 1. -/
theorem test_step_reserved :
    ((after (step (State.reset.withFetchWord 32 0x7C00_0000))).jet? 0 0).map (fun J => (J.sys, J.cause)) = some (true, 1) := by
  decide

/-- Table 7.5: wrapping, and saturation at the bounds of the two ranges. -/
theorem test_iadd :
    lane (run (.iadd 3 4 5 .wrap) [(4, 0xFFFFFFFF), (5, 2)]) 0 3 = 1
      ∧ lane (run (.iadd 3 4 5 .ssat) [(4, 0x7FFFFFFF), (5, 1)]) 0 3 = 0x7FFFFFFF
      ∧ lane (run (.iadd 3 4 5 .nsat) [(4, 0xFFFFFFFF), (5, 2)]) 0 3 = 0xFFFFFFFF := by decide

/-- R127: width 0 gives 0; a field past bit 31 is cut, and the signed form repeats bit 31. -/
theorem test_bfe :
    lane (run (.bfe 3 4 5 .n32) [(4, 0xFFFFFFFF), (5, 4)]) 0 3 = 0
      ∧ lane (run (.bfe 3 4 5 .n32) [(4, 0x80000000), (5, 0x081C)]) 0 3 = 8
      ∧ lane (run (.bfe 3 4 5 .s32) [(4, 0x80000000), (5, 0x081C)]) 0 3 = 0xFFFFFFF8 := by decide

/-- R128, R119: 1 + 2^−24 is a tie that goes to even; towards plus infinity it goes up. -/
theorem test_fadd :
    lane (run (.fadd 3 4 5 .f32 .rn) [(4, 0x3F800000), (5, 0x33800000)]) 0 3 = 0x3F800000
      ∧ lane (run (.fadd 3 4 5 .f32 .ru) [(4, 0x3F800000), (5, 0x33800000)]) 0 3 = 0x3F800001 := by decide +kernel

/-- Table 24.6: the draws with key 7. -/
theorem test_draws : (List.range 5).map (fun c => drawValue 7 (BitVec.ofNat 32 c))
    = [0x34BDED11, 0x3B0854A0, 0x4FCF571E, 0x093DD74A, 0x00713DA3] := by decide

/-- Table 24.7, pixel 0, candidate A: weight 1 in an empty reservoir is kept (R370); rsv0 lies in words 508 to 511. -/
theorem test_rsvu :
    ((run (.rsvu 0 10 12) [(10, 0), (11, 0x3F800000), (12, 0x3F800000)]).thread? 0 0 0).map
      (fun T => (T.word 509, T.word 510, T.word 511)) = some (0x3F800000, 0x3F800000, 0x01000001) := by decide +kernel

/-- R176, R190: of two lanes that store to one address the higher one stands, in one request. -/
theorem test_store_order :
    ((run (.stG 3 4 0 .b8) [(3, 0xAA), (4, 0), (5, 0)]).jet? 0 0).map
      (fun J => J.storeQ.map fun q => q.data.map fun e => (e.1, e.2.val)) = some [[(0, 0)]] := by decide

/-- R181: `ATOMS.add` of lanes 0 and 1 on one scratchpad word adds both. -/
theorem test_atoms :
    ((run (.atoms 3 4 .add .bsn .relaxed 0) [(3, 5)]).basins.get? 0).map (fun B => B.scrNat 0 4) = some 5 := by decide

/-- R251: `TXB` starts a transaction in its lanes only. -/
theorem test_txb :
    ((run .txb []).thread? 0 0 1).map (fun T => (T.tx.depth, T.tx.txbpc)) = some (1, 0x10000)
      ∧ ((run .txb []).thread? 0 0 2).map (fun T => T.tx.depth) = some 0 := by decide

/-! ### States that meet the hypotheses of the statements -/

/-- Lanes 0 and 1 execute in a sample issue, and no others. -/
theorem executes_iff (B : Basin) (J : Jet) (l : Nat) : (issuing B J).executes l = true ↔ l = 0 ∨ l = 1 := by
  by_cases h : l < 32
  · revert h
    revert l
    show ∀ l, l < 32 → ((3#32).getLsbD l = true ↔ l = 0 ∨ l = 1)
    decide
  · have : (issuing B J).executes l = false := BitVec.getLsbD_of_ge _ _ (by omega)
    simp [this]
    omega

/-- What holds of lanes 0 and 1 holds of every executing lane. -/
theorem of_lanes {B : Basin} {J : Jet} {P : Nat → Prop} (h0 : P 0) (h1 : P 1) (l : Nat)
    (h : (issuing B J).executes l = true) : P l := by
  rcases (executes_iff B J l).1 h with rfl | rfl <;> assumption

/-- A thread that is found is listed. -/
theorem mem_of_get? {β : Type} : ∀ {c : Cells β} {k : Nat} {v : β}, c.get? k = some v → (k, v) ∈ c
  | [], _, _, h => by simp at h
  | (k', v') :: rest, k, v, h => by
    simp only [Cells.get?] at h
    split at h
    · cases h
      subst k'
      simp
    · split at h
      · cases h
      · exact List.mem_cons_of_mem _ (mem_of_get? h)

/-- A sample issue with no pending operation passes every check for operands that its jet has. -/
theorem issuing_issues (B : Basin) (J : Jet) (o : Operands) (hl : J.longs = []) (hr : regsOk B.shape J.wb o = true) :
    Issues (issuing B J) o { B with jets := [(0, J)] } J where
  basin := rfl
  jet := rfl
  allowed := by simp [issuing]
  registers := hr
  lanes := by
    show (3#32) ≠ 0
    decide
  landed := by simp [hl, writesPending]
  operands := by simp [hl, operandsPending]
  seen := by simp [hl, Operands.seen, uniformSeen]

/-- The same for the sample. -/
theorem sample_issues (o : Operands) (hr : regsOk loadedShape 32 o = true) : Issues sample o (basinOf jet0) jet0 :=
  issuing_issues loadedBasin jet0 o rfl hr

theorem sample_noTransaction : NoTransaction sample jet0 := fun l T h _ =>
  (by decide : ∀ e ∈ jet0.threads, e.2.inTx = false) (l, T) h

theorem jet0_ordered : jet0.Ordered := ⟨by decide, by decide⟩

/-- The sample in system mode. -/
def sysJet : Jet := { jet0 with sys := true, handler := .trap }

theorem sys_issues (o : Operands) (hr : regsOk loadedShape 32 o = true) :
    Issues (issuing loadedBasin sysJet) o (basinOf sysJet) sysJet := issuing_issues loadedBasin sysJet o rfl hr

/-- O1, O3, O4: two and three sources, at the ends of the register range. -/
theorem witness_two_sources :
    Issues sample { named := [127, 0, 127], reads := [0, 127] } (basinOf jet0) jet0
      ∧ Issues sample { named := [0, 127, 127], reads := [127, 127, 0] } (basinOf jet0) jet0 :=
  ⟨sample_issues _ (by decide), sample_issues _ (by decide)⟩

/-- O2, O4: no source, one, pairs, a pair and two words, a comparison, a selection. -/
theorem witness_other_forms :
    Issues sample { named := [127] } (basinOf jet0) jet0
      ∧ Issues sample { named := [127, 0], reads := [0] } (basinOf jet0) jet0
      ∧ Issues sample { named := [126, 127, 0, 1, 126, 127], reads := [0, 1, 126, 127] } (basinOf jet0) jet0
      ∧ Issues sample { named := [126, 127, 0, 5], reads := [0, 5, 126, 127] } (basinOf jet0) jet0
      ∧ (15 < 16 ∧ Issues sample { named := [0, 127], reads := [0, 127] } (basinOf jet0) jet0)
      ∧ Issues sample { named := [3, 4, 5], reads := [4, 5], preds := [15] } (basinOf jet0) jet0 :=
  ⟨sample_issues _ (by decide), sample_issues _ (by decide), sample_issues _ (by decide), sample_issues _ (by decide),
    ⟨by decide, sample_issues _ (by decide)⟩, sample_issues _ (by decide)⟩

/-- O5. -/
theorem witness_UniformInstructions :
    Issues sample { ureads := [0, 127] } (basinOf jet0) jet0
      ∧ (Issues sample { ureads := [126, 127, 0, 1] } (basinOf jet0) jet0 ∧ 8 ≤ (8 : Reg).toNat)
      ∧ Issues sample {} (basinOf jet0) jet0 ∧ Issues sample { ureads := [8] } (basinOf jet0) jet0
      ∧ Issues sample { preds := [15] } (basinOf jet0) jet0
      ∧ Issues sample { named := [127], reads := [127] } (basinOf jet0) jet0 :=
  ⟨sample_issues _ (by decide), ⟨sample_issues _ (by decide), by decide⟩, sample_issues _ (by decide),
    sample_issues _ (by decide), sample_issues _ (by decide), sample_issues _ (by decide)⟩

/-- O6. -/
theorem witness_PredicatesAndIdentity :
    Issues sample { preds := [15, 0] } (basinOf jet0) jet0 ∧ Issues sample { named := [127], preds := [15] } (basinOf jet0) jet0
      ∧ Issues sample { named := [126, 127] } (basinOf jet0) jet0 :=
  ⟨sample_issues _ (by decide), sample_issues _ (by decide), sample_issues _ (by decide)⟩

/-- O7, O8, O9: transfers, guards, `WINB`, `SETFMT`, and `REORD` in both modes. -/
theorem witness_control :
    Issues sample { named := [28, 29], barred := true } (basinOf jet0) jet0
      ∧ Issues sample { named := [28, 29, 126, 127], reads := [126, 127], barred := true } (basinOf jet0) jet0
      ∧ Issues sample { named := [28, 29], reads := [28, 29], barred := true } (basinOf jet0) jet0
      ∧ Issues sample { preds := [15], barred := true } (basinOf jet0) jet0
      ∧ Issues sample { barred := true, ends := true } (basinOf jet0) jet0
      ∧ (Issues sample { named := [7], reads := [7], barred := true, ends := true } (basinOf jet0) jet0 ∧ jet0.sys = false
        ∧ NoTransaction sample jet0)
      ∧ Issues (issuing loadedBasin sysJet) { named := [7], reads := [7], barred := true, ends := true } (basinOf sysJet) sysJet
      ∧ sysJet.sys = true :=
  ⟨sample_issues _ (by decide), sample_issues _ (by decide), sample_issues _ (by decide), sample_issues _ (by decide),
    sample_issues _ (by decide), ⟨sample_issues _ (by decide), rfl, sample_noTransaction⟩, sys_issues _ (by decide), rfl⟩

/-- O9: a listed thread of a jet in order. -/
theorem witness_GuardBit : jet0.Ordered ∧ (jet0.threads.get? 31).isSome = true := ⟨jet0_ordered, by decide⟩

/-- The sample jet with a store still in its queue. -/
def storing : Jet := { jet0 with storeQ := [{ tag := 0, va := 0, pa := none, data := [] }] }

/-- The same for the sample jet with registers and a store in its queue. -/
theorem storing_issues (o : Operands) (hr : regsOk loadedShape 32 o = true) :
    Issues (issuing loadedBasin storing) o (basinOf storing) storing := issuing_issues loadedBasin storing o rfl hr

theorem storing_noTransaction : NoTransaction (issuing loadedBasin storing) storing := sample_noTransaction

/-- O10, with mask 11; the executing lanes are those of the group; a jet that has drained, and one that has not. -/
theorem witness_Masks :
    Issues sample { ureads := [127] } (basinOf jet0) jet0 ∧ jet0.Ordered ∧ (11 : Reg).toNat < 12
      ∧ Issues sample { ends := true } (basinOf jet0) jet0 ∧ jet0.sys = false ∧ NoTransaction sample jet0
      ∧ (∀ l, sample.executes l = true → sample.issues l = true) ∧ jet0.drained .bsn = true
      ∧ (Issues (issuing loadedBasin storing) { ends := true } (basinOf storing) storing ∧ storing.Ordered
        ∧ storing.drained .bsn = false ∧ NoTransaction (issuing loadedBasin storing) storing)
      ∧ Issues (issuing loadedBasin sysJet) { ends := true } (basinOf sysJet) sysJet :=
  ⟨sample_issues _ (by decide), jet0_ordered, by decide, sample_issues _ (by decide), rfl, sample_noTransaction,
    fun _ h => h, by decide, ⟨storing_issues _ (by decide), ⟨by decide, by decide⟩, by decide, storing_noTransaction⟩,
    sys_issues _ (by decide)⟩

/-- O11. -/
theorem witness_ExitEndsThreads :
    Issues sample { barred := true, ends := true } (basinOf jet0) jet0 ∧ jet0.handler ≠ .save
      ∧ sample.unpublished sample.cur.basin sample.cur.jet sample.cur.exec false = false
      ∧ sample.lastExitWaits sample.cur.basin sample.cur.jet sample.cur.exec = false
      ∧ ∀ e ∈ (basinOf jet0).jets, e.2.run ≠ .saved :=
  ⟨sample_issues _ (by decide), by decide, by decide, by decide, by decide⟩

/-- O12: a jet that has not drained. -/
theorem witness_BarrierWaits :
    Issues (issuing loadedBasin storing) { ureads := [14], ends := true } (basinOf storing) storing ∧ storing.sys = false
      ∧ NoTransaction (issuing loadedBasin storing) storing ∧ storing.drained .bsn = false :=
  ⟨storing_issues _ (by decide), rfl, storing_noTransaction, by decide⟩

/-- O12: two arrivals of a count of 1, which completes two phases, of 2, and of 32, the most that one jet allows. -/
theorem witness_BarrierArrivals (n : Nat) (hn : n = 1 ∨ n = 2 ∨ n = 32) :
    let J : Jet := { jet0 with sregs := [(14, BitVec.ofNat 32 n)] }
    let s := issuing loadedBasin J
    let K : Barrier := Cells.get {} (basinOf J).barriers 15
    let cnt := (J.sreg 14).toNat
    Issues s { ureads := [14], ends := true } (basinOf J) J ∧ J.sys = false ∧ NoTransaction s J ∧ J.drained .bsn = true
      ∧ (∀ l, s.executes l = true → (J.threads.get? l).isSome = true ∧ s.issues l = true) ∧ K.err = false ∧ 1 ≤ cnt
      ∧ cnt ≤ 32 * (basinOf J).shape.jets ∧ cnt < 2048 ∧ (K.arrived = 0 ∨ K.count = cnt) ∧ K.arrived < cnt := by
  rcases hn with rfl | rfl | rfl <;>
  · refine ⟨issuing_issues loadedBasin _ _ rfl (by decide), rfl, fun l T h _ => ?_, by decide, fun l h => ?_, rfl, by decide,
      by decide, by decide, .inl rfl, by decide⟩
    · exact (by decide : ∀ e ∈ jet0.threads, e.2.inTx = false) (l, T) h
    · exact of_lanes (P := fun l => (jet0.threads.get? l).isSome = true ∧ (3#32).getLsbD l = true) (by decide) (by decide) l h

/-- A walk that starts at no resident context's tables ends at no leaf. -/
theorem accessed_of {s : State} {c va : Nat} {acc : Access} {k : Nat} {z : Bool}
    (h : State.findLeaf { s with token := { s.token with lines := [] } } va 3 (s.root c) = .fault k z) : Accessed s c va acc := by
  intro a e level he
  rw [h] at he
  cases he

/-- O13, O20: the addresses of the sample issue are 0 in every lane: aligned, in range, and in the loaded tables not mapped. -/
theorem witness_LoadsIssue :
    Issues sample { named := [6, 7, 4, 5], reads := [4, 5] } (basinOf jet0) jet0
      ∧ Issues sample { ureads := [16, 17] } (basinOf jet0) jet0 ∧ NoTransaction sample jet0
      ∧ sample.full (lineCount ((lanesOf sample.cur.exec).map fun l =>
          jet0.vpair l 4 + BitVec.ofInt 64 ((0 : Reg).toInt * 8))) = false ∧ sample.full 1 = false
      ∧ (∀ l, sample.executes l = true → (jet0.vpair l 4 + BitVec.ofInt 64 ((0 : Reg).toInt * 8)).toNat < 2 ^ 48
          ∧ (jet0.vpair l 4 + BitVec.ofInt 64 ((0 : Reg).toInt * 8)).toNat % 8 = 0)
      ∧ (jet0.spair 16).toNat < 2 ^ 48 ∧ (jet0.spair 16).toNat % 8 = 0 ∧ Accessed sample 0 0 .read
      ∧ Accessed sample 0 0x10000 .write := by
  refine ⟨sample_issues _ (by decide), sample_issues _ (by decide), sample_noTransaction, by decide, by decide,
    of_lanes (by decide) (by decide), by decide, by decide, accessed_of (k := 1) (z := true) (by decide), ?_⟩
  intro a e level he
  have h : State.findLeaf { sample with token := { sample.token with lines := [] } } 0x10000 3 (sample.root 0)
      = .leaf 0x4080 (loadedLeaf 0x10000) 0 := by decide
  rw [h] at he
  cases he
  decide

/-- The sample with an address in v4:v5 of lane 0 and in s16:s17. -/
def jetAt (va : Dword) : Jet :=
  { with0 [(4, va.extractLsb' 0 32), (5, va.extractLsb' 32 32)] with
    sregs := [(16, va.extractLsb' 0 32), (17, va.extractLsb' 32 32)] }

theorem noTransaction_of {B : Basin} {J : Jet} (h : ∀ e ∈ J.threads, e.2.inTx = false) : NoTransaction (issuing B J) J :=
  fun l T hT _ => h (l, T) hT

/-- O14: lane 0 at 2^48, the first address out of range, and at an odd address, lane 1 at 0; the uniform address alike. -/
theorem witness_BadAddressesTrap (va : Dword) (kind : BitVec 4)
    (h : (va = 0x1000000000000 ∧ kind = 7) ∨ (va = 1 ∧ kind = 8)) :
    let J := jetAt va
    let s := issuing loadedBasin J
    let kinds := fun (n l : Nat) => globalKind (J.vpair l 4 + BitVec.ofInt 64 ((0 : Reg).toInt * (n : Int))) n
    NoTransaction s J
      ∧ (∀ n ∈ ([4, 8, 16] : List Nat), (lanesOf s.cur.exec).filter (fun l => (kinds n l).isSome) = 0 :: [] ∧ kinds n 0 = some kind
          ∧ globalKind (J.spair 16 + BitVec.ofInt 64 ((0 : Reg).toInt * (n : Int))) n = some kind)
      ∧ Issues s { named := [6, 4, 5], reads := [4, 5] } (basinOf J) J
      ∧ Issues s { named := [6, 4, 5], reads := [6, 4, 5] } (basinOf J) J
      ∧ Issues s { named := [6, 7, 4, 5], reads := [6, 7, 4, 5] } (basinOf J) J
      ∧ Issues s { ureads := [16, 17] } (basinOf J) J ∧ Issues s { ureads := [16, 17, 18, 19] } (basinOf J) J
      ∧ Issues s { named := [4, 5], reads := [4, 5], rsv := [7] } (basinOf J) J
      ∧ Issues s { named := [4, 5], reads := [4, 5], rsv := [7], rsvReads := [7] } (basinOf J) J := by
  rcases h with ⟨rfl, rfl⟩ | ⟨rfl, rfl⟩ <;>
  exact ⟨noTransaction_of (by decide), by decide, issuing_issues _ _ _ rfl (by decide), issuing_issues _ _ _ rfl (by decide),
    issuing_issues _ _ _ rfl (by decide), issuing_issues _ _ _ rfl (by decide), issuing_issues _ _ _ rfl (by decide),
    issuing_issues _ _ _ rfl (by decide), issuing_issues _ _ _ rfl (by decide)⟩

/-- O14, in the scratchpad of 2^19 bytes: lane 0 at an odd offset, and at its end. -/
theorem witness_BadOffsetsTrap (ea : Word) (kind : BitVec 4) (h : (ea = 1 ∧ kind = 8) ∨ (ea = 0x80000 ∧ kind = 9)) :
    let J := with0 [(4, ea)]
    let s := issuing loadedBasin J
    let kinds := fun (n l : Nat) => scratchKind (basinOf J).shape.scr (J.vreg l 4 + BitVec.ofInt 32 ((0 : Reg).toInt * (n : Int))) n
    (∀ n ∈ ([4, 8, 16] : List Nat), (lanesOf s.cur.exec).filter (fun l => (kinds n l).isSome) = 0 :: [] ∧ kinds n 0 = some kind)
      ∧ Issues s { named := [6, 4], reads := [4] } (basinOf J) J ∧ Issues s { named := [6, 4], reads := [6, 4] } (basinOf J) J
      ∧ Issues s { named := [4], reads := [4], rsv := [7] } (basinOf J) J
      ∧ Issues s { named := [4], reads := [4], rsv := [7], rsvReads := [7] } (basinOf J) J := by
  rcases h with ⟨rfl, rfl⟩ | ⟨rfl, rfl⟩ <;>
  exact ⟨by decide, issuing_issues _ _ _ rfl (by decide), issuing_issues _ _ _ rfl (by decide),
    issuing_issues _ _ _ rfl (by decide), issuing_issues _ _ _ rfl (by decide)⟩

/-- O15: two lanes that store four bytes each at 4; and `ST.g` of the sample, with its page unmapped. -/
theorem witness_StoresEnterTheQueue :
    (4 ∈ [1, 2, 4, 8] ∧ ∀ l, (3#32).getLsbD l = true →
      (4 : Dword).toNat < 2 ^ 48 ∧ (4 : Dword).toNat % 4 = 0 ∧ [1#8, 2#8, 3#8, 4#8].length = 4)
      ∧ Issues sample { named := [6, 7, 4, 5], reads := [6, 7, 4, 5] } (basinOf jet0) jet0 ∧ NoTransaction sample jet0
      ∧ sample.full (storeReqs sample jet0 jet0.irrLane (lanesOf sample.cur.exec)
          (fun l => jet0.vpair l 4 + BitVec.ofInt 64 ((0 : Reg).toInt * 8))
          fun l => (List.range 8).map fun i => (jet0.vpair l 6).extractLsb' (8 * i) 8).length = false
      ∧ (∀ l, sample.executes l = true → (jet0.vpair l 4 + BitVec.ofInt 64 ((0 : Reg).toInt * 8)).toNat < 2 ^ 48
          ∧ (jet0.vpair l 4 + BitVec.ofInt 64 ((0 : Reg).toInt * 8)).toNat % 8 = 0)
      ∧ Accessed sample 0 0 .write :=
  ⟨⟨by decide, fun _ _ => by decide⟩, sample_issues _ (by decide), sample_noTransaction, by decide,
    of_lanes (by decide) (by decide), accessed_of (k := 1) (z := true) (by decide)⟩

/-- O19, O32: the scratchpad at 0 in each lane, for words of 8 and of 16 bytes; a reservoir in global memory. -/
theorem witness_Scratchpads :
    Issues sample { named := [6, 7, 4], reads := [4] } (basinOf jet0) jet0
      ∧ Issues sample { named := [6, 7, 4], reads := [6, 7, 4] } (basinOf jet0) jet0
      ∧ Issues sample { named := [6, 4], reads := [6, 4] } (basinOf jet0) jet0
      ∧ (∀ l, sample.executes l = true → (jet0.vreg l 4 + BitVec.ofInt 32 ((0 : Reg).toInt * 8)).toNat % 8 = 0
          ∧ (jet0.vreg l 4 + BitVec.ofInt 32 ((0 : Reg).toInt * 8)).toNat + 8 ≤ (basinOf jet0).shape.scr)
      ∧ (∀ l, sample.executes l = true → (jet0.vreg l 4).toNat % 4 = 0
          ∧ (jet0.vreg l 4).toNat + 4 ≤ (basinOf jet0).shape.scr)
      ∧ (basinOf jet0).scratchPoison = [] ∧ Cells.wf (0 : Byte) (basinOf jet0).scratch = true ∧ jet0.drained .bsn = true
      ∧ jet0.scratchWaits sample.tick sample.cur.exec = false ∧ jet0.readsDone sample.tick sample.cur.exec = true :=
  ⟨sample_issues _ (by decide), sample_issues _ (by decide), sample_issues _ (by decide),
    of_lanes (by decide) (by decide), of_lanes (by decide) (by decide), rfl, rfl, by decide, by decide, by decide⟩

theorem witness_ReservoirMemory :
    Issues sample { named := [4, 5], reads := [4, 5], rsv := [7] } (basinOf jet0) jet0
      ∧ Issues sample { named := [4], reads := [4], rsv := [7] } (basinOf jet0) jet0
      ∧ Issues sample { named := [4, 5], reads := [4, 5], rsv := [7], rsvReads := [7] } (basinOf jet0) jet0
      ∧ Issues sample { named := [4], reads := [4], rsv := [7], rsvReads := [7] } (basinOf jet0) jet0
      ∧ NoTransaction sample jet0 ∧ jet0.scratchWaits sample.tick sample.cur.exec = false
      ∧ sample.full (lineCount ((lanesOf sample.cur.exec).map fun l =>
          jet0.vpair l 4 + BitVec.ofInt 64 ((0 : Reg).toInt * 16))) = false
      ∧ sample.full (storeReqs sample jet0 (fun _ => false) (lanesOf sample.cur.exec)
          (fun l => jet0.vpair l 4 + BitVec.ofInt 64 ((0 : Reg).toInt * 16))
          fun l => (List.range 16).map fun i =>
            ((((jet0.threads.get? l).map fun (T : Thread) => T.word (480 + i / 4)).getD 0).extractLsb' (8 * (i % 4)) 8)).length
          = false
      ∧ (∀ l, sample.executes l = true → (jet0.threads.get? l).isSome = true
          ∧ (jet0.vpair l 4 + BitVec.ofInt 64 ((0 : Reg).toInt * 16)).toNat < 2 ^ 48
          ∧ (jet0.vpair l 4 + BitVec.ofInt 64 ((0 : Reg).toInt * 16)).toNat % 16 = 0)
      ∧ ∀ l, sample.executes l = true → (jet0.threads.get? l).isSome = true
          ∧ (jet0.vreg l 4 + BitVec.ofInt 32 ((0 : Reg).toInt * 16)).toNat % 16 = 0
          ∧ (jet0.vreg l 4 + BitVec.ofInt 32 ((0 : Reg).toInt * 16)).toNat + 16 ≤ (basinOf jet0).shape.scr :=
  ⟨sample_issues _ (by decide), sample_issues _ (by decide), sample_issues _ (by decide), sample_issues _ (by decide),
    sample_noTransaction, by decide, by decide, by decide, of_lanes (by decide) (by decide), of_lanes (by decide) (by decide)⟩

/-- O20, with the conditions on addresses those of O13. -/
theorem witness_AtomicsIssue :
    Issues sample { named := [6, 4, 5], reads := [6, 4, 5] } (basinOf jet0) jet0
      ∧ Issues sample { named := [6, 7, 4, 5], reads := [6, 7, 4, 5] } (basinOf jet0) jet0
      ∧ Issues sample { ureads := [16, 17, 18, 19] } (basinOf jet0) jet0
      ∧ (∀ l, sample.executes l = true → (jet0.vpair l 4).toNat < 2 ^ 48 ∧ (jet0.vpair l 4).toNat % 4 = 0)
      ∧ sample.full (lineCount ((lanesOf sample.cur.exec).map fun l => jet0.vpair l 4)) = false :=
  ⟨sample_issues _ (by decide), sample_issues _ (by decide), sample_issues _ (by decide),
    of_lanes (by decide) (by decide), by decide⟩

/-- O22: a jet that has drained, and one with a store still queued. -/
theorem witness_FencesAndRequests :
    (Issues sample { ends := true } (basinOf jet0) jet0 ∧ NoTransaction sample jet0 ∧ jet0.drained .pkg = true
        ∧ jet0.readsDone sample.tick sample.cur.exec = true)
      ∧ (Issues (issuing loadedBasin storing) { ends := true } (basinOf storing) storing
        ∧ NoTransaction (issuing loadedBasin storing) storing ∧ storing.drained .pkg = false)
      ∧ Issues sample { named := [4, 5], reads := [4, 5] } (basinOf jet0) jet0
      ∧ sample.full 1 = false ∧ sample.pagesAsked (basinOf jet0).core + (lanesOf sample.cur.exec).length ≤ 64 :=
  ⟨⟨sample_issues _ (by decide), sample_noTransaction, by decide, by decide⟩,
    ⟨storing_issues _ (by decide), storing_noTransaction, by decide⟩, sample_issues _ (by decide), by decide, by decide⟩

/-- O24: `BCAST` with no uniform write pending. -/
theorem witness_Broadcasts :
    Issues sample { named := [127], ureads := [127], perLane := true } (basinOf jet0) jet0 :=
  sample_issues _ (by decide)

/-- O27, O29: transactions that begin, that nest, and that find no slot; the token free and held. -/
def jetTx (depth : Nat) (irr : Bool) : Jet :=
  { jet0 with
    slotHeld := true
    threads := jet0.threads.mapKeys fun _ (T : Thread) => { T with tx := { T.tx with depth := depth, irr := irr } } }

/-- The sample issue by lane 0 alone, with the token as given. -/
def alone (J : Jet) (tok : Token) : State :=
  { issuing loadedBasin J with
    token := tok, cur := { basin := 0, jet := 0, group := 1, exec := 1, pc := 0x10000, window := false } }

theorem alone_issues (J : Jet) (tok : Token) (o : Operands) (hl : J.longs = []) (hr : regsOk loadedShape J.wb o = true) :
    Issues (alone J tok) o (basinOf J) J where
  basin := rfl
  jet := rfl
  allowed := by simp [alone]
  registers := hr
  lanes := by
    show (1#32) ≠ 0
    decide
  landed := by simp [hl, writesPending]
  operands := by simp [hl, operandsPending]
  seen := by simp [hl, Operands.seen, uniformSeen]

theorem forall_get?_of {β : Type} {c : Cells β} {P : Nat → β → Prop} (h : ∀ e ∈ c, P e.1 e.2) (l : Nat) (v : β)
    (hv : c.get? l = some v) : P l v := h (l, v) (mem_of_get? hv)

theorem witness_TransactionsBegin :
    let slotless : Jet := jet0
    (Issues sample { ends := true } (basinOf slotless) slotless
      ∧ (0 < 32 ∧ sample.executes 0 = true ∧ (slotless.threads.get? 0).isSome = true)
      ∧ (∀ l T, slotless.threads.get? l = some T → sample.executes l = true → T.tx.depth = 0)
      ∧ sample.slotsHeld (basinOf slotless).core < 8 ∧ (∀ r ∈ sample.slotQ, r.1 ≠ (basinOf slotless).core))
      ∧ (Issues (issuing loadedBasin (jetTx 6 false)) { ends := true } (basinOf (jetTx 6 false)) (jetTx 6 false)
        ∧ (jetTx 6 false).slotHeld = true
        ∧ ∀ l T, (jetTx 6 false).threads.get? l = some T → (issuing loadedBasin (jetTx 6 false)).executes l = true →
            T.tx.depth < 7) :=
  ⟨⟨sample_issues _ (by decide), ⟨by decide, by decide, by decide⟩,
      fun l T h _ => forall_get?_of (P := fun _ T => T.tx.depth = 0) (by decide) l T h, by decide,
      by simp [sample, issuing, base, State.loaded]⟩,
    issuing_issues _ _ _ rfl (by decide), rfl,
    fun l T h _ => forall_get?_of (P := fun _ (T : Thread) => T.tx.depth < 7) (by decide) l T h⟩

/-- Eight jets of one core hold its slots. -/
def slotsTaken : State :=
  { issuing loadedBasin jet0 with
    basins := (0, basinOf jet0) :: (List.range 8).map fun k => (k + 1, basinOf { jet0 with slotHeld := true }) }

theorem witness_NoSlot :
    Issues slotsTaken { ends := true } (basinOf jet0) jet0 ∧ jet0.slotHeld = false
      ∧ (∀ l T, jet0.threads.get? l = some T → slotsTaken.executes l = true → T.tx.depth = 0)
      ∧ (0 < 32 ∧ (jet0.threads.get? 0).isSome = true ∧ slotsTaken.executes 0 = true)
      ∧ 8 ≤ slotsTaken.slotsHeld (basinOf jet0).core :=
  ⟨⟨rfl, rfl, by decide, by decide, by decide, by decide, by decide, by decide⟩, rfl,
    fun l T h _ => forall_get?_of (P := fun _ T => T.tx.depth = 0) (by decide) l T h, ⟨by decide, by decide, by decide⟩,
    by decide⟩

theorem witness_Irrevocable :
    let held : Token := { holder := some ⟨7, 0, 0⟩ }
    let J0 : Jet := { jet0 with slotHeld := true }
    (Issues (alone J0 {}) { ends := true } (basinOf J0) J0 ∧ J0.Ordered ∧ (J0.threads.get? 0).isSome = true
        ∧ (alone J0 {}).cur.exec = laneBit 0 ∧ (alone J0 {}).issues 0 = true ∧ J0.slotHeld = true
        ∧ (J0.threads.get? 0).map (·.tx.depth) = some 0 ∧ (alone J0 {}).token.holder = none ∧ (alone J0 {}).token.queue = [])
      ∧ (Issues (alone J0 held) { ends := true } (basinOf J0) J0 ∧ (alone J0 held).token.holder.isSome = true
        ∧ (alone J0 held).token.queue.length < 4096)
      ∧ (Issues (alone (jetTx 1 false) {}) { ends := true } (basinOf (jetTx 1 false)) (jetTx 1 false)
        ∧ ((jetTx 1 false).threads.get? 0).map (fun T => (T.tx.depth, T.tx.irr)) = some (1, false)
        ∧ (jetTx 1 false).slotHeld = true ∧ (jetTx 1 false).Ordered) :=
  ⟨⟨alone_issues _ _ _ rfl (by decide), ⟨by decide, by decide⟩, by decide, by decide, by decide, rfl, by decide, rfl, rfl⟩,
    ⟨alone_issues _ _ _ rfl (by decide), rfl, by decide⟩,
    ⟨alone_issues _ _ _ rfl (by decide), by decide, rfl, ⟨by decide, by decide⟩⟩⟩

/-- O29: a nested transaction, one at depth 0, an outermost one, and an aborting lane. -/
theorem witness_TransactionEnds :
    let s := issuing loadedBasin (jetTx 1 false)
    (Issues (issuing loadedBasin (jetTx 2 false)) { ends := true } (basinOf (jetTx 2 false)) (jetTx 2 false)
        ∧ (15 : Reg).toNat < 16 ∧ (jetTx 2 false).Ordered
        ∧ ∀ l T, (l, T) ∈ (jetTx 2 false).threads → T.tx.skip = 1 ∨ (T.tx.skip = 0 ∧ T.tx.depth ≠ 1))
      ∧ (Issues s { ends := true } (basinOf (jetTx 1 false)) (jetTx 1 false)
        ∧ (∀ l, s.executes l = true → ∃ T, (jetTx 1 false).threads.get? l = some T ∧ T.tx.skip = 0 ∧ T.tx.depth = 1
            ∧ T.tx.irr = false)
        ∧ (jetTx 1 false).Ordered ∧ (∀ l, s.executes l = true → s.issues l = true))
      ∧ (Issues s {} (basinOf (jetTx 1 false)) (jetTx 1 false)
        ∧ ∀ l T, (jetTx 1 false).threads.get? l = some T → T.inTx = true →
            s.token.holder ≠ some ⟨s.cur.basin, s.cur.jet, l⟩)
      ∧ Issues sample { named := [127] } (basinOf jet0) jet0 := by
  refine ⟨⟨issuing_issues _ _ _ rfl (by decide), by decide, ⟨by decide, by decide⟩, fun l T h =>
      (by decide : ∀ e ∈ (jetTx 2 false).threads, e.2.tx.skip = 1 ∨ (e.2.tx.skip = 0 ∧ e.2.tx.depth ≠ 1)) (l, T) h⟩,
    ⟨issuing_issues _ _ _ rfl (by decide), of_lanes ⟨_, rfl, rfl, rfl, rfl⟩ ⟨_, rfl, rfl, rfl, rfl⟩, ⟨by decide, by decide⟩,
      fun _ h => h⟩,
    ⟨issuing_issues _ _ _ rfl (by decide), fun _ _ _ _ h => nomatch h⟩, sample_issues _ (by decide)⟩

/-- O29: the irrevocable lane 0 at its outermost `TXE`, its accesses performed, and with a store still queued. -/
theorem witness_Publish :
    let held : Token := { holder := some ⟨0, 0, 0⟩, lines := [512] }
    let J := jetTx 1 true
    let K : Jet := { J with storeQ := [{ tag := 0, va := 0, pa := none, data := [], lanes := 1, irr := true }] }
    let publishes := fun T : Thread => decide (T.tx.skip = 0 ∧ T.tx.depth = 1) && T.tx.irr
    (Issues (alone J held) { ends := true } (basinOf J) J ∧ J.Ordered
        ∧ (alone J held).unpublished 0 0 ((alone J held).cur.exec &&& J.lanesWith publishes) true = false
        ∧ (∀ l T, (l, T) ∈ J.threads → (alone J held).executes l = true →
            T.tx.skip = 1 ∨ (T.tx.skip = 0 ∧ T.tx.depth ≠ 1) ∨ publishes T = true))
      ∧ (Issues (alone K held) { ends := true } (basinOf K) K
        ∧ (alone K held).unpublished 0 0 ((alone K held).cur.exec &&& K.lanesWith publishes) true = true) :=
  ⟨⟨alone_issues _ _ _ rfl (by decide), ⟨by decide, by decide⟩, by decide,
      fun l T h _ => (by decide : ∀ e ∈ (jetTx 1 true).threads, e.2.tx.skip = 1 ∨ (e.2.tx.skip = 0 ∧ e.2.tx.depth ≠ 1)
        ∨ (decide (e.2.tx.skip = 0 ∧ e.2.tx.depth = 1) && e.2.tx.irr) = true) (l, T) h⟩,
    ⟨alone_issues _ _ _ rfl (by decide), by decide⟩⟩

/-- O31, O33: reservoirs 0 and 7 of 8. -/
theorem witness_Reservoirs :
    Issues sample { rsv := [7] } (basinOf jet0) jet0
      ∧ Issues sample { named := [127], rsv := [7], rsvReads := [7] } (basinOf jet0) jet0
      ∧ Issues sample { named := [127], reads := [127], rsv := [7] } (basinOf jet0) jet0
      ∧ Issues sample { named := [10, 11, 12], reads := [10, 11, 12], rsv := [0], rsvReads := [0] } (basinOf jet0) jet0
      ∧ Issues sample { named := [12], reads := [12], rsv := [0, 7], rsvReads := [0, 7] } (basinOf jet0) jet0
      ∧ Issues sample { named := [10, 127], reads := [10, 127] } (basinOf jet0) jet0
      ∧ Issues sample { named := [127], reads := [127] } (basinOf jet0) jet0 :=
  ⟨sample_issues _ (by decide), sample_issues _ (by decide), sample_issues _ (by decide), sample_issues _ (by decide),
    sample_issues _ (by decide), sample_issues _ (by decide), sample_issues _ (by decide)⟩

/-! ### Accesses on their way -/

/-- The module with jet `J` and nothing in hand. -/
def holding (J : Jet) : State := { base with basins := [(0, basinOf J)] }

theorem base_sound : Sound base := ⟨by decide, by decide, by decide, by decide⟩

theorem sound_of {s : State} (hm : s.mem = base.mem) (hc : Cells.wf (0 : Byte) s.ctl = true)
    (hq : 1 ≤ s.wh.seq ∧ s.wh.seq ≤ 4294967295) (he : s.errors = []) : Sound s :=
  ⟨hm ▸ base_sound.memory, hc, hq, by simp [he]⟩

/-- A queued store with its translation, and a jet that holds it. -/
def aStore : StoreReq := { tag := 0, va := 0x10000, pa := some 0x10000, data := [(5, ⟨0xAA, 1⟩)], lanes := 1 }

theorem witness_StorePoint :
    let J : Jet := { jet0 with storeQ := [aStore] }
    (holding J).basins.get? 0 = some (basinOf J) ∧ (basinOf J).jets.get? 0 = some J ∧ J.storeQ = [aStore]
      ∧ aStore.pa = some 0x10000 ∧ J.storeWaits aStore = false ∧ J.unacked < 512
      ∧ Cells.sortedFrom none aStore.data = true :=
  ⟨rfl, rfl, rfl, rfl, by decide, by decide, rfl⟩

/-- A write in flight at a stage, with one unacknowledged write. -/
def aWrite (st : WriteStage) : Write :=
  { core := 0, basin := 0, jet := 0, lanes := 1, pa := 0x10000, data := [(0, 0xAA), (127, 0x55)], stage := st }

def writing (st : WriteStage) : State :=
  { holding { jet0 with unacked := 1 } with writes := [aWrite st], l1 := [(0, [(512, [(0, 0xAA)])])] }

theorem witness_StorePassage (st : WriteStage) :
    (writing st).writes[0]? = some (aWrite st) ∧ (writing st).jet? 0 0 = some { jet0 with unacked := 1 }
      ∧ ((aWrite st).writers.map (·.1)).Nodup
      ∧ (∀ c, (writing st).l1.get? 0 = some c → Cells.sortedFrom none c = true)
      ∧ (writing st).cached 0 512 0 = some 0xAA
      ∧ ∀ B, (writing st).basins.get? 0 = some B → ∀ e ∈ B.jets, e.2.run ≠ .saved := by
  refine ⟨rfl, rfl, by simp [aWrite, Write.writers], fun c h => ?_, rfl, fun B h => ?_⟩ <;> cases h
  · rfl
  · decide

theorem witness_StorePerformedFrame :
    Sound (writing .sent) ∧ (writing .sent).writes[0]? = some (aWrite .sent) ∧ (aWrite .sent).pa % 128 = 0
      ∧ inControl (aWrite .sent).pa = false ∧ Cells.sortedFrom none (aWrite .sent).data = true
      ∧ (∀ e ∈ (aWrite .sent).data, e.1 < 128) ∧ (writing .sent).writeWaits 0 (aWrite .sent) = false
      ∧ (writing .sent).writeHeld (aWrite .sent) = false
      ∧ ((aWrite .sent).irr = true → (writing .sent).holdReady (aWrite .sent).core (aWrite .sent).pa = true)
      ∧ Clean (writing .sent) 0x10000 128 :=
  ⟨sound_of rfl (by decide) (by decide) rfl, rfl, by decide, by decide, by decide, by decide, by decide, by decide, by decide,
    fun _ _ => ⟨rfl, rfl⟩⟩

/-- A pending operation of lane 0 for v6. -/
def pending (k : LongKind) (val : Option (List Word)) : LongOp :=
  { lane := 0, lanes := 1, tag := 0, shadow := 0, dests := [(0, .word 38)], kind := k, va := 0x10000, pa := some 0x10000,
    val := val, scope := .pkg }

def waiting (o : LongOp) : Jet := { jet0 with longs := [o] }

/-- O18: results in hand for a predicate, for a uniform register, and of an `LDNR`. -/
theorem witness_ResultsLand :
    let p : LongOp := { pending (.ready 4) (some [7]) with dests := [(0, .pred 15)] }
    let u : LongOp := { pending (.load 8) (some [7, 8]) with dests := [(0, .ureg 126), (1, .ureg 127)], lane := 32 }
    let n : LongOp := { pending (.ldnr 8 true) (some [7, 8]) with dests := [(0, .word 38), (1, .word 39), (2, .pred 15)] }
    let Ready := fun (o : LongOp) (i k : Nat) =>
      let J : Jet := { jet0 with longs := [pending (.load 4) none, o] }
      (holding J).basins.get? 0 = some (basinOf J) ∧ (basinOf J).jets.get? 0 = some J ∧ J.longs[i]? = some o ∧ k < 128
        ∧ o.scr = [] ∧ J.lookupsDone o = true ∧ o.val.isSome = true ∧ k < o.dests.length
    (Ready p 1 0 ∧ ∀ m r, p.kind ≠ .ldnr m r) ∧ (Ready u 1 1 ∧ ∀ m r, u.kind ≠ .ldnr m r)
      ∧ (Ready n 1 0 ∧ (n.dests.map (·.2)).Nodup
        ∧ ∀ e ∈ n.dests, (∃ w, e.2 = .word w) ∨ ∃ q, q < 16 ∧ e.2 = .pred q) := by
  refine ⟨⟨⟨rfl, rfl, rfl, by decide, rfl, by decide, rfl, by decide⟩, fun _ _ h => (nomatch h)⟩,
    ⟨⟨rfl, rfl, rfl, by decide, rfl, by decide, rfl, by decide⟩, fun _ _ h => (nomatch h)⟩,
    ⟨⟨rfl, rfl, rfl, by decide, rfl, by decide, rfl, by decide⟩, by decide, ?_⟩⟩
  intro e he
  simp only [List.mem_cons, List.not_mem_nil, or_false] at he
  rcases he with rfl | rfl | rfl
  · exact .inl ⟨_, rfl⟩
  · exact .inl ⟨_, rfl⟩
  · exact .inr ⟨15, by decide, rfl⟩

/-- O18: a result in hand; a load of one word, and of two words, with none, the first or the second of them read. -/
theorem witness_LongWritesLand :
    let o1 := pending (.ready 4) (some [7])
    let o2 := pending (.load 4) none
    let o3 := fun got : Cells (Option Word) => { pending (.load 8) none with got := got }
    let Reads := fun (o : LongOp) (size a : Nat) =>
      let J := waiting o
      J.longs[0]? = some o ∧ o.kind = .load size ∧ o.val = none ∧ o.scr = [] ∧ o.pa = some 0x10000 ∧ size ∈ [1, 2, 4, 8]
        ∧ 0x10000 % size = 0 ∧ o.wordsLeft[0]? = some a ∧ J.storeQ = [] ∧ (holding J).writes = [] ∧ (holding J).l1 = []
        ∧ (holding J).token.holder = none ∧ o.irr = false
        ∧ (holding J).mayRead 0 0 (basinOf J).core J (J.readers o a) o a = true ∧ o.dests ≠ []
    ((waiting o1).longs[0]? = some o1 ∧ o1.dests[0]? = some (0, .word 38) ∧ (jet0.threads.get? o1.lane).isSome = true
        ∧ o1.val = some [7] ∧ o1.scr = [] ∧ (∀ n r, o1.kind ≠ .ldnr n r) ∧ (waiting o1).lookupsDone o1 = true)
      ∧ Reads o2 4 0x10000 ∧ Reads (o3 []) 8 0x10000 ∧ Reads (o3 [(0x10000, some 3)]) 8 0x10004
      ∧ Reads (o3 [(0x10004, some 3)]) 8 0x10000 ∧ Clean base 0x10000 8 := by
  refine ⟨⟨rfl, rfl, by decide, rfl, rfl, fun _ _ h => (nomatch h), by decide⟩, ?_, ?_, ?_, ?_, fun _ _ => ⟨rfl, rfl⟩⟩ <;>
  exact ⟨rfl, rfl, rfl, rfl, rfl, by decide, by decide, by decide, rfl, rfl, rfl, rfl, rfl, by decide, by decide⟩

/-- O32: a word still to be written to the scratchpad, and words still to be read from it. -/
theorem witness_ScratchpadWords :
    let o1 : LongOp := { pending (.ready 16) none with dests := [], va := 0, pa := none, scr := [(4, 7)] }
    let o2 : LongOp := { pending (.ready 16) none with va := 16, pa := none, got := [(16, some 1)] }
    ((holding (waiting o1)).basins.get? 0 = some (basinOf (waiting o1)) ∧ (basinOf (waiting o1)).jets.get? 0 = some (waiting o1)
        ∧ (waiting o1).longs[0]? = some o1 ∧ o1.scr[0]? = some (4, 7) ∧ 4 % 4 = 0
        ∧ Cells.wf (0 : Byte) (basinOf (waiting o1)).scratch = true)
      ∧ ((waiting o2).longs[0]? = some o2 ∧ o2.scr = [] ∧ o2.val = none ∧ o2.kind = .ready 16 ∧ o2.dests ≠ []
        ∧ o2.wordsLeft[2]? = some 28 ∧ (∀ e ∈ o2.got, e.2 ≠ none) ∧ 28 / 4 ∉ (basinOf (waiting o2)).scratchPoison) :=
  ⟨⟨rfl, rfl, rfl, rfl, rfl, rfl⟩, ⟨rfl, rfl, rfl, rfl, by decide, by decide, by decide, by decide⟩⟩

/-- O21: each kind of atomic, performed first of its jet's accesses. -/
theorem witness_AtomicsPerform (kind : LongKind) (h : kind = .atom .add 5 ∨ kind = .cas 0 5 ∨ kind = .ctradd 5) :
    let o := pending kind none
    let J := waiting o
    let s := holding J
    Sound s ∧ s.basins.get? 0 = some (basinOf J) ∧ (basinOf J).jets.get? 0 = some J ∧ J.longs[0]? = some o
      ∧ o.pa = some 0x10000 ∧ o.val = none ∧ o.scope ≠ .bsn
      ∧ J.comesFirst 0 o o.pendingWords = false ∧ s.atomWaits 0 0 (basinOf J).core J o 0x10000 = false
      ∧ 0x10000 < 0x100000000000 ∧ 0x10000 % 8 = 0 ∧ Clean s 0x10000 8 := by
  rcases h with rfl | rfl | rfl <;>
  exact ⟨sound_of rfl (by decide) (by decide) rfl, rfl, rfl, rfl, rfl, rfl, by decide, by decide, by decide,
    by decide, by decide, fun _ _ => ⟨rfl, rfl⟩⟩

/-- O21: at basin scope, on a word that its core sees as 0: an addition, and a `CAS` that finds its word and one that does not. -/
theorem witness_AtomicsAtBasinScope (kind : LongKind) (h : kind = .atom .add 5 ∨ kind = .cas 0 5 ∨ kind = .cas 1 5) :
    let o : LongOp := { pending kind none with scope := .bsn }
    let J := waiting o
    let s := holding J
    o.pa = some 0x10000 ∧ o.val = none ∧ o.scope = .bsn ∧ (s.coreWord (basinOf J).ctx (basinOf J).core 0x10000).2 = some 0
      ∧ J.comesFirst 0 o o.pendingWords = false ∧ s.atomWaits 0 0 (basinOf J).core J o 0x10000 = false := by
  rcases h with rfl | rfl | rfl <;>
  exact ⟨rfl, rfl, rfl, by decide +kernel, by decide, by decide⟩

/-- O21: an addition at basin scope to a counter that its core sees as 0. -/
theorem witness_AdditionAtBasinScope :
    let o : LongOp := { pending (.ctradd 5) none with scope := .bsn, dests := [], lane := 32 }
    let J := waiting o
    let s := holding J
    o.pa = some 0x10000 ∧ o.val = none ∧ o.scope = .bsn ∧ (s.coreWord (basinOf J).ctx (basinOf J).core 0x10000).2 = some 0
      ∧ ((s.coreWord (basinOf J).ctx (basinOf J).core 0x10000).1.coreWord (basinOf J).ctx (basinOf J).core (0x10000 + 4)).2
          = some 0
      ∧ 0x10000 % 8 = 0 ∧ J.comesFirst 0 o o.pendingWords = false
      ∧ s.atomWaits 0 0 (basinOf J).core J o 0x10000 = false := by
  intro o J s
  refine ⟨rfl, rfl, rfl, by decide +kernel, ?_, by decide, by decide, by decide⟩
  obtain ⟨t, et⟩ : ∃ t, t = (s.coreWord (basinOf J).ctx (basinOf J).core 0x10000).1 := ⟨_, rfl⟩
  rw [← et]
  have ht : t.tick = 0 := by rw [et]; decide +kernel
  simp only [State.coreWord, State.coreBytes, State.l1Hit, State.l1Line, ht, show (0x10000 + 4) / 128 = 512 from rfl]
  cases Config.keeps 0 512 <;> (subst et; decide +kernel)

/-- O22: an acquire that waits for an `ATOM` whose result is discarded already. -/
theorem witness_AcquireWaits :
    let J := waiting { pending (.atom .add 5) none with dests := [] }
    let s : State := { issuing loadedBasin J with tick := 1 }
    Issues s { ends := true } (basinOf J) J ∧ NoTransaction s J ∧ J.readsDone s.tick s.cur.exec = false :=
  ⟨⟨rfl, rfl, by decide, by decide, by decide, by decide, by decide, by decide⟩, noTransaction_of (B := loadedBasin) (by decide), by decide⟩

/-- The sample with a counter at 0x1_0000 in s16:s17 and a target in s18. -/
def counting (target : Word) : Jet := { jet0 with sregs := [(16, 0x10000), (18, target)] }

theorem witness_CounterWaits (target : Word) (h : target = 0 ∨ target = 1) :
    let J := counting target
    let s := issuing loadedBasin J
    Issues s { ureads := [16, 17, 18, 19] } (basinOf J) J ∧ NoTransaction s J ∧ (J.spair 16).toNat < 2 ^ 48
      ∧ (J.spair 16).toNat % 8 = 0
      ∧ (let x := s.translateFor (s.holderAmong 0 0 s.cur.exec) (corePlace 0) 0 false (J.spair 16).toNat .read
        x.2 = .ok 0x10000 ∧ x.1.full 1 = false ∧ x.1.counterHold 0 0 J 0 0x10000 s.cur.exec true .pkg = none
          ∧ x.1.counterHold 0 0 J 0 0x10000 s.cur.exec false .pkg = none
          ∧ (x.1.readCounter 0 0 0x10000 .pkg).2 = some 0)
      ∧ Clean s 0x10000 8 ∧ (target = 0 → (J.spair 18).toNat ≤ 0) ∧ (target = 1 → 0 < (J.spair 18).toNat) := by
  rcases h with rfl | rfl <;>
  exact ⟨issuing_issues _ _ _ rfl (by decide), noTransaction_of (by decide), by decide, by decide,
    ⟨by decide, by decide, by decide, by decide, by decide +kernel⟩, fun _ _ => ⟨rfl, rfl⟩, by decide, by decide⟩

theorem witness_CounterReached :
    let J : Jet := { jet0 with threads := jet0.threads.mapKeys fun _ (T : Thread) =>
      { T with wait := .counter 0x10000 0x10000 0 false .pkg } }
    (holding J).basins.get? 0 = some (basinOf J) ∧ J.Ordered
      ∧ (J.threads.get? 31).map (·.wait) = some (.counter 0x10000 0x10000 0 false .pkg)
      ∧ (holding J).counterHold 0 0 J 0 0x10000
          (J.lanesWith fun U => decide (U.wait = .counter 0x10000 0x10000 0 false .pkg ∧ U.pc = 0x10000)) false .pkg = none
      ∧ ((holding J).readCounter 0 0 0x10000 .pkg).2 = some 0 ∧ (0 : Dword).toNat ≤ (0 : Dword).toNat :=
  ⟨rfl, ⟨by decide, by decide⟩, by decide, by decide, by decide +kernel, by decide⟩

/-! ### Copies -/

/-- A copy of one row of 16 bytes from scratchpad 0 to 0x1_0000, its counter at 0x1_0040, its increment 1 (Table 11.7). -/
def copyWords : List Word := [0, 0, 0x10000, 0x10040, 1, 15, 0, 0x01000000]

/-- The same from 2^48 − 4, whose row passes the end of the address space; and one with a width of 3. -/
def farWords : List Word := [0xFFFFFFFC, 0xFFFF, 0x10000, 0x10040, 1, 15, 0, 0]
def oddWords : List Word := [0, 0, 0x10000, 0x10040, 1, 2, 0, 0x01000000]

def copyJet (ws : List Word) : Jet := { jet0 with sregs := ws.mapIdx fun i w => (16 + i, w) }

theorem witness_CopiesQueue :
    let regs := (List.range 8).map fun k => 16 + k
    (Issues (issuing loadedBasin (copyJet copyWords)) { ureads := regs } (basinOf (copyJet copyWords)) (copyJet copyWords)
        ∧ regs.map (copyJet copyWords).sreg = copyWords ∧ copyDescOk copyWords (some (basinOf (copyJet copyWords))) = true
        ∧ copyRange (copyDesc copyWords) = none ∧ (copyDesc copyWords).src.kind ≠ 2 ∧ (copyDesc copyWords).dst.kind ≠ 2
        ∧ NoTransaction (issuing loadedBasin (copyJet copyWords)) (copyJet copyWords))
      ∧ (regs.map (copyJet farWords).sreg = farWords ∧ copyDescOk farWords (some (basinOf (copyJet farWords))) = true
        ∧ copyRange (copyDesc farWords) = some 0xFFFFFFFFFFFC)
      ∧ copyDescOk oddWords (some (basinOf (copyJet oddWords))) = false :=
  ⟨⟨issuing_issues _ _ _ rfl (by decide), by decide, by decide, by decide, by decide, by decide, noTransaction_of (by decide)⟩,
    ⟨by decide, by decide, by decide⟩, by decide⟩

/-- A queued copy, ready at once. -/
def aCopy (done : List Nat) (failed : Bool) : Copy :=
  { id := 0, core := some 0, ctx := 0, sys := false, owner := some (0, 0), desc := copyWords, release := false, deadline := 0,
    done := done, failed := failed }

def copying (done : List Nat) (failed : Bool) : State := { holding jet0 with copies := [aCopy done failed] }

theorem witness_CopyService :
    let s := copying [] false
    let c := aCopy [] false
    let d := copyDesc copyWords
    let q : Nat × Nat × Nat := (0, 0, 16)
    let cols := (List.range (q.2.2 / 4)).map fun i => q.2.1 + 4 * i
    let r := copyReads c d q.1 cols s
    let x := r.1.translate ioPlace 0 false (d.dst.addr + q.1 * d.dst.stride + q.2.1) .write
    s.copies[0]? = some c ∧ (copyRequests d)[0]? = some q ∧ s.copyReady c = true ∧ 0 ∉ c.done ∧ s.copiesBefore c < 4
      ∧ r.2 = .ok ([0, 0, 0, 0].map some) ∧ [(0 : Word), 0, 0, 0].length = cols.length ∧ d.dst.kind = 0 ∧ x.2 = .ok 0x10000
      ∧ x.1.token.holder = none ∧ inControl 0x10000 = false ∧ Memory.wf x.1.mem = true ∧ Clean x.1 0x10000 16
      ∧ s.copyOverlap c d 0 12 = false ∧ x.1.servedLater 0x10000 c.rank = false := by
  refine ⟨rfl, by decide, by decide, by decide, by decide, by decide, by decide, by decide, by decide, by decide, by decide,
    by decide, ?_, by decide, by decide⟩
  intro g _
  exact ⟨by rfl, by rfl⟩

theorem witness_CopyEnd (failed : Bool) :
    let s := copying [0] failed
    let c := aCopy [0] failed
    let x := (s.returnTiles c).translate ioPlace c.ctx c.sys (copyDesc c.desc).ctr .write
    s.copies[0]? = some c ∧ c.faulted = false ∧ c.lost = false ∧ c.packet = none ∧ x.2 = .ok 0x10040
      ∧ x.1.token.holder = none ∧ 0x10040 % 8 = 0 ∧ inControl 0x10040 = false ∧ Memory.wf x.1.mem = true ∧ c.allDone = true
      ∧ Clean x.1 0x10040 8 ∧ x.1.isHbm 0x10040 = true := by
  cases failed <;>
  exact ⟨rfl, rfl, rfl, rfl, by decide, by decide, by decide, by decide, by decide, by decide, fun _ _ => ⟨by rfl, by rfl⟩,
    by decide⟩

/-! ### Transactions that end -/

/-- O28: a jet in line for a slot, a lane in line for the token, a transaction that has run 2^20 cycles. -/
theorem witness_GrantsAndTimeouts :
    let s1 : State := { base with slotQ := [(0, 0, 0)] }
    let s2 : State := { base with token := { queue := [⟨0, 0, 31⟩] } }
    let J : Jet := { jet0 with threads := jet0.threads.mapKeys fun _ (T : Thread) =>
      { T with tx := { T.tx with depth := 1, since := some 0 } } }
    let s3 : State := { holding J with cycle := 1048576 }
    (s1.slotQ = [(0, 0, 0)] ∧ s1.slotsHeld 0 < 8 ∧ (s1.thread? 0 0 31).isSome = true)
      ∧ (s2.token.holder = none ∧ s2.token.queue = [⟨0, 0, 31⟩])
      ∧ (∀ T, s3.thread? 0 0 31 = some T → T.tx.since = some 0 ∧ T.inTx = true ∧ 0 + 1048576 ≤ s3.cycle
          ∧ ∀ p k, T.wait ≠ .commit p k) ∧ (s3.thread? 0 0 31).isSome = true := by
  refine ⟨⟨rfl, by decide, by decide⟩, ⟨rfl, rfl⟩, ?_, by decide⟩
  intro T h
  cases h
  exact ⟨rfl, by decide, by decide, fun p k h => nomatch h⟩

/-- O30: a commit whose logged word still holds, and one whose word has changed. -/
theorem witness_CommitOutcome (seen : Word) (h : seen = 0 ∨ seen = 1) :
    let T : Thread := { pc := 0x10000, wait := .commit 15 0,
                        tx := { depth := 1, rlog := [(0x10004, seen)], wlog := [(0x10004, ⟨0xAABBCCDD, 5⟩)], since := some 0 } }
    let J : Jet := { jet0 with threads := [(0, T)] }
    let s := holding J
    Sound s ∧ s.basins.get? 0 = some (basinOf J) ∧ (basinOf J).jets.get? 0 = some J ∧ J.threads.get? 0 = some T ∧ J.Ordered
      ∧ T.inTx = true ∧ J.drained .pkg = true ∧ J.readsDone s.tick (laneBit 0) = true ∧ J.commitBlocked 0 T = false
      ∧ s.token.holder = none
      ∧ Cells.sortedFrom none T.tx.wlog = true ∧ (∀ e ∈ T.tx.wlog, e.1 % 4 = 0 ∧ e.1 < 0x180000000000)
      ∧ (∀ e ∈ T.tx.rlog, e.1 % 4 = 0 ∧ e.1 < 0x180000000000) ∧ Clean s 0x10004 4
      ∧ (seen = 0 → ∀ e ∈ T.tx.rlog, BitVec.ofNat 32 (s.homeNat e.1 4) = e.2)
      ∧ (seen = 1 → ∃ e ∈ T.tx.rlog, BitVec.ofNat 32 (s.homeNat e.1 4) ≠ e.2) := by
  rcases h with rfl | rfl <;>
  exact ⟨sound_of rfl (by decide) (by decide) rfl, rfl, rfl, rfl, ⟨by decide, by decide⟩, by decide, by decide, by decide, by decide, rfl,
    by decide, by decide, by decide, fun _ _ => ⟨rfl, rfl⟩, by decide, by decide⟩

/-! ### The matrix engine and the filter unit -/

/-- A handle of 8 rows of 32 bytes of FP32 elements at the start of the region (Table 19.4). -/
def handle : Dword := 0x1F01C0000000

/-- A basin with tiles 0 and 63 on that rectangle, and the sample jet on it with the given uniform registers. -/
def tiled : Basin := { loadedBasin with tiles := [(0, ⟨handle, .ready⟩), (63, ⟨handle, .ready⟩)] }

/-- O26: one row of 16 bytes from scratchpad 0 to scratchpad 0x100, and to tile 63. -/
theorem witness_CopyToBasin (tile : Bool) :
    let ws : List Word := if tile then [0, 0, 63, 0x10040, 1, 15, 0, 0x09000000] else [0, 0, 0x100, 0x10040, 1, 15, 0, 0x05000000]
    let B : Basin := { tiled with jets := [(0, jet0)] }
    let c : Copy := { aCopy [] false with desc := ws }
    let s : State := { base with basins := [(0, B)], copies := [c] }
    let d := copyDesc ws
    let q : Nat × Nat × Nat := (0, 0, 16)
    let cols := (List.range (q.2.2 / 4)).map fun i => q.2.1 + 4 * i
    let r := copyReads c d q.1 cols s
    s.copies[0]? = some c ∧ (copyRequests d)[0]? = some q ∧ s.copyReady c = true ∧ 0 ∉ c.done ∧ s.copiesBefore c < 4
      ∧ r.2 = .ok ([0, 0, 0, 0].map some) ∧ [(0 : Word), 0, 0, 0].length = cols.length ∧ c.owner = some (0, 0)
      ∧ r.1.basins.get? 0 = some B ∧ s.copyOverlap c d 0 12 = false
      ∧ (tile = false → d.dst.kind = 1 ∧ Cells.wf (0 : Byte) B.scratch = true)
      ∧ (tile = true → d.dst.kind = 2 ∧ B.tiles.get? d.dst.addr = some ⟨handle, .ready⟩ ∧ Cells.wf (0 : Byte) B.region = true) := by
  cases tile <;>
  exact ⟨rfl, by decide, by decide, by decide, by decide, by decide, by decide, rfl, by decide, by decide, by decide, by decide⟩

theorem witness_MatrixIssue :
    let mx : Jet := { jet0 with fmode := 0x66 }
    let J : Jet := { jet0 with sregs := [(16, 0x00080808), (17, 1)] }
    let ps := ((List.range 8).map fun i => 8 * 2 + i).map J.sreg
    let p := loopParams ps
    let frag := { named := [120, 121, 122, 123, 124, 125, 126, 127] ++ [0, 1, 2, 3, 4, 5, 6, 7]
                  reads := [120, 121, 122, 123, 124, 125, 126, 127] ++ [0, 1, 2, 3, 4, 5, 6, 7], acc := [31] : Operands }
    (Issues (issuing loadedBasin mx) frag (basinOf mx) mx ∧ codeClass (mx.fmode.toNat % 16) = 4)
      ∧ (Issues sample frag (basinOf jet0) jet0 ∧ codeClass (jet0.fmode.toNat % 16) ≠ 4 ∧ sample.matrixLoad 0 < 64)
      ∧ (Issues (issuing tiled jet0) { named := [0, 1, 2, 3, 4, 5, 6, 7], reads := [0, 1, 2, 3, 4, 5, 6, 7], acc := [31] }
          { tiled with jets := [(0, jet0)] } jet0 ∧ tiled.tiles.get? 63 = some ⟨handle, .ready⟩ ∧ tileFmt handle = 0
          ∧ tileCols handle = 32 ∧ tileRows handle ≤ 64 ∧ (issuing tiled jet0).matrixLoad 0 < 64)
      ∧ (Issues (issuing tiled J) { acc := [31], ureads := (List.range 8).map fun i => 8 * 2 + i }
            { tiled with jets := [(0, J)] } J ∧ loopRanges p ps 0 = true
          ∧ ∀ e ∈ loopTiles p 0 0 0 0 63, ∃ x, tiled.tiles.get? e.1 = some x ∧ x.state = .ready
            ∧ loopTileOk p.steps x.handle e = true)
      ∧ Issues sample { ends := true } (basinOf jet0) jet0 ∧ Issues sample { acc := [31] } (basinOf jet0) jet0
      ∧ (∀ o ∈ (basinOf jet0).matQ, o.acc ≠ 31) ∧ ∀ x ∈ (basinOf jet0).accPoison, x / 4096 ≠ 31 := by
  refine ⟨⟨issuing_issues _ _ _ rfl (by decide), by decide⟩, ⟨sample_issues _ (by decide), by decide, by decide⟩,
    ⟨issuing_issues _ _ _ rfl (by decide), rfl, by decide, by decide, by decide, by decide⟩,
    ⟨issuing_issues _ _ _ rfl (by decide), by decide, ?_⟩, sample_issues _ (by decide), sample_issues _ (by decide), ?_, ?_⟩
  · intro e he
    have hl : ∀ e ∈ loopTiles (loopParams (((List.range 8).map fun i => 8 * 2 + i).map
        (fun i => Cells.get 0 ([(16, 0x00080808), (17, 1)] : Cells Word) i))) 0 0 0 0 63,
        tiled.tiles.get? e.1 = some ⟨handle, .ready⟩ ∧ loopTileOk 1 handle e = true := by decide
    exact ⟨⟨handle, .ready⟩, (hl e he).1, rfl, (hl e he).2⟩
  · intro o h
    cases h
  · intro x h
    cases h

theorem witness_TileMoves :
    let J : Jet := { jet0 with sregs := [(24, handle.extractLsb' 0 32), (25, handle.extractLsb' 32 32)] }
    let sel := (J.sreg 12).toNat
    (Issues (issuing loadedBasin J) { ureads := [24, 25] } (basinOf J) J ∧ (basinOf J).tiles.get? 63 = none
        ∧ (basinOf J).handleOk (J.spair 24) = true)
      ∧ (Issues (issuing tiled J) {} { tiled with jets := [(0, J)] } J ∧ tiled.tiles.get? 63 = some ⟨handle, .ready⟩
        ∧ Cells.sortedFrom none tiled.tiles = true)
      ∧ Issues (issuing tiled J) { named := [127], ureads := [12] } { tiled with jets := [(0, J)] } J
      ∧ Issues (issuing tiled J) { named := [127], reads := [127], ureads := [12] } { tiled with jets := [(0, J)] } J
      ∧ tiled.regionPoison = [] ∧ sel % 1024 < tileRows handle ∧ sel / 65536 % 4 = 0 ∧ sel / 1024 % 64 = 0
      ∧ sel / 67108864 = 0 ∧ Cells.wf (0 : Byte) tiled.region = true :=
  ⟨⟨issuing_issues _ _ _ rfl (by decide), rfl, by decide⟩, ⟨issuing_issues _ _ _ rfl (by decide), rfl, by decide⟩,
    issuing_issues _ _ _ rfl (by decide), issuing_issues _ _ _ rfl (by decide), rfl, by decide, by decide, by decide, by decide,
    rfl⟩

/-- O36, with the last selector, row 63 of the high half. -/
theorem witness_AccumulatorMoves :
    let J : Jet := { jet0 with sregs := [(34, 127)] }
    Issues (issuing tiled J) { named := [127], acc := [31], ureads := [34] } { tiled with jets := [(0, J)] } J
      ∧ Issues (issuing tiled J) { named := [127], reads := [127], acc := [31], ureads := [34] } { tiled with jets := [(0, J)] } J
      ∧ Issues (issuing tiled J) { acc := [31] } { tiled with jets := [(0, J)] } J ∧ (J.sreg 34).toNat < 128
      ∧ ({ tiled with jets := [(0, J)] } : Basin).accBusy 31 = false ∧ tiled.accPoison = [] ∧ Cells.wf (0 : Word) tiled.accs = true
      ∧ tiled.tiles.get? 63 = some ⟨handle, .ready⟩ ∧ tileFmt handle ≤ 5 ∧ tileRows handle ≤ 64
      ∧ tileCols handle * 8 / codeBits (tileFmt handle) ≤ 64 ∧ tileFirstCol handle + tileCols handle ≤ 1024
      ∧ Cells.wf (0 : Byte) tiled.region = true :=
  ⟨issuing_issues _ _ _ rfl (by decide), issuing_issues _ _ _ rfl (by decide), issuing_issues _ _ _ rfl (by decide), by decide,
    by decide, rfl, rfl, rfl, by decide, by decide, by decide, by decide, rfl⟩

/-- An operation in the engine, on fragments of zeros. -/
def matOp : MatOp :=
  { tag := 0, jet := 0, acc := 31, mode := 0x300,
    kind := .vv (List.replicate 32 (List.replicate 8 0)) (List.replicate 32 (List.replicate 8 0)) }

theorem witness_MatrixCompletes :
    let B : Basin := { basinOf jet0 with matQ := [matOp] }
    ({ base with basins := [(0, B)] } : State).basins.get? 0 = some B ∧ B.matQ[0]? = some matOp
      ∧ (∀ x ∈ B.matQ.take 0, x.acc ≠ matOp.acc) ∧ matOp.touched = false ∧ matOp.stale = false
      ∧ Cells.wf (0 : Word) B.accs = true ∧ (∀ e ∈ B.matrixResult matOp, e.1 < 64 ∧ e.2.1 < 64)
      ∧ ∀ e ∈ B.jets, e.2.run ≠ .saved :=
  ⟨rfl, rfl, by simp, rfl, rfl, rfl, by decide +kernel, by decide⟩

/-- An operation with one read left makes that read, whatever the choice. -/
theorem lookup_last {s : State} {core ctx : Nat} {o : LongOp} {k va size n : Nat} (h : o.lookupLeft = [(k, va, size)])
    (hp : o.replayed = o) (hr : ((s.lookupStack core ctx o).1.engineRead (stackPlace (s.lookupStack core ctx o).2) ctx o.sys va size).2 = .ok n) :
    ∃ s1 o1, s.lookup core ctx o = (s1, .ok o1) := by
  unfold State.lookup
  rw [hp]
  simp only [h]
  simp only [List.length_singleton, Nat.mod_one, List.getElem?_cons_zero]
  generalize State.engineRead _ _ _ _ _ _ = x at hr
  obtain ⟨s1, f⟩ := x
  cases hr
  exact ⟨s1, _, rfl⟩

/-- O38: descriptors at s8 to s15 that are good and bad; a block of one level of two features at v126, and at v127. -/
theorem witness_FilterLookups :
    let bad : Jet := { jet0 with sregs := [(8, 1)] }
    let ws := fun J : Jet => ((List.range 8).map fun i => 8 + i).map J.sreg
    let o : LongOp := { pending (.texf [0x10000, 0, 0, 0, 0, 0, 0, 0] 0x3F000000 0x3F000000 0) none with
                        dests := [], pa := some 0 }
    let B := basinOf (waiting o)
    Issues sample { named := [124, 125, 126, 127] ++ [125, 126, 127], reads := [125, 126, 127]
                    ureads := (List.range 8).map fun i => 8 + i } (basinOf jet0) jet0
      ∧ texDescOk (ws jet0) = true ∧ gridDescOk (ws jet0) = true ∧ texDescOk (ws bad) = false ∧ gridDescOk (ws bad) = false
      ∧ Issues (issuing loadedBasin bad) { named := [124, 125, 126, 127] ++ [125, 126, 127], reads := [125, 126, 127]
                                           ureads := (List.range 8).map fun i => 8 + i } (basinOf bad) bad
      ∧ Issues sample { named := [126, 127] ++ [125, 126, 127], reads := [125, 126, 127]
                        ureads := (List.range 8).map fun i => 8 + i } (basinOf jet0) jet0
      ∧ 126 + 2 * 1 ≤ 128 ∧ 128 < 127 + 2 * 1 ∧ NoTransaction sample jet0 ∧ sample.full 2 = false
      ∧ sample.jet? 0 0 = some jet0 ∧ operandsPending jet0.longs 0 [] [.ureg 9] = false
      ∧ uniformSeen jet0.longs sample.cur.group [9] = false
      ∧ ((holding (waiting o)).basins.get? 0 = some B ∧ B.jets.get? 0 = some (waiting o) ∧ (waiting o).longs[0]? = some o
        ∧ o.val = none ∧ (holding (waiting o)).awaitsFault 0 0 o.va = false ∧ (waiting o).acquirePending o.tag o.lanes = false
        ∧ (holding (waiting o)).releaseOpen 0 0 (waiting o) o.tag o.lanes true = false
        ∧ ∃ s1 o1, (holding (waiting o)).lookup B.core B.ctx o = (s1, .ok o1)) :=
  ⟨sample_issues _ (by decide), by decide, by decide, by decide, by decide, issuing_issues _ _ _ rfl (by decide),
    sample_issues _ (by decide), by decide, by decide, sample_noTransaction, by decide, rfl, rfl, rfl,
    ⟨rfl, rfl, rfl, rfl, by decide, by decide, by decide,
      lookup_last (k := 0) (va := 0x10000) (size := 4) (n := 0) (by decide +kernel) rfl (by decide +kernel)⟩⟩

/-- O38: lookups whose every read is in hand: a texel of ones, halfway; a grid of one level, whose record at 0x1_0000 has the
scale 1 and a table of 16 entries at 0, at (½, 0, 0); and the same with the scale 0, which is no good record. -/
theorem witness_LookupResults :
    let M := fun (scale : Byte) (a : Nat) =>
      (if a = 0x1000A then 0x80 else if a = 0x1000B then scale else if a = 0x1000C then 4 else 0 : Byte)
    let tex : LongOp := { pending (.texf [0x10000, 0, 0, 0, 0, 0, 0, 0] 0x3F000000 0x3F000000 0) none with
                          got := [(0, some 0x01010101)] }
    let grid : LongOp := { pending (.hgrid [0x10000, 0] 0 0x3F000000 0 0) none with
                           got := [(0, some 0), (1, some 0), (2, some 0x3F800000), (3, some 4), (4, some 0), (6, some 0)] }
    let bad : LongOp := { pending (.hgrid [0x10000, 0] 0 0x3F000000 0 0) none with
                          got := [(0, some 0), (1, some 0), (2, some 0x00800000), (3, some 0)] }
    let Got := fun (o : LongOp) (M : Nat → Byte) => o.lookupReads ≠ []
      ∧ ∀ e ∈ o.lookupReads, Cells.get? o.got e.1 = some (some (BitVec.ofNat 32 (bytesNat M e.2.1 e.2.2)))
    Got tex (fun _ => 1) ∧ Got grid (M 0x3F) ∧ Got bad (fun a => if a = 0x1000A then 0x80 else 0)
      ∧ (value .f32 (0x3F000000 : Word).toNat).real? ≠ none ∧ (value .f32 (0 : Word).toNat).real? ≠ none
      ∧ (∃ scale, value .f32 (bytesNat (M 0x3F) (0x10000 + 8) 4) = .fin scale ∧ 0 < scale.num) := by
  refine ⟨by decide +kernel, by decide +kernel, by decide +kernel, by decide +kernel, by decide +kernel, ?_⟩
  exact ⟨⟨8388608, 8388608⟩, by decide +kernel, by decide⟩

/-! ### Traps -/

/-- O39: user and system mode, and a pending cause of each kind. -/
theorem witness_TrapEntries (c : Cause) (h : c = .pagefault ∨ c = .preempt) :
    let p : Pending := { cause := c, lanes := 1, resume := [⟨0, 0x10004, 0x11⟩], va := 0x11000, kind := 5 }
    let J : Jet := { jet0 with causes := [p] }
    (sample.basins.get? 0 = some (basinOf jet0) ∧ quiet jet0.longs = true ∧ sample.cur.basin = 0 ∧ sample.cur.jet = 0
        ∧ Issues sample { barred := true, ends := true } (basinOf jet0) jet0 ∧ NoTransaction sample jet0 ∧ jet0.Ordered)
      ∧ (Issues (issuing loadedBasin sysJet) { barred := true, ends := true } (basinOf sysJet) sysJet ∧ sysJet.sys = true
        ∧ sysJet.run ≠ .halted ∧ quiet sysJet.longs = true ∧ NoTransaction (issuing loadedBasin sysJet) sysJet
        ∧ sysJet.Ordered)
      ∧ (holding J).basins.get? 0 = some (basinOf J) ∧ quiet J.longs = true ∧ J.causes = [p] ∧ J.sys = false ∧ J.run = .active
      ∧ (c = .preempt → (holding J).mayPreempt 0 0 = true) := by
  rcases h with rfl | rfl <;>
  exact ⟨⟨rfl, rfl, rfl, rfl, sample_issues _ (by decide), sample_noTransaction, jet0_ordered⟩,
    ⟨sys_issues _ (by decide), rfl, by decide, rfl, noTransaction_of (by decide), ⟨by decide, by decide⟩⟩, rfl, rfl, rfl, rfl,
    rfl, by decide⟩

/-- O40, O41. -/
theorem witness_SystemMode :
    (Issues sample { named := [127], barred := true } (basinOf jet0) jet0 ∧ jet0.handler ≠ .save ∧ jet0.sys = false)
      ∧ (Issues (issuing loadedBasin sysJet) { named := [127], barred := true } (basinOf sysJet) sysJet
        ∧ sysJet.handler ≠ .save ∧ sysJet.sys = true)
      ∧ Issues (issuing loadedBasin sysJet) { named := [127], reads := [127], barred := true } (basinOf sysJet) sysJet
      ∧ Issues (issuing loadedBasin sysJet) { named := [127], reads := [127], barred := true, ends := true } (basinOf sysJet) sysJet
      ∧ (Issues (issuing loadedBasin sysJet) { barred := true, ends := true, endsAll := true } (basinOf sysJet) sysJet
        ∧ sysJet.Ordered ∧ ∀ e ∈ (basinOf sysJet).jets, e.2.run ≠ .saved)
      ∧ Issues sample { barred := true, ends := true, endsAll := true } (basinOf jet0) jet0 ∧ jet0.Ordered :=
  ⟨⟨sample_issues _ (by decide), by decide, rfl⟩, ⟨sys_issues _ (by decide), by decide, rfl⟩, sys_issues _ (by decide),
    sys_issues _ (by decide), ⟨sys_issues _ (by decide), ⟨by decide, by decide⟩, by decide⟩, sample_issues _ (by decide),
    jet0_ordered⟩

/-- O40: a jet in the context-save handler beside one that is not; and a single executing lane. -/
theorem witness_SaveHandler :
    let J : Jet := { sysJet with handler := .save }
    let B : Basin := { loadedBasin with jets := [(0, J), (1, jet0)] }
    let s : State := { sample with basins := [(0, B)] }
    Issues s { named := [127], barred := true } B J ∧ J.handler = .save ∧ J.sys = true
      ∧ (∃ e ∈ B.jets, e.2.handler ≠ .save ∧ e.2.run ≠ .saved ∧ e.2.run ≠ .exited)
      ∧ Issues (alone sysJet {}) { named := [127], reads := [127], barred := true } (basinOf sysJet) sysJet
      ∧ ∃ l, (alone sysJet {}).cur.exec = laneBit l :=
  ⟨⟨rfl, rfl, by decide, by decide, by decide, by decide, by decide, by decide⟩, rfl, rfl, ⟨(1, jet0), by simp, by decide⟩,
    alone_issues _ _ _ rfl (by decide), 0, by decide⟩

/-- O41: a thread whose EXITED bit was written, in a jet that may end it. -/
theorem witness_ThreadsEnd :
    let J : Jet := { sysJet with threads := sysJet.threads.modify 31 fun T => { T with exitAtEret := true } }
    let s := issuing loadedBasin J
    let out := J.lanesWith fun T => T.exitAtEret
    Issues s { barred := true, ends := true, endsAll := true } (basinOf J) J ∧ J.Ordered ∧ J.sys = true ∧ out ≠ 0
      ∧ s.unpublished s.cur.basin s.cur.jet out false = false ∧ s.lastExitWaits s.cur.basin s.cur.jet out = false :=
  ⟨issuing_issues _ _ _ rfl (by decide), ⟨by decide, by decide⟩, rfl, by decide, by decide, by decide⟩

/-! ### Traversal -/

/-- The module with the pages at 0x1_1000 and 0x1_2000 mapped too, and a byte of memory at each of the given places. -/
def mapped (bytes : List (Nat × Byte)) : State :=
  { base with
    mem := ([(0x4088, 0x7F#8), (0x4089, 0x10#8), (0x408A, 1#8), (0x4090, 0x7F#8), (0x4091, 0x20#8), (0x4092, 1#8)] ++ bytes).foldl
      (fun (m : Memory) (e : Nat × Byte) => Cells.set 0 m e.1 e.2) base.mem }

/-- A ray of the sample basin at stack 0, with ticket 0. -/
def aRay : Ray :=
  { stack := 0, entry := 0, gen := 0, ctx := 0, launch := 1, basin := 0, sys := false, core := 0, place := 0, org := [0, 0, 0],
    tmin := 0, dir := [0, 0, 0x3F800000], tmax := 0x7F800000, rflags := 0, tag := 0, tctx := 0 }

def tracing (r : Ray) : State := { sample with rays := [r] }

theorem witness_RayInstructions :
    let s : State := { sample with travs := [(0, ⟨⟨0, 1, 0x10000, 0, 0⟩, none, 0⟩)] }
    (NoTransaction sample jet0 ∧ 32 ≤ jet0.wb ∧ jet0.Ordered)
      ∧ (Issues s { named := [40] ++ (List.range 10).map fun i => 118 + i, reads := (List.range 10).map fun i => 118 + i
                    ureads := [12] } (basinOf jet0) jet0
        ∧ (jet0.sreg 12).toNat ≤ 255 ∧ (s.travs.get? 0).isSome = true ∧ sample.travs.get? 0 = none
        ∧ 1 ≤ s.freeEntries 0 ∧ 1 ≤ s.freeEntries 1 ∧ s.crowded 0 = false ∧ s.crowded 1 = false
        ∧ jet0.acquirePending s.tick s.cur.exec = false ∧ s.releaseOpen 0 0 jet0 s.tick s.cur.exec true = false
        ∧ ∀ l, s.executes l = true → (jet0.threads.get? l).isSome = true)
      ∧ (Issues sample { named := (List.range 8).map (fun i => 120 + i) ++ [40], reads := [40] } (basinOf jet0) jet0
        ∧ (∀ l, sample.executes l = true → sample.rayWaits (basinOf jet0) 0 l (jet0.vreg l 40) = false)
        ∧ ∀ l, sample.executes l = true → sample.answerOut (basinOf jet0) 0 l (jet0.vreg l 40) = false)
      ∧ (Issues (tracing aRay) { named := (List.range 8).map (fun i => 120 + i) ++ [40], reads := [40] } (basinOf jet0) jet0
        ∧ ∃ l, l < 32 ∧ (tracing aRay).executes l = true ∧ (tracing aRay).rayWaits (basinOf jet0) 0 l (jet0.vreg l 40) = true)
      ∧ Issues sample {} (basinOf jet0) jet0 ∧ Issues sample { named := [40], reads := [40] } (basinOf jet0) jet0
      ∧ Issues sample { named := [40, 41], reads := [40, 41] } (basinOf jet0) jet0 :=
  ⟨⟨sample_noTransaction, by decide, jet0_ordered⟩,
    ⟨⟨rfl, rfl, by decide, by decide, by decide, by decide, by decide, by decide⟩, by decide, by decide, rfl, by decide, by decide, by decide,
      by decide, by decide, by decide, of_lanes (B := loadedBasin) (J := jet0) (by decide) (by decide)⟩,
    ⟨sample_issues _ (by decide), of_lanes (by decide) (by decide), of_lanes (by decide) (by decide)⟩,
    ⟨⟨rfl, rfl, by decide, by decide, by decide, by decide, by decide, by decide⟩, 0, by decide, by decide, by decide⟩,
    sample_issues _ (by decide), sample_issues _ (by decide), sample_issues _ (by decide)⟩

/-- O42: `TRREC` of a ray to which lane 0's answer is still on its way. -/
theorem witness_AnswerOut :
    let s : State := { sample with
      answers := [{ ticket := 0, ctx := 0, launch := 1, basin := 0, jet := 0, lane := 0, answer := .ign, core := 0 }] }
    Issues s { named := (List.range 8).map (fun i => 120 + i) ++ [40], reads := [40] } (basinOf jet0) jet0
      ∧ (lanesOf s.cur.exec).find? (fun l => s.answerOut (basinOf jet0) 0 l (jet0.vreg l 40)) = some 0 :=
  ⟨⟨rfl, rfl, by decide, by decide, by decide, by decide, by decide, by decide⟩, by decide⟩

/-- O42: lanes that wait for their ray with the window base of their issue, the state being that of their turn again. -/
theorem witness_RayWaits :
    let J : Jet := { jet0 with threads := jet0.threads.mapKeys fun _ (T : Thread) => { T with wait := .ray aRay.ticket 64 } }
    let s := { issuing loadedBasin J with rays := [aRay], cur := { (issuing loadedBasin J).cur with resumed := true } }
    Issues s {} (basinOf J) J ∧ J.Ordered ∧ (∀ l, s.executes l = true → (J.threads.get? l).map (·.wait) = some (.ray aRay.ticket 64))
      ∧ 32 ≤ 64 ∧ s.rayWaits (basinOf J) 0 0 aRay.ticket = true :=
  ⟨⟨rfl, rfl, by decide, by decide, by decide, by decide, by decide, by decide⟩, ⟨by decide, by decide⟩,
    of_lanes (B := loadedBasin) (J := jet0) (by decide) (by decide), by decide, by decide⟩

/-- No ray stands in a slot: none moves to the cistern. -/
theorem stow_none {s : State} {st : Nat}
    (h : ((List.range s.rays.length).filter fun k => ((s.rays[k]?).map fun r => r.parkedIn st).getD false) = []) :
    s.stow st = s := by
  unfold State.stow
  rw [h]
  rfl

/-- O43, first clauses: a ray in the cistern; a bad ray; and one whose root's treelet record lies at 0x1_0000 and whose node 0 at
0x1_1000. -/
theorem witness_RayArrivals :
    let out : Ray := { aRay with state := .queued, cistern := true }
    let bad : Ray := { aRay with rflags := 0x80 }
    let s := mapped [(0x10001, 0x10), (0x10002, 1)]
    let ctx : TravCtx := ⟨⟨0, 1, 0x10000, 0, 0⟩, none, 0⟩
    let good : Ray := { aRay with entry := 1 }
    let t : State := { s with rays := [good], travs := [(0, ctx)] }
    ((tracing out).stow 0 = tracing out ∧ (firstRay (tracing out).rays fun x => x.parkedAt 0 && x.cistern) = some 0
        ∧ 8192 ≤ (tracing out).slotsFree 0 ∧ (tracing out).rays[0]? = some out)
      ∧ ((tracing bad).stow 0 = tracing bad ∧ (tracing bad).rays[0]? = some bad ∧ (firstRay (tracing bad).rays fun x => x.parkedAt 0 && x.cistern) = none
        ∧ (firstRay (tracing bad).rays fun x => decide (x.place = 0 ∧ x.state = .travelling)) = some 0 ∧ bad.fresh = true
        ∧ bad.bad = true ∧ ((tracing bad).room 0).isSome = true)
      ∧ (t.stow 0 = t ∧ t.rays[0]? = some good ∧ good.fresh = true ∧ good.bad = false
        ∧ (firstRay t.rays fun x => x.parkedAt 0 && x.cistern) = none
        ∧ (firstRay t.rays fun x => decide (x.place = 0 ∧ x.state = .travelling)) = some 0 ∧ t.travRecord good = some ctx.buf0
        ∧ Ext.lt (extWord aRay.tmax) (extWord aRay.tmin) = false ∧ ctx.buf0.root ≠ 0xFFFFFFFF
        ∧ (t.locate { good with node := 0 } 0).2 = .at good.place 0x11000 0 ∧ (t.room 0).isSome = true) :=
  ⟨⟨stow_none (by decide), by decide, by decide, rfl⟩,
    ⟨stow_none (by decide), rfl, by decide, by decide, by decide, by decide, by decide⟩,
    ⟨stow_none (by decide), rfl, by decide, by decide, by decide, by decide, rfl, by decide, by decide, by decide, by decide⟩⟩

/-- O43: a queued ray and a free engine; a ray with nothing left; one that has found a node odd for 1 ms; an answer. -/
theorem witness_RayEvents :
    let queued : Ray := { aRay with state := .queued }
    let spent : Ray := { aRay with state := .traversing }
    let odd : Ray := { aRay with state := .traversing, oddSince := some 0 }
    let asks : Ray := { aRay with state := .candidate, candTri := true }
    let faulted : Ray := { aRay with state := .fault }
    let a : AnswerMsg := { ticket := aRay.ticket, ctx := 0, launch := 1, basin := 0, jet := 0, lane := 0, answer := .ign, core := 0 }
    ((tracing queued).freeEngine 0 = some 0 ∧ queued ∈ (tracing queued).rays ∧ queued.waitsAt 0 = true
        ∧ ∀ x ∈ (tracing queued).rays, x.waitsAt 0 = true → x.picks ≤ 4096)
      ∧ ((tracing spent).rays[0]? = some spent ∧ spent.state = .traversing ∧ spent.node = 0xFFFFFFFF ∧ spent.stk = []
        ∧ spent.restart = false ∧ spent.bestIdx = none ∧ spent.visit = none)
      ∧ (odd.oddSince = some 0 ∧ odd.state = .traversing ∧ 0 + 1000000000 ≤ ({ tracing odd with time := 1000000000 } : State).time)
      ∧ ({ tracing asks with answers := [a] } : State).answers[0]? = some a
      ∧ (∀ x ∈ ([a] : List AnswerMsg).take 0, ¬ (x.ticket = a.ticket ∨ x.core = a.core))
      ∧ ({ tracing asks with answers := [a] } : State).answerWaits a = false
      ∧ ({ tracing faulted with answers := [a] } : State).answerWaits a = false ∧ asks.ticket = a.ticket ∧ asks.ctx = a.ctx
      ∧ asks.launch = a.launch ∧ asks.basin = a.basin ∧ faulted.ticket = a.ticket ∧ faulted.state = .fault :=
  ⟨⟨by decide, by simp [tracing], by decide, by decide⟩, ⟨rfl, rfl, rfl, rfl, rfl, rfl, rfl⟩, ⟨rfl, rfl, by decide⟩, rfl, by simp,
    by decide, by decide, rfl, rfl, rfl, rfl, rfl, rfl⟩

/-- The module whose treelet 0 has its nodes from 0x1_1000 on, the last of them node 32 at 0x1_2000. -/
def noded : State :=
  { mapped [(0x10001, 0x10), (0x10002, 1), (0x1000E, 0x20)] with travs := [(0, ⟨⟨0, 1, 0x10000, 0, 0⟩, none, 0⟩)] }

/-- A ray that has read all the words of node 32, zero but for those given, after that version. -/
def atNode (version flags : Word) (ws : List (Nat × Word)) : Ray :=
  { aRay with
    state := .traversing, node := 32, rflags := flags
    read := some { va := 0x12000, version := version, got := (List.range 32).map fun k => (k, (ws.lookup k).getD 0) } }

/-- O43: the words of a node whose version has changed; of a malformed one; of a box node with a triangle leaf, whose box is the
origin; of an instance that the mask shuts out, and of one that it lets in. -/
theorem witness_NodeReads :
    let changed := atNode 1 0 []
    let bad := atNode 0 0 [(4, 0x02000000)]
    let box := atNode 0 0 [(3, 0x01000000), (4, 1)]
    let shut := atNode 0 0 [(4, 0x01000000)]
    let entered := atNode 0 0x00FF0000 [(4, 0x01000000), (7, 0xFF000000)]
    let words := fun (r : Ray) => ((r.read.map (·.got)).getD [] : Cells Word)
    let n := fun (r : Ray) => wordsNat (words r) 32
    let isBad := fun (n : Nat) => decide (nodeType n ≠ 0 ∧ nodeType n ≠ 1) || (decide (nodeType n = 0) && !boxOk n)
      || (decide (nodeType n = 1) && !instOk n)
    (∀ r ∈ [changed, bad, box, shut, entered], r.state = .traversing ∧ r.visit = none ∧ r.node ≠ 0xFFFFFFFF
        ∧ r.node.toNat / 4096 = r.treelet ∧ r.node.toNat % 4096 ≤ 32 * 2 ^ 48 / 2 ^ 48 % 4096 ∧ r.inside = none
        ∧ r.read.map (·.va) = some (0x11000 + 128 * (r.node.toNat % 4096)) ∧ r.resume = none ∧ r.stk.length < 8
        ∧ (∀ i, i < 32 → ((words r).get? i).isSome = true)
        ∧ (noded.locate r r.node).2 = .at r.place 0x11000 (32 * 2 ^ 48)
        ∧ ((noded.locate r r.node).1.readSome r 0x12000 (words r) (List.range 32)).2 = .ok (words r)
        ∧ ((((noded.locate r r.node).1.readSome r 0x12000 (words r) (List.range 32)).1).engineRead (stackPlace r.place) r.ctx
            r.sys (0x12000 + 0x14) 4).2 = .ok 0)
      ∧ isBad (n bad) = true ∧ (isBad (n box) = false ∧ nodeType (n box) = 0)
      ∧ (isBad (n shut) = false ∧ nodeType (n shut) = 1 ∧ shut.rflags.toNat / 65536 % 256 &&& fieldAt (n shut) 0x1F 1 = 0)
      ∧ (isBad (n entered) = false ∧ nodeType (n entered) = 1 ∧ (entered.instOf (n entered)).isSome = true
        ∧ ¬ entered.rflags.toNat / 65536 % 256 &&& fieldAt (n entered) 0x1F 1 = 0) := by
  decide +kernel

/-- O43: rays with nothing to visit, that have found a hit; with an entry to pop, at their TMAX and beyond it; with a node whose
children are missed, and with one that is hit. -/
theorem witness_RayTurns :
    let hit : Ray := { aRay with state := .traversing, bestIdx := some 3 }
    let popped : Ray := { aRay with state := .traversing, stk := [(5, 0)] }
    let beyond : Ray := { popped with tmax := 0x3F000000, stk := [(5, 0x3F800000)] }
    let v := fun (n : Nat) => ({ node := n, leaves := 0, todo := [] } : Visit)
    let missed : Ray := { aRay with state := .traversing, visit := some (v 0) }
    let down : Ray := { missed with visit := some (v (2 ^ 120)) }
    (hit.state = .traversing ∧ hit.node = 0xFFFFFFFF ∧ hit.stk = [] ∧ hit.restart = false ∧ hit.visit = none)
      ∧ (∀ r ∈ [popped, beyond], r.node = 0xFFFFFFFF ∧ r.visit = none ∧ r.restart = false)
      ∧ (resumeOf 0 = none ∧ Ext.lt (extWord popped.tmax) (extWord 0) = false ∧ (5 : Word) ≠ 0xFFFFFFFF)
      ∧ (resumeOf 0x3F800000 = none ∧ Ext.lt (extWord beyond.tmax) (extWord 0x3F800000) = true)
      ∧ ((childOrder missed 0).filter fun c => c.hit && inner 0 c.slot && Ext.le c.te (extWord missed.tmax)) = []
      ∧ (((childOrder down (2 ^ 120)).filter fun c => c.hit && inner (2 ^ 120) c.slot
          && Ext.le c.te (extWord down.tmax)).length = 1 ∧ down.stk.length + 0 ≤ 8) := by
  decide +kernel

/-- O43: a leaf's primitive in hand: a triangle that the ray misses; one that it hits, opaque or not; a procedural one at the
origin, and one beyond TMAX. The shader table has one entry at 0x1_0000. -/
theorem witness_Primitives :
    let visit := fun (n : Nat) (got : Cells Word) => ({ node := n, leaves := 0, todo := [(0, 0)], got := got } : Visit)
    let ray := fun (v : Visit) => ({ aRay with
      state := .traversing, visit := some v, org := [0x3E800000, 0x3E800000, 0] } : Ray)
    let zeros : Cells Word := (List.range 16).map fun k => (k, 0)
    let hitWords := fun (flags : Word) => ([(0, 0), (1, 0), (2, 0x3F800000), (3, 0x3F800000), (4, 0), (5, 0x3F800000), (6, 0),
      (7, 0x3F800000), (8, 0x3F800000), (9, 7), (10, flags), (11, 0), (12, 0), (13, 0), (14, 0), (15, 0)] : Cells Word)
    let leaf := 2 ^ 128
    let past := fun (v : Visit) => { ray v with visit := some { v with todo := [], got := [] } }
    let missed := visit leaf zeros
    let opaque_ := visit leaf (hitWords 0x100)
    let asks := visit leaf (hitWords 0)
    let box := visit (2 * leaf) (zeros.filter fun e => decide (9 ≤ e.1))
    let here : Ray := { past box with org := [0, 0, 0] }
    let far : Ray := { here with tmin := 0x3F800000, tmax := 0x3F000000 }
    let t : State := { noded with travs := [(0, ⟨⟨0, 1, 0x10000, 0x10000, 1⟩, none, 0⟩)] }
    (childKind missed.node 0 = 1 ∧ (∀ q, q < 16 → (missed.got.get? q).isSome = true)
        ∧ triangle (past missed) (wordsNat missed.got 16) = none)
      ∧ (∀ v ∈ [opaque_, asks], childKind v.node 0 = 1 ∧ (∀ q, q < 16 → (v.got.get? q).isSome = true)
        ∧ (triangle (past v) (wordsNat v.got 16)).isSome = true ∧ (ray v).resume = none)
      ∧ (ray opaque_).opaquePrim (fieldAt (wordsNat opaque_.got 16) 0x29 1) = true
      ∧ (ray asks).opaquePrim (fieldAt (wordsNat asks.got 16) 0x29 1) = false
      ∧ (childKind box.node 0 ≠ 1 ∧ (∀ q, q < 16 → 9 ≤ q → (box.got.get? q).isSome = true)
        ∧ Ext.lt (extWord here.tmax) (slabs here box.node 0).1 = false
        ∧ Ext.lt (extWord far.tmax) (slabs far box.node 0).1 = true)
      ∧ (noded.travRecord (ray asks)).map (·.sbtCount) = some 0
      ∧ ((t.travRecord (ray asks)).map (·.sbtCount) = some 1 ∧ (ray asks).stk.length < 8
        ∧ (t.engineRead (stackPlace 0) 0 false 0x10000 4).2 = .ok 0x00011000
        ∧ ({ t with travs := [(0, ⟨⟨0, 1, 0x10000, 0x11000, 1⟩, none, 0⟩)] }.engineRead (stackPlace 0) 0 false 0x11000 4).2
            = .ok 0) := by
  decide +kernel

/-! ### Structure updates -/

/-- Descriptor words: one rewrite, the entry list at `list`, the counter at 0x1_2000, the increment 1 (Table 21.11). -/
def updateWords (kind list : Word) : List Word := [0x00010100 ||| kind, 0, list, 0, 0x12000, 0, 1, 0]

/-- An update at the head of the queue. -/
def anUpdate (src : Dword ⊕ List Word) (failed : Bool) (next : Nat) : Update :=
  { ctx := 0, sys := false, source := src, owner := some (0, 0), packet := none, next := next, failed := failed }

def updating (u : Update) : State := { mapped [(0x10FE4, 1)] with updates := [u] }

/-- O44: the addresses of `ASUPD` in s20:s21. -/
theorem witness_Asupd (va : Dword) (h : va = 0x1000000000000 ∨ va = 4 ∨ va = 0x10000) :
    let J : Jet := { jet0 with sregs := [(20, va.extractLsb' 0 32), (21, va.extractLsb' 32 32)] }
    Issues (issuing loadedBasin J) { ureads := [20, 21] } (basinOf J) J ∧ NoTransaction (issuing loadedBasin J) J
      ∧ J.spair 20 = va ∧ (issuing loadedBasin J).updates.length < 1024
      ∧ (2 ^ 48 ≤ va.toNat ∨ (va.toNat < 2 ^ 48 ∧ va.toNat % 8 ≠ 0) ∨ (va.toNat < 2 ^ 48 ∧ va.toNat % 8 = 0)) := by
  rcases h with rfl | rfl | rfl <;>
  exact ⟨issuing_issues _ _ _ rfl (by decide), noTransaction_of (by decide), by decide, by decide, by decide⟩

/-- The bytes that a read of the engine found. -/
def found (x : State × Fetch (List Byte)) : List Byte :=
  match x.2 with
  | .ok l => l
  | .held | .fault _ _ _ | .poison _ => []

/-- O44: an update whose descriptor is still to be read, one whose entries are written, one that has failed, a bad one. -/
theorem witness_StructureUpdates :
    let u0 := anUpdate (.inl 0x10000) false 0
    let u1 := anUpdate (.inr (updateWords 1 0x10000)) false 1
    let u2 := anUpdate (.inr (updateWords 1 0x10000)) true 0
    let bad := updateWords 4 0x10000
    let x := (updating u1).translate ioPlace 0 false 0x12000 .write
    ((updating u0).updates = [u0] ∧ u0.faulted = false ∧ u0.lost = false ∧ (updating u0).sueReleased u0 = true
        ∧ u0.packet = none ∧ (found ((updating u0).sueBytes u0 0x10000 32)).length = 32)
      ∧ ((updating u1).sueReleased u1 = true ∧ sueCtr (updateWords 1 0x10000) = 0x12000 ∧ 0x12000 % 8 = 0 ∧ 0x12000 < 2 ^ 48
        ∧ x.2 = .ok 0x12000 ∧ x.1.token.holder = none ∧ inControl 0x12000 = false ∧ Memory.wf x.1.mem = true
        ∧ u1.failed = false ∧ sueDescOk (updateWords 1 0x10000) = true ∧ sueKind (updateWords 1 0x10000) = 1
        ∧ sueTotal (updateWords 1 0x10000) ≤ u1.next ∧ Clean x.1 0x12000 8)
      ∧ (u2.failed = true ∧ (updating u2).sueReleased u2 = true ∧ sueDescOk bad = false ∧ sueCtr bad = 0x12000
        ∧ x.1.isHbm 0x12000 = true) :=
  ⟨⟨rfl, rfl, rfl, by decide, rfl, by decide⟩,
    ⟨by decide, by decide, by decide, by decide, by decide, by decide, by decide, by decide, rfl, by decide, by decide, by decide,
      fun _ _ => ⟨by rfl, by rfl⟩⟩,
    ⟨rfl, by decide, by decide, by decide, by decide⟩⟩

/-- O44: a CONFIG update whose record lies at 0x1_0FE0, across two pages. -/
theorem witness_Config :
    let ws := updateWords 3 0x10FE0
    let u := anUpdate (.inr ws) false 0
    let s := updating u
    let r := s.sueBytes u (sueList ws) 64
    let rec0 : TravRecord := ⟨0, 1, 0, 0, 0⟩
    let x := ((r.1.loadConfig 0 rec0).withUpdate fun u => { u with next := 1 }).translate ioPlace 0 false (sueCtr ws) .write
    s.updates = [u] ∧ s.sueReleased u = true ∧ sueDescOk ws = true ∧ sueKind ws = 3 ∧ u.next = 0 ∧ s.rays = []
      ∧ travRecordOf (found r) = some rec0 ∧ x.2 = .ok 0x12000 ∧ x.1.token.holder = none ∧ sueCtr ws < 2 ^ 48 :=
  ⟨rfl, by decide, by decide, by decide, rfl, rfl, by decide +kernel, by decide +kernel, by decide +kernel, by decide⟩

/-- The module whose I/O TLB already holds the page of a rewrite: NODE is 0x1_0080 and the image stands at 0x1_0100. -/
def warmEntry : TlbEntry := ⟨ioPlace, 0, 0x10, 12, 0x1007F⟩
def warm : State := { mapped [(0x10000, 0x80), (0x10002, 1), (0x10009, 1), (0x1000A, 1)] with tlb := [warmEntry] }

/-- Kept or not, the entry leads to the same place and is in the TLB afterwards. -/
theorem warm_translate (va : Nat)
    (h : va ∈ [0x10000, 0x10080, 0x10094, 0x10098, 0x100A0, 0x100C0, 0x100E0, 0x10100, 0x10120, 0x10140, 0x10160])
    (acc : Access) (ha : acc = .read ∨ acc = .write) : warm.translate ioPlace 0 false va acc = (warm, .ok va) := by
  have ht : warm.tlb = [warmEntry] := rfl
  have hit : ∀ b, warmEntry.kept warm.tick = b →
      tlbHit warm.tlb warm.tick ioPlace 0 va acc = if b then some warmEntry else none := by
    intro b hb
    simp only [List.mem_cons, List.not_mem_nil, or_false] at h
    rcases h with rfl | rfl | rfl | rfl | rfl | rfl | rfl | rfl | rfl | rfl | rfl <;> rcases ha with rfl | rfl <;>
    · simp only [tlbHit, tlbAt, ht, List.find?, hb]
      cases b <;> rfl
  unfold State.translate State.translateBy
  rw [hit _ rfl]
  simp only [List.mem_cons, List.not_mem_nil, or_false] at h
  rcases h with rfl | rfl | rfl | rfl | rfl | rfl | rfl | rfl | rfl | rfl | rfl <;> rcases ha with rfl | rfl <;>
  · cases warmEntry.kept warm.tick <;> decide +kernel

theorem warm_read (va n : Nat)
    (h : (va, n) ∈ [(0x10000, 16), (0x10094, 4), (0x10100, 32), (0x10120, 32), (0x10140, 32), (0x10160, 32)]) :
    warm.engineRead ioPlace 0 false va n = (warm, .ok (warm.homeNat va n)) := by
  have hl : warm.lineHeld va = false := rfl
  unfold State.engineRead
  simp only [List.mem_cons, List.not_mem_nil, or_false, Prod.mk.injEq] at h
  rcases h with ⟨rfl, rfl⟩ | ⟨rfl, rfl⟩ | ⟨rfl, rfl⟩ | ⟨rfl, rfl⟩ | ⟨rfl, rfl⟩ | ⟨rfl, rfl⟩ <;>
  · rw [warm_translate _ (by decide) .read (.inl rfl), if_neg (by decide)]
    simp only [hl]
    decide +kernel

theorem warm_read_node (va n : Nat)
    (h : (va, n) ∈ [(0x10080, 32), (0x100A0, 32), (0x100C0, 32), (0x100E0, 32)]) :
    warm.engineRead ioPlace 0 false va n = (warm, .ok (warm.homeNat va n)) := by
  have hl : warm.lineHeld va = false := rfl
  unfold State.engineRead
  simp only [List.mem_cons, List.not_mem_nil, or_false, Prod.mk.injEq] at h
  rcases h with ⟨rfl, rfl⟩ | ⟨rfl, rfl⟩ | ⟨rfl, rfl⟩ | ⟨rfl, rfl⟩ <;>
  · rw [warm_translate _ (by decide) .read (.inl rfl), if_neg (by decide)]
    simp only [hl]
    decide +kernel

/-- The update engine at an entry of a rewrite (1) or of a refit (2). -/
def engine (kind : Word) : Update := anUpdate (.inr (updateWords kind 0x10000)) false 0

theorem warm_bytes (kind : Word) (va n : Nat) (h : (va, n) ∈ [(0x10000, 16), (0x10094, 4)]) :
    warm.sueBytes (engine kind) va n = (warm, .ok ((List.range n).map fun i => BitVec.ofNat 8 (warm.homeNat va n / 256 ^ i))) := by
  have hr := warm_read va n (by simp only [List.mem_cons, List.not_mem_nil, or_false, Prod.mk.injEq] at h ⊢; omega)
  have hq : rowRequests va (n / 32 + 2) n = [(va, n)] := by
    simp only [List.mem_cons, List.not_mem_nil, or_false, Prod.mk.injEq] at h
    rcases h with ⟨rfl, rfl⟩ | ⟨rfl, rfl⟩ <;> decide
  unfold State.sueBytes
  rw [hq]
  simp [State.sueRead, engine, anUpdate, hr]

theorem warm_places (kind : Word) (l : List (Nat × Nat))
    (h : ∀ e ∈ l, e.1 ∈ [0x10080, 0x10094, 0x10098, 0x100A0, 0x100C0, 0x100E0]) :
    warm.suePlaces (engine kind) l = (warm, .ok l) := by
  have hl : ∀ a, warm.lineHeld a = false := fun _ => rfl
  induction l with
  | nil => rfl
  | cons e l ih =>
    have he : ¬ 2 ^ 48 ≤ e.1 := by
      have := h e (by simp)
      simp only [List.mem_cons, List.not_mem_nil, or_false] at this
      omega
    have tr := warm_translate e.1 (by
      have := h e (by simp)
      simp only [List.mem_cons, List.not_mem_nil, or_false] at this ⊢
      omega) .write (.inr rfl)
    have hc : warm.translate ioPlace (engine kind).ctx (engine kind).sys e.1 .write = (warm, .ok e.1) := tr
    have rest := ih fun x hx => h x (by simp [hx])
    rw [State.suePlaces, if_neg he]
    simp only [hc, hl, rest, Bool.false_eq_true, if_false]

/-- Four reads of 32 bytes in a row. -/
theorem warm_lines (kind : Word) (va n : Nat) (h : (va, n) ∈ [(0x10100, 128), (0x10080, 128), (0x10100, 64)]) :
    ∃ l : List Byte, warm.sueBytes (engine kind) va n = (warm, .ok l) := by
  unfold State.sueBytes
  simp only [List.mem_cons, List.not_mem_nil, or_false, Prod.mk.injEq] at h
  rcases h with ⟨rfl, rfl⟩ | ⟨rfl, rfl⟩ | ⟨rfl, rfl⟩
  · rw [show rowRequests 0x10100 (128 / 32 + 2) 128 = [(0x10100, 32), (0x10120, 32), (0x10140, 32), (0x10160, 32)] by decide]
    simp [State.sueRead, engine, anUpdate, warm_read]
  · rw [show rowRequests 0x10080 (128 / 32 + 2) 128 = [(0x10080, 32), (0x100A0, 32), (0x100C0, 32), (0x100E0, 32)] by decide]
    simp [State.sueRead, engine, anUpdate, warm_read_node]
  · rw [show rowRequests 0x10100 (64 / 32 + 2) 64 = [(0x10100, 32), (0x10120, 32)] by decide]
    simp [State.sueRead, engine, anUpdate, warm_read]

/-- O44: a rewrite whose entry, image and version are read and whose node's pieces are placed; a piece of it still to be written;
and its version word, the last. -/
theorem witness_Rewrite :
    let ws := updateWords 1 0x10000
    let w : List (Nat × Nat) → NodeWrite := fun left =>
      { node := 0x10080, image := List.replicate 128 7, version := 1, left := left }
    sueKind ws = 1 ∧ (engine 1).next < sueTotal ws ∧ inControl 0x10094 = false ∧ 0x10094 % 4 = 0
      ∧ warm.updateHeld (engine 1) = false ∧ Memory.wf warm.mem = true
      ∧ (∃ e img ver, warm.sueBytes (engine 1) (sueList ws + 16 * (0 % sueCount ws)) 16 = (warm, .ok e)
        ∧ listNat (e.take 8) = 0x10080 ∧ warm.sueBytes (engine 1) (listNat (e.drop 8)) 128 = (warm, .ok img)
        ∧ warm.sueBytes (engine 1) (0x10080 + 0x14) 4 = (warm, .ok ver) ∧ ver.length = 4
        ∧ warm.suePlaces (engine 1) (nodePieces 0x10080 ++ versionPieces 0x10080)
            = (warm, .ok (nodePieces 0x10080 ++ [(0x10094, 4)])) ∧ Clean warm 0x10094 4)
      ∧ ((w [(0x100E0, 32)]).left[(warm.free 950000).toNat % (w [(0x100E0, 32)]).left.length]? = some (0x100E0, 32)
        ∧ warm.suePlaces (engine 1) [(0x100E0, 32)] = (warm, .ok [(0x100E0, 32)]) ∧ 0x10080 ≤ 0x100E0 ∧ 32 ≤ 32
        ∧ 0x100E0 % 32 + 32 ≤ 32 ∧ 0x100E0 - 0x10080 + 32 ≤ (w [(0x100E0, 32)]).image.length ∧ Clean warm 0x100E0 32)
      ∧ ((w []).left = [] ∧ warm.suePlaces (engine 1) (versionPieces 0x10080) = (warm, .ok [(0x10094, 4)])) := by
  obtain ⟨img, hi⟩ := warm_lines 1 0x10100 128 (by decide)
  have hp : versionPieces 0x10080 = [(0x10094, 4)] := by decide
  refine ⟨by decide, by decide, by decide, by decide, rfl, by decide +kernel, ?_, ?_, rfl, hp ▸ warm_places _ _ (by decide)⟩
  · refine ⟨_, img, _, warm_bytes _ 0x10000 16 (by decide), by decide +kernel, ?_, warm_bytes _ 0x10094 4 (by decide), by decide,
      hp ▸ warm_places _ _ (by decide), fun _ _ => ⟨rfl, rfl⟩⟩
    have hs : listNat (((List.range 16).map fun i => BitVec.ofNat 8 (warm.homeNat 0x10000 16 / 256 ^ i)).drop 8) = 0x10100 := by
      decide +kernel
    rw [hs]
    exact hi
  · exact ⟨by simp [Nat.mod_one], warm_places _ _ (by decide), by decide, by decide, by decide,
      (by simp : 0x60 + 32 ≤ (List.replicate 128 (7 : Byte)).length), fun _ _ => ⟨rfl, rfl⟩⟩

/-- O44: the same entry of a refit, in its first phase and in its second. -/
theorem witness_Refit (next : Nat) (h : next = 0 ∨ next = 1) :
    let ws := updateWords 2 0x10000
    let u : Update := { engine 2 with next := next }
    sueKind ws = 2 ∧ sueDescOk ws = true ∧ next < sueTotal ws ∧ (next = 0 → next < sueCount ws)
      ∧ (next = 1 → sueCount ws ≤ next) ∧ u.write = none ∧ warm.updateHeld u = false ∧ Memory.wf warm.mem = true
      ∧ ∃ e img old, warm.sueBytes (engine 2) (sueList ws + 16 * (next % sueCount ws)) 16 = (warm, .ok e)
        ∧ listNat (e.take 8) = 0x10080 ∧ warm.sueBytes (engine 2) (listNat (e.drop 8)) 64 = (warm, .ok img)
        ∧ warm.sueBytes (engine 2) 0x10080 128 = (warm, .ok old)
        ∧ warm.suePlaces (engine 2) (nodePieces 0x10080 ++ versionPieces 0x10080)
            = (warm, .ok (nodePieces 0x10080 ++ [(0x10094, 4)])) := by
  obtain ⟨img, hi⟩ := warm_lines 2 0x10100 64 (by decide)
  obtain ⟨old, ho⟩ := warm_lines 2 0x10080 128 (by decide)
  have hp : versionPieces 0x10080 = [(0x10094, 4)] := by decide
  have hs : listNat (((List.range 16).map fun i => BitVec.ofNat 8 (warm.homeNat 0x10000 16 / 256 ^ i)).drop 8) = 0x10100 := by
    decide +kernel
  rcases h with rfl | rfl <;>
  exact ⟨by decide, by decide, by decide, by decide, by decide, rfl, rfl, by decide +kernel, _, img, old,
    warm_bytes _ 0x10000 16 (by decide), by decide +kernel, by rw [hs]; exact hi, ho, hp ▸ warm_places _ _ (by decide)⟩

/-! ### Growth, repacking and launches -/

theorem witness_Growth :
    let o : LongOp := { pending (.grow 5) none with dests := [(0, .ureg 10), (1, .ureg 11)], lane := 32 }
    Issues sample { ureads := [12] } (basinOf jet0) jet0
      ∧ ((holding (waiting o)).basins.get? 0 = some (basinOf (waiting o)) ∧ (basinOf (waiting o)).jets.get? 0 = some (waiting o)
        ∧ (waiting o).longs[0]? = some o ∧ o.kind = .grow 5 ∧ o.val = none ∧ (waiting o).released .pkg o.tag o.lanes = true
        ∧ (holding (waiting o)).launches.get? (basinOf (waiting o)).launch = some loadedLaunch) :=
  ⟨sample_issues _ (by decide), ⟨rfl, rfl, rfl, rfl, rfl, by decide, rfl⟩⟩

theorem witness_Repacking :
    let J : Jet := { jet0 with threads := jet0.threads.mapKeys fun _ (T : Thread) => { T with wait := .reord 39 } }
    (holding J).basins.get? 0 = some (basinOf J) ∧ (basinOf J).reordReady = true
      ∧ Cells.sortedFrom none (basinOf J).jets = true ∧ (∀ e ∈ (basinOf J).jets, e.2.Ordered)
      ∧ ∀ e ∈ (basinOf J).jets, e.2.run = .exited → e.2.threads = [] := by
  refine ⟨rfl, by decide, by decide, ?_, ?_⟩ <;> intro e he <;> cases List.mem_singleton.1 he
  · exact ⟨by decide, by decide⟩
  · intro h
    cases h

/-- Queue 7 of context 0: its ring at 0x1_2000, its tail word at 0x1_2800, its head word at 0x1_2840, eight packets (Table 27.5). -/
def queueCtl : Cells Byte :=
  [(0xE1, 0x20#8), (0xE2, 1#8), (0xE9, 0x28#8), (0xEA, 1#8), (0xF0, 0x40#8), (0xF1, 0x28#8), (0xF2, 1#8), (0xF8, 3#8),
    (0xF9, 1#8)].foldl (fun (c : Cells Byte) (e : Nat × Byte) => Cells.set 0 c (0x20000 + e.1) e.2) loadedControl

/-- The module with that queue, its tail word and one packet. -/
def queued (tail : Byte) (packet : List (Nat × Byte)) (known : Nat) : State :=
  { mapped ((0x12800, tail) :: packet.map fun (e : Nat × Byte) => (0x12000 + e.1, e.2)) with ctl := queueCtl }.setQueue 0 7 { tail := known }

/-- O46, first clause: a tail inside the queue, at its last place, and past it. -/
theorem witness_TailPoll :
    let s := queued 8 [] 0
    let far := queued 9 [] 0
    s.queueOn 0 7 = true ∧ s.badPlace (s.tailAddr 0 7) = false ∧ s.reachable (s.tailAddr 0 7) = true
      ∧ s.lineHeld (s.tailAddr 0 7) = false ∧ (s.queue 0 7).tail ≤ s.homeNat (s.tailAddr 0 7) 8
      ∧ s.homeNat (s.tailAddr 0 7) 8 ≤ (s.queue 0 7).head + 2 ^ s.queueLog 0 7
      ∧ (far.queue 0 7).head + 2 ^ far.queueLog 0 7 < far.homeNat (far.tailAddr 0 7) 8 :=
  ⟨by decide, by decide, by decide, by decide, by decide, by decide, by decide⟩

/-- O46: a packet of no known type; a launch of one jet at 0x1_0000; a copy from 0x1_0000 to 0x1_1000; an update. -/
def launchBytes : List (Nat × Byte) :=
  [(0, 1), (1, 1), (9, 1), (0xA, 4), (0x12, 1), (0x20, 1), (0x24, 1)]
def copyBytes : List (Nat × Byte) :=
  [(0, 2), (1, 1), (0x12, 1), (0x19, 0x10), (0x1A, 1), (0x1D, 0x2F), (0x1E, 1), (0x20, 1), (0x24, 15)]
def updateBytes : List (Nat × Byte) := [(0, 3), (1, 1), (0x10, 1), (0x11, 1), (0x12, 1)]

theorem witness_Packets :
    let s := fun bs => queued 1 bs 1
    let p := fun bs => (s bs).homeNat 0x12000 128
    (∀ bs ∈ [[], launchBytes, copyBytes, updateBytes], (s bs).packetWaits 0 7 = true ∧ (s bs).headPacket 0 7 = 0x12000
        ∧ (s bs).badPlace 0x12000 = false ∧ (s bs).badPlace ((s bs).headAddr 0 7) = false ∧ (s bs).reachable 0x12000 = true
        ∧ (s bs).queueHeld 0 7 = false ∧ (s bs).hasTurn 0 7 = true ∧ inControl 0x12000 = false
        ∧ inControl ((s bs).headAddr 0 7) = false)
      ∧ ¬ (fieldAt (p []) 0 1 ∈ [1, 2, 3])
      ∧ (fieldAt (p launchBytes) 0 1 = 1 ∧ (s launchBytes).launches.length < 1024
        ∧ (s launchBytes).launchOk (p launchBytes) = true ∧ (s launchBytes).tooLarge (p launchBytes) = false
        ∧ counterMisaligned (p launchBytes) = false)
      ∧ (fieldAt (p copyBytes) 0 1 = 2 ∧ fieldAt (p copyBytes) 1 1 = 1 ∧ fieldAt (p copyBytes) 2 2 = 0
        ∧ copyDescOk (packetDesc (p copyBytes)) none = true ∧ copyRange (copyDesc (packetDesc (p copyBytes))) = none)
      ∧ (fieldAt (p updateBytes) 0 1 = 3 ∧ fieldAt (p updateBytes) 1 1 = 1 ∧ fieldAt (p updateBytes) 2 2 = 0
        ∧ sueKind (packetDesc (p updateBytes)) ∈ [1, 2, 3] ∧ descWord (packetDesc (p updateBytes)) 0 / 256 % 256 = 1
        ∧ (s updateBytes).updates.length < 1024) := by
  refine ⟨by decide +kernel, by decide +kernel, ⟨by decide +kernel, by decide, by decide +kernel, by decide +kernel,
    by decide +kernel⟩, ⟨by decide +kernel, by decide +kernel, by decide +kernel, by decide +kernel, by decide +kernel⟩,
    by decide +kernel, by decide +kernel, by decide +kernel, by decide +kernel, by decide +kernel, by decide⟩

/-- O46: a launch that waits on a counter below and at its target. -/
theorem witness_LaunchStages (target : Dword) (h : target = 0 ∨ target = 1) :
    let L : Launch := { loadedLaunch with stage := .counter, wait := some (0x10000, target), queue := 7 }
    let s : State := { (queued 1 [] 1).setQueue 0 7 { tail := 1, launch := some 1, waitPa := some 0x10000 } with
                       launches := [(1, L)] }
    s.serving = true ∧ (s.queue 0 7).launch = some 1 ∧ s.launches.get? 1 = some L ∧ L.stage = .counter ∧ L.ended = false
        ∧ L.wait = some (0x10000, target) ∧ (s.queue 0 7).waitPa = some 0x10000 ∧ s.faults = [] ∧ s.token.holder = none
        ∧ Clean s 0x10000 8 ∧ L.ctx = 0 ∧ L.queue = 7 ∧ inControl (s.headAddr 0 7) = false
        ∧ (target = 1 → s.homeNat 0x10000 8 < target.toNat)
        ∧ (target = 0 → target.toNat ≤ s.homeNat 0x10000 8 ∧ L.stagingList = none ∧ s.hasTurn 0 7 = true) := by
  rcases h with rfl | rfl <;>
  exact ⟨by decide, by decide, rfl, rfl, rfl, rfl, by decide, rfl, rfl, fun _ _ => ⟨by rfl, by rfl⟩, rfl, rfl, by decide, by decide,
    by decide⟩

/-- A launch whose staging list of two entries lies at 0x1_0000, as far as it is; the
second entry names the page 0x10 with PIN. -/
def stagingLaunch (staged : Nat) (pages : Option (Nat × Nat × Bool)) : Launch :=
  { loadedLaunch with stage := .staging, stagingList := some (0x10000, 2), queue := 7, staged := staged, stagedPages := pages }

def stagingState (staged : Nat) (pages : Option (Nat × Nat × Bool)) : State :=
  { queued 1 [] 1 with
    mem := [(0x10012, 1#8), (0x10018, 1#8), (0x1001C, 1#8)].foldl (fun (m : Memory) (e : Nat × Byte) => Cells.set 0 m e.1 e.2)
      (queued 1 [] 1).mem
    launches := [(1, stagingLaunch staged pages)] }

/-- O46: a launch whose staging is done, one with an entry to read, one with a page and one with no page of its entry left. -/
theorem witness_Staging :
    (∀ staged pages, (stagingState staged pages).serving = true
        ∧ (stagingState staged pages).launches.get? 1 = some (stagingLaunch staged pages)
        ∧ (stagingLaunch staged pages).stage = .staging ∧ (stagingLaunch staged pages).stagingList = some (0x10000, 2)
        ∧ (stagingLaunch staged pages).ended = false
        ∧ (stagingState staged pages).faults = [])
      ∧ ((stagingState 2 none).queueHeld 0 7 = false ∧ (stagingState 2 none).hasTurn 0 7 = true
        ∧ inControl ((stagingState 2 none).headAddr 0 7) = false)
      ∧ ((stagingState 1 none).queueHeld 0 7 = false ∧ (stagingState 1 none).pagePassed 1 0x10 = false
        ∧ (found ((stagingState 1 none).sueBytes (listReader 0) (0x10000 + 16) 16)).length = 16
        ∧ stagingEntry (listNat (found ((stagingState 1 none).sueBytes (listReader 0) (0x10000 + 16) 16)))
            = some (0x10, 1, true))
      ∧ ((stagingState 1 (some (0x10, 1, true))).queueHeld 0 7 = false ∧ 0x10 < 2 ^ 36
        ∧ (stagingState 1 (some (0x10, 1, true))).pagePassed 1 0x10 = false
        ∧ (stagingState 1 (some (0x10, 1, true))).findLeaf 0x10000 3 ((stagingState 1 (some (0x10, 1, true))).root 0)
            = .leaf 0x4080 0x1007F 0)
      ∧ (stagingState 1 (some (0x11, 0, true))).queueHeld 0 7 = false :=
  ⟨fun _ _ => ⟨rfl, rfl, rfl, rfl, rfl, rfl⟩, ⟨by decide, by decide +kernel, by decide⟩,
    ⟨by decide, by decide, by decide +kernel, by decide +kernel⟩, ⟨by decide, by decide, by decide, by decide⟩, by decide⟩

/-- Every list of a small state is in order. -/
theorem regular_of {s : State} {B : Basin} {J : Jet} (hb : s.basins = [(0, B)]) (hj : B.jets = [(0, J)]) (ho : J.Ordered)
    (hx : J.run ≠ .exited) (hw : 32 ≤ J.wb)
    (ht : ∀ e ∈ J.threads, Cells.sortedFrom none e.2.tx.rlog = true ∧ Cells.sortedFrom none e.2.tx.wlog = true)
    (hm : Cells.wf (0 : Byte) B.scratch = true ∧ Cells.wf (0 : Byte) B.region = true ∧ Cells.wf (0 : Word) B.accs = true
      ∧ Cells.sortedFrom none B.tiles = true)
    (hl : Cells.sortedFrom none s.launches = true ∧ ∀ e ∈ s.launches, e.2.saved = [])
    (hs : Cells.wf (0 : Byte) s.wh.sideband = true) : Regular s := by
  have one : ∀ b B', (b, B') ∈ s.basins → B' = B := by
    intro b B' h
    rw [hb] at h
    exact congrArg Prod.snd (List.mem_singleton.1 h)
  have two : ∀ b B' j J', (b, B') ∈ s.basins → (j, J') ∈ B'.jets → J' = J := by
    intro b B' j J' h h'
    rw [one b B' h, hj] at h'
    exact congrArg Prod.snd (List.mem_singleton.1 h')
  constructor
  · rw [hb]; rfl
  · intro b B' h; rw [one b B' h, hj]; rfl
  · intro b B' j J' h h'; rw [two b B' j J' h h']; exact ho
  · intro b B' j J' h h' hr; rw [two b B' j J' h h'] at hr; exact absurd hr hx
  · intro b B' j J' h h'; rw [two b B' j J' h h']; exact hw
  · intro b B' j J' l T h h' h''; rw [two b B' j J' h h'] at h''; exact ht (l, T) h''
  · intro b B' h; rw [one b B' h]; exact hm.1
  · intro b B' h; rw [one b B' h]; exact hm.2.1
  · intro b B' h; rw [one b B' h]; exact hm.2.2.1
  · intro b B' h; rw [one b B' h]; exact hm.2.2.2
  · exact hl.1
  · intro n L r h h'; rw [hl.2 (n, L) h] at h'; cases h'
  · exact hs

theorem base_regular : Regular base :=
  regular_of rfl rfl ⟨by decide, by decide⟩ (by decide) (by decide) (by decide) ⟨rfl, rfl, rfl, rfl⟩
    ⟨by decide, by decide⟩ rfl

/-- O12: a barrier with its error set; one without arrivals and a count of 0 or 33; one with an arrival of a count of 2 that
meets the count 3. -/
theorem witness_BarrierErrors (K : Barrier) (n : Nat)
    (h : (K = { err := true } ∧ n = 2) ∨ (K = {} ∧ (n = 0 ∨ n = 33)) ∨ (K = { count := 2, arrived := 1 } ∧ n = 3)) :
    let J : Jet := { jet0 with sregs := [(14, BitVec.ofNat 32 n)] }
    let B : Basin := { loadedBasin with barriers := [(15, K)] }
    let s := issuing B J
    let cnt := (J.sreg 14).toNat
    Issues s { ureads := [14], ends := true } { B with jets := [(0, J)] } J ∧ J.sys = false ∧ NoTransaction s J
      ∧ J.drained .bsn = true ∧ (∀ l, s.executes l = true → (J.threads.get? l).isSome = true ∧ s.issues l = true)
      ∧ Cells.get {} B.barriers 15 = K ∧ Regular s
      ∧ (K.err = true ∨ (K.arrived = 0 ∧ (cnt < 1 ∨ 32 * B.shape.jets < cnt)) ∨ (0 < K.arrived ∧ cnt ≠ K.count)) := by
  rcases h with ⟨rfl, rfl⟩ | ⟨rfl, rfl | rfl⟩ | ⟨rfl, rfl⟩ <;>
  · refine ⟨issuing_issues _ _ _ rfl (by decide), rfl, noTransaction_of (by decide), by decide, fun l h => ?_, rfl, ?_, by decide⟩
    · exact of_lanes (P := fun l => (jet0.threads.get? l).isSome = true ∧ (3#32).getLsbD l = true) (by decide) (by decide) l h
    · exact regular_of rfl rfl ⟨by decide, by decide⟩ (by decide) (by decide) (by decide) ⟨rfl, rfl, rfl, rfl⟩
        ⟨by decide, by decide⟩ rfl

/-- O47: a launch with its one basin to place; the same after 100 µs of waiting; its end. -/
theorem witness_Placement :
    let L : Launch := { loadedLaunch with next := 0, lastDie := 7 }
    let s : State := { base with launches := [(1, L)], basins := [] }
    let late : State := { s with time := 100000000 }
    let done : State := { base with basins := [] }
    (s.serving = true ∧ s.launches = [(1, L)] ∧ L.stage = .running ∧ L.next < L.count ∧ L.saved = []
        ∧ L.ended = false ∧ L.cosched = false
        ∧ L.wait = none ∧ L.next < L.initial ∧ s.chooseCore 1 L = some 0)
      ∧ (late.serving = true ∧ late.launches.get? 1 = some L ∧ L.unplaced = true ∧ L.reserved.get? L.nextIndex = none
        ∧ L.waitedSince + 100000000 ≤ late.time)
      ∧ (done.serving = true ∧ done.launches.get? 1 = some loadedLaunch ∧ done.launchOver 1 loadedLaunch = true
        ∧ done.faults = [] ∧ loadedLaunch.signal = none ∧ done.statusHeld loadedLaunch.packet = false ∧ Sound done ∧ inControl loadedLaunch.packet = false
        ∧ loadedLaunch.packet % 128 = 0 ∧ done.reachable (loadedLaunch.packet + 0x78) = true
        ∧ Clean done (loadedLaunch.packet + 0x78) 4) :=
  ⟨⟨by decide, rfl, rfl, by decide, rfl, rfl, rfl, rfl, by decide, by decide +kernel⟩, ⟨by decide, rfl, by decide, rfl, by decide⟩,
    ⟨by decide, rfl, by decide, rfl, rfl, by decide, sound_of rfl (by decide) (by decide) rfl, by decide, by decide, by decide,
      fun _ _ => ⟨rfl, rfl⟩⟩⟩

/-- O47: the end of a launch that signals a counter at 0x1_0000. -/
theorem witness_Signal :
    let L : Launch := { loadedLaunch with signal := some (0x10000, 5) }
    let s : State := { base with basins := [], launches := [(1, L)] }
    let x := s.translate ioPlace L.ctx false 0x10000 .write
    s.serving = true ∧ s.launches.get? 1 = some L ∧ s.launchOver 1 L = true ∧ s.faults = []
      ∧ s.statusHeld L.packet = false ∧ s.reachable (L.packet + 0x78) = true ∧ x.2 = .ok 0x10000 ∧ x.1.token.holder = none
      ∧ inControl 0x10000 = false ∧ Memory.wf x.1.mem = true ∧ Clean x.1 0x10000 8 ∧ Clean x.1 (L.packet + 0x78) 4
      ∧ 0x10000 + 8 ≤ L.packet + 0x78 :=
  ⟨by decide, rfl, by decide, rfl, by decide, by decide, by decide, by decide, by decide, by decide,
    fun _ _ => ⟨by rfl, by rfl⟩, fun _ _ => ⟨by rfl, by rfl⟩, by decide⟩

/-- O47: a basin whose jet is over, and one that has left with a write still unacknowledged, and one that is gone; a blocked jet that is ready, and a rotation of slots 0 and 16 of spout 0. -/
theorem witness_Scheduling :
    let ended : Jet := { jet0 with threads := [], run := .exited }
    let waits : Jet := { ended with unacked := 1 }
    let blocked : Jet := { jet0 with run := .blocked }
    let late : State := { base with
      cycle := 2000, basins := [(0, basinOf jet0), (1, { basinOf { jet0 with run := .pending, slot := 16 } with index := 1 })] }
    ((holding ended).basins.get? 0 = some (basinOf ended) ∧ (basinOf ended).gone = false
        ∧ (∀ e ∈ (basinOf ended).jets, e.2.run = .exited ∧ e.2.left.over = true ∧ e.2.over = true)
        ∧ (basinOf ended).matQ = [] ∧ (holding ended).copies = [])
      ∧ ((∀ e ∈ (basinOf waits).jets, e.2.run = .exited) ∧ ∃ e ∈ (basinOf waits).jets, e.2.left.over = false)
      ∧ ((holding blocked).basins.get? 0 = some (basinOf blocked) ∧ (basinOf blocked).jets.get? 0 = some blocked
        ∧ blocked.run = .blocked ∧ (holding blocked).jetReady 0 (basinOf blocked) 0 blocked = true)
      ∧ (late.rotationDue 0 0 = true ∧ (late.longestActive 0 0).isSome = true ∧ (late.oldestPending 0 0).isSome = true) :=
  ⟨⟨rfl, rfl, by decide, rfl, rfl⟩, ⟨by decide, by decide⟩, ⟨rfl, rfl, rfl, by decide⟩, by decide, by decide, by decide⟩

/-! ### Pages, links, mailboxes -/

/-- The module with two free frames in every pool, and the clock at 1,400 MHz. -/
def framed : State :=
  { base with
    ctl := Cells.set 0 (Cells.set 0 base.ctl 0x12 0x78) 0x13 5
    wh := { base.wh with frames := (List.range 17).map fun k => (k, [0x50, 0x51]) } }

theorem framed_pool (k : Nat) : Cells.get [] framed.wh.frames (k % 17) = [0x50, 0x51] :=
  (by decide : ∀ k, k < 17 → Cells.get [] framed.wh.frames k = [0x50, 0x51]) _ (Nat.mod_lt _ (by decide))

/-- A fault at 0x1_1000, which is not mapped, that lanes 0 and 1 wait for. -/
def aFault (kind : BitVec 4) (level0 : Bool) (answer : Option Bool) : Fault0 :=
  { owner := .group 0 0 3 true, ctx := 0, va := 0x11000, kind := kind, level0 := level0, answer := answer }

theorem witness_FaultResolved :
    let f := aFault 1 true none
    let s : State := { framed with faults := [f] }
    Memory.wf s.mem = true ∧ s.faults[0]? = some f ∧ (s.jet? 0 0).isSome = true ∧ s.policy f.ctx = 0 ∧ f.kind = 1
      ∧ f.level0 = true ∧ s.findLeaf f.va.toNat 3 (s.root f.ctx) = .fault 1 true ∧ s.entryAt f.va.toNat 3 (s.root f.ctx) = some 0x4088
      ∧ 0x4088 + 8 ≤ 0x180000000000 ∧ Clean s 0x4088 8
      ∧ Cells.get [] s.wh.frames (pagePool f.ctx (f.va.toNat / 4096)) = 0x50 :: [0x51] :=
  ⟨by decide, rfl, by decide, by decide, rfl, rfl, by decide, by decide, by decide, fun _ _ => ⟨rfl, rfl⟩, framed_pool _⟩

/-- O48: a fault of another kind, a refused one under POLICY 01, and any under POLICY 10 (bits 2:1 of the descriptor). -/
theorem witness_FaultUnresolvable :
    let s := fun (p : Byte) f => ({ base with faults := [f], ctl := Cells.set 0 base.ctl 0x10000 p } : State)
    ((s 1 (aFault 5 false none)).policy 0 = 0 ∧ ¬ ((aFault 5 false none).kind = 1 ∧ (aFault 5 false none).level0 = true))
      ∧ ((s 3 (aFault 1 true (some false))).policy 0 = 1 ∧ (aFault 1 true (some false)).answer = some false)
      ∧ 2 ≤ (s 5 (aFault 1 true none)).policy 0
      ∧ (s 1 (aFault 5 false none)).jet? 0 0 = some jet0 ∧ jet0.sys = false ∧ jet0.causes = [] :=
  ⟨by decide, by decide, by decide, rfl, rfl, rfl⟩

/-- O48: no frame is free, and no context's pages can be given up, context 0 having just lost VALID with the fault waiting. -/
theorem witness_NoFrame :
    let f := aFault 1 true none
    let s : State := { base with ctl := Cells.set 0 base.ctl 0x10000 0, faults := [f], wh := { base.wh with frames := [] } }
    s.policy f.ctx = 0 ∧ f.kind = 1 ∧ f.level0 = true ∧ s.findLeaf f.va.toNat 3 (s.root f.ctx) = .fault 1 true
      ∧ s.noFrame f = true := by
  intro f s
  have hr : s.residents = [] := by decide
  have hf : Cells.get [] s.wh.frames (pagePool f.ctx (f.va.toNat / 4096)) = [] := rfl
  exact ⟨by decide, rfl, rfl, by decide, by simp [State.noFrame, hf, hr]⟩

/-- O48: requests for a page that is resident, one that can be made so, and ones under POLICY 01 and 10. -/
theorem witness_PageRequests :
    let s := fun vpn => ({ framed with pageReqs := [⟨0, 0, vpn, false⟩] } : State)
    let host := fun p : Byte => ({ s 0x11 with ctl := Cells.set 0 framed.ctl 0x10000 p } : State)
    ((s 0x10).pageReqs[0]? = some ⟨0, 0, 0x10, false⟩ ∧ (s 0x10).look 0 false (4096 * 0x10) .read = .ok 0x10000)
      ∧ ((s 0x11).look 0 false (4096 * 0x11) .read = .fault 1 true ∧ (s 0x11).policy 0 = 0
        ∧ (s 0x11).entryAt (4096 * 0x11) 3 ((s 0x11).root 0) = some 0x4088 ∧ Clean (s 0x11) 0x4088 8
        ∧ Cells.get [] (s 0x11).wh.frames (pagePool 0 0x11) = 0x50 :: [0x51])
      ∧ ((host 3).look 0 false (4096 * 0x11) .read = .fault 1 true ∧ (host 3).policy 0 = 1 ∧ 0x11 < 2 ^ 36)
      ∧ ((host 5).look 0 false (4096 * 0x11) .read = .fault 1 true ∧ 2 ≤ (host 5).policy 0) :=
  ⟨⟨rfl, by decide⟩, ⟨by decide, by decide, by decide, fun _ _ => ⟨rfl, rfl⟩, framed_pool _⟩, ⟨by decide, by decide, by decide⟩, by decide, by decide⟩

/-- O48: the page at 0x1_0000 and a free frame; an old request; a sound granule. -/
theorem witness_Pages :
    let o := pending (.load 4) none
    let s : State := { framed with basins := [(0, basinOf (waiting o))], cycle := 2389334 }
    Memory.wf framed.mem = true ∧ framed.resident 0 = true ∧ Clean framed 0x4080 8
      ∧ framed.findLeaf 0x10004 3 (framed.root 0) = .leaf 0x4080 0x1007F 0 ∧ framed.contiguous 0x4080 = false
      ∧ pteBit 0x1007F 7 = false ∧ framed.isHbm (pteFrame 0x1007F) = true ∧ framed.pinned 0 0x10000 12 0x1007F = false
      ∧ 0x51 ∈ Cells.get [] framed.wh.frames (framed.poolAt (pteFrame 0x1007F)) ∧ framed.token.lines = []
      ∧ (∀ x, 0x4080 ≤ x → x < 0x4080 + 8 → ¬ (4096 * 0x51 ≤ x ∧ x < 4096 * 0x51 + 4096))
      ∧ s.jet? 0 0 = some (waiting o) ∧ o.unperformed = true ∧ o.urgent = false
      ∧ 2048 * s.ctlNat 0x12 2 ≤ (s.cycle - o.since) * 1200
      ∧ base.isHbm (32 * 0x800) = true ∧ 0x800 ∉ base.poison :=
  ⟨by decide, by decide, fun _ _ => ⟨rfl, rfl⟩, by decide, by decide, by decide, by decide, by decide, by decide, rfl, by omega, rfl, by decide, rfl,
    by decide, by decide, by simp [base, State.loaded]⟩

/-- O49: the host link up, with 0 and with 15 CRC failures in a row; traffic for device 3 with and without a route. -/
theorem witness_Links :
    let s : State := { base with ctl := Cells.set 0 base.ctl 0x11 16 }
    let t : State := { s with wh := { s.wh with crc := [(15, 15)] } }
    let routed : Params := { base.wh.params with routes := [(3, 15)] }
    let u : State := { s with wh := { s.wh with forward := [(3, 0, [])], params := routed } }
    s.linkUp 15 = true ∧ base.linkUp 15 = false ∧ Cells.get 0 s.wh.crc 15 < 15 ∧ 15 ≤ Cells.get 0 t.wh.crc 15
      ∧ t.linkUp 15 = true ∧ u.wh.forward = [(3, 0, [])] ∧ u.wh.params.routes.get? 3 = some 15 ∧ u.linkUp 15 = true
      ∧ base.wh.params.routes.get? 3 = none :=
  ⟨by decide, by decide, by decide, by decide, by decide, rfl, rfl, by decide, rfl⟩

/-- O49: the host link up, with a load of lane 0 and a write to host memory in flight on it. -/
theorem witness_LinkLosses :
    let o : LongOp := { pending (.load 4) none with pa := some 0x200000000000 }
    let J := waiting o
    let s : State := { holding J with
      ctl := Cells.set 0 base.ctl 0x11 16, writes := [{ aWrite .sent with pa := 0x200000000000 }] }
    s.linkUp 15 = true ∧ Regular s ∧ o.unperformed = true ∧ s.linkOf 0x200000000000 = some 15
      ∧ J.longs.filter (fun o => o.unperformed
          && (match o.pa with | some a => decide (s.linkOf a = some 15) | none => false)) = [o]
      ∧ o.isCtradd = false ∧ o.lanes ≠ 0 ∧ J.causes = []
      ∧ ∀ b B j K, (b, B) ∈ s.basins → (j, K) ∈ B.jets → K.sys = false ∧ K.storeQ = []
        ∧ ∀ l T pa va x acq sc, (l, T) ∈ K.threads → T.wait ≠ .counter pa va x acq sc := by
  intro o J s
  refine ⟨by decide, regular_of rfl rfl ⟨by decide, by decide⟩ (by decide) (by decide) (by decide) ⟨rfl, rfl, rfl, rfl⟩
    ⟨by decide, by decide⟩ rfl, by decide, by decide, by decide, by decide, by decide, rfl, ?_⟩
  intro b B j K hb hj
  have hB : B = basinOf J := congrArg Prod.snd (List.mem_singleton.1 hb)
  rw [hB] at hj
  have hK : K = J := congrArg Prod.snd (List.mem_singleton.1 hj)
  rw [hK]
  refine ⟨rfl, rfl, fun l T pa va x acq sc hT h => ?_⟩
  have : T.wait = .none := (by decide : ∀ e ∈ jet0.threads, e.2.wait = .none) (l, T) hT
  rw [this] at h
  cases h

/-- O49: the start, before and after; the clock at its most and at 100 MHz. -/
theorem witness_StartAndClock :
    let slow : State := { base with ctl := Cells.set 0 base.ctl 0x12 100 }
    State.reset.wh.started = false ∧ base.wh.started = true ∧ Sound framed ∧ Sound slow ∧ framed.ctlNat 0x12 2 = 1400
      ∧ slow.ctlNat 0x12 2 = 100 ∧ 100 + 50 ≤ 1400 :=
  ⟨rfl, rfl, sound_of rfl (by decide) (by decide) rfl, sound_of rfl (by decide) (by decide) rfl, by decide, by decide, by decide⟩

/-- A command word and argument bytes in mailbox 0, its STATUS 1. -/
def command (code : Nat) (args : List (Nat × Byte)) : State :=
  { base with
    ctl := args.foldl (fun (c : Cells Byte) (e : Nat × Byte) => Cells.set 0 c (0x1008 + e.1) e.2)
      (Cells.set 0 (Cells.set 0 base.ctl 0x1000 (BitVec.ofNat 8 code)) 0x1004 1) }

theorem command_regular (code : Nat) (args : List (Nat × Byte)) : Regular (command code args) :=
  regular_of rfl rfl ⟨by decide, by decide⟩ (by decide) (by decide) (by decide) ⟨rfl, rfl, rfl, rfl⟩
    ⟨base_regular.launches, (by decide : ∀ e ∈ base.launches, e.2.saved = [])⟩ rfl

/-- O50: each command waits; the arguments at the bounds of their ranges. -/
theorem witness_MailboxCommands :
    (∀ code ∈ [1, 2, 3, 4, 5, 6, 7, 8, 9, 10, 11], (command code []).commandWaits 0 code = true
        ∧ Cells.wf (0 : Byte) (command code []).ctl = true)
      ∧ (command 1 [(0, 2)]).arg 0 0 4 = 2 ∧ (command 1 [(0, 3)]).arg 0 0 4 = 3
      ∧ (command 2 [(0, 0x08), (1, 0x07)]).arg 0 0 4 = 1800 ∧ (command 2 [(0, 0x10), (1, 0x0E)]).arg 0 0 4 = 3600
      ∧ (command 2 [(0, 0x07), (1, 0x07)]).arg 0 0 4 = 1799 ∧ (command 2 [(0, 0x11), (1, 0x0E)]).arg 0 0 4 = 3601
      ∧ (command 4 [(0, 2)]).launches.get? 2 = none ∧ (command 4 [(0, 1)]).launches.get? 1 = some loadedLaunch
      ∧ (command 4 [(0, 1)]).statusHeld loadedLaunch.packet = false
      ∧ (command 4 [(0, 1)]).queueHeld loadedLaunch.ctx loadedLaunch.queue = false
      ∧ (command 5 []).ringFaults 0 0x11 = []
      ∧ ({ command 5 [] with faults := [{ aFault 1 true none with posted := true }] } : State).ringFaults 0 0x11 ≠ []
      ∧ (command 7 []).noIdentity = false
      ∧ ((command 8 [(5, 0x20)]).arg 0 0 8 = 0x200000000000 ∧ (command 8 [(5, 0x20)]).wh.update = none
        ∧ (command 8 [(5, 0x20)]).badPlace 0x200000000000 = false ∧ inWindow 0x200000000000 = true
        ∧ (command 8 [(5, 0x20)]).linesHeld 0x200000000000 0 = false
        ∧ ({ command 8 [(5, 0x20)] with ctl := Cells.set 0 (command 8 [(5, 0x20)]).ctl 0x11 16 } : State).reachable
            0x200000000000 = true)
      ∧ Sound (command 9 []) ∧ Regular (command 9 []) :=
  ⟨by decide, by decide, by decide, by decide, by decide, by decide, by decide, rfl, rfl, by decide, by decide, rfl, by decide,
    by decide, ⟨by decide, rfl, by decide, by decide, by decide, by decide⟩, sound_of rfl (by decide) (by decide) rfl, command_regular 9 []⟩

/-- O50: a queue of a resident context while an update is in progress. -/
theorem witness_FirmwareSwap :
    let s : State := { queued 1 [] 1 with wh := { (queued 1 [] 1).wh with update := some ⟨5, [1, 2]⟩ } }
    s.wh.update = some ⟨5, [1, 2]⟩ ∧ 0 < 64 ∧ 7 < 256 ∧ s.resident 0 = true ∧ s.queueEnabled 0 7 = true
      ∧ (s.setQueue 0 7 { s.queue 0 7 with firmware := 1 }).allSwapped = true :=
  ⟨rfl, by decide, by decide, by decide, by decide, by decide +kernel⟩

/-- O51: a mailbox command running and none, and what lies at the bounds: the last words before and inside the mailbox. -/
theorem witness_MailboxBounds :
    let s : State := { base with wh := { base.wh with sideband := [(4, 1)] } }
    0xFFC + 4 ≤ 0x1000 ∧ 0x2000 < 2 ^ 39 ∧ 0x1004 ≤ 0x1004 ∧ 0x1004 + 4 ≤ 0x1008 ∧ 0x1008 + 8 ≤ 0x2000 ∧ 0x1FF8 + 8 ≤ 0x2000
      ∧ base.ctlNat 0x1004 4 ≠ 1 ∧ (command 1 []).ctlNat 0x1004 4 = 1 ∧ base.mbNat 1 4 4 ≠ 1 ∧ s.mbNat 1 4 4 = 1
      ∧ (7 : Dword).toNat % 2 ^ 32 ∈ [1, 7, 0xB] ∧ (2 : Dword).toNat % 2 ^ 32 ∉ [1, 7, 0xB] :=
  ⟨by decide, by decide, by decide, by decide, by decide, by decide, by decide, by decide, by decide, by decide, by decide, by decide⟩

/-- O51: at the offsets where the clauses meet, a write is a step of the module as loaded: before the mailbox, on its status, in its
arguments and results, and past it. -/
theorem test_control_offsets :
    ([0x0FFC, 0x1004, 0x1008, 0x1FF8, 0x2000].map fun off => (match exec (.controlSpaceWrite off 4 7) base with
      | .next t => (t.ctlNat 0x0FFC 4, t.ctlNat 0x1004 4, t.ctlNat 0x1008 4, t.ctlNat 0x1FF8 4, t.ctlNat 0x2000 4)
      | .fault _ | .refused _ => (9, 9, 9, 9, 9)))
      = [(0, 0, 0, 0, 0), (0, 0, 0, 0, 0), (0, 0, 7, 0, 0), (0, 0, 0, 7, 0), (0, 0, 0, 0, 0)] := by decide

/-- O51: context 0 is VALID and has a launch, context 63 is not; queue 7 is enabled, queue 255 is not; the last bytes. -/
theorem witness_ControlWrites :
    let s := queued 1 [] 1
    Sound base ∧ Regular base ∧ 63 < 64 ∧ 56 + 8 ≤ 64 ∧ 24 + 8 ≤ 32 ∧ s.resident 0 = true ∧ s.hasLaunch 0 = true
      ∧ s.resident 63 = false ∧ s.queueEnabled 0 7 = true ∧ s.queueEnabled 0 255 = false ∧ base.ctlNat 0x1004 4 ≠ 1
      ∧ (command 1 []).ctlNat 0x1004 4 = 1 ∧ base.mbNat 1 4 4 ≠ 1 :=
  ⟨base_sound, base_regular, by decide, by decide, by decide, by decide, by decide, by decide, by decide, by decide, by decide,
    by decide, by decide⟩

/-! ### The machine as a whole -/

/-- O52: a window, a register that the jet lacks, an empty executing set, an operand that is pending past its shadow. -/
theorem witness_IssueChecks :
    let small : Basin := { loadedBasin with shape := { loadedShape with vgran := 1, rsvn := 0 } }
    let has := fun (B : Basin) (r : Reg) => mapReg 32 r.toNat < 32 * B.shape.vgran - 4 * B.shape.rsvn
    let idle : State := { sample with cur := { sample.cur with exec := 0 } }
    let inside : State := { sample with cur := { sample.cur with window := true } }
    let o : LongOp := { pending (.load 4) none with dests := [(0, .word (mapReg 32 4))] }
    (inside.cur.window = true ∧ jet0.sys = false ∧ quiet jet0.longs = true)
      ∧ ((issuing small jet0).basins.get? 0 = some { small with jets := [(0, jet0)] }
        ∧ ¬ (has { small with jets := [(0, jet0)] } 127 ∧ has { small with jets := [(0, jet0)] } 4 ∧ has { small with jets := [(0, jet0)] } 5))
      ∧ (idle.basins.get? 0 = some (basinOf jet0) ∧ has (basinOf jet0) 127 ∧ idle.cur.exec = 0)
      ∧ (o ∈ (waiting o).longs ∧ o.lane < 32 ∧ (issuing loadedBasin (waiting o)).executes o.lane = true ∧ o.shadow = 0
        ∧ (0, .word (mapReg 32 4)) ∈ o.dests) :=
  ⟨⟨rfl, rfl, rfl⟩, ⟨rfl, by decide⟩, ⟨rfl, by decide, rfl⟩, ⟨by simp [waiting], by decide, by decide, rfl, by simp⟩⟩

/-- R417, R382: an error in a register of the loaded jet halts it and logs a record; one in a scratchpad word poisons the word. -/
theorem test_upsets :
    (match (base.strike (.register 0 0)).jet? 0 0 with | some J => decide (J.run = .halted) | none => false) = true
      ∧ (base.strike (.register 0 0)).errors.length = base.errors.length + 1
      ∧ ((base.strike (.scratchpad 0 4)).basins.get? 0).map (·.scratchPoison) = some [4] := by decide

/-- R245, R268: a write of the host reaches HBM, and waits while the irrevocable lane holds the line. -/
theorem test_host_write :
    let s := { base with foreign := [.write 0x10004 [7]] }
    (s.foreignAct (.write 0x10004 [7])).homeByte 0x10004 = 7
      ∧ (s.foreignAct (.write 0x10004 [7])).foreign = []
      ∧ (({ s with token := { holder := some ⟨0, 0, 0⟩, lines := [512] } }).foreignAct (.write 0x10004 [7])).foreign = s.foreign := by
  decide

/-- O53: right after reset the start is chosen; in the loaded module spout 0 of core 0 has its turn and the word is fetched. -/
theorem witness_StepRunsDecoded :
    let s := State.reset.loaded 0x4C0C0008
    let J := jet0
    State.reset.choose = some (.event .moduleStart) ∧ s.choose = some (.issue 0 0) ∧ s.nextJet 0 0 = some (0, 0, J)
      ∧ s.basins.get? 0 = some loadedBasin ∧ s.jetTrapped 0 0 J = false
      ∧ J.nextGroup (s.readyGroups 0 loadedBasin 0 J) = some 0
      ∧ ∀ T, J.threads.get? 0 = some T → T.tx.skip = 0 ∧ T.pc.toNat < 2 ^ 48 ∧ T.pc.toNat % 4 = 0
        ∧ (let x := (s.begin 0 0 0 0 J 0 T).translateFor (s.holderAmong 0 0 (J.groupOf T)) (corePlace 0) 0 J.sys T.pc.toNat .fetch
          x.2 = .ok 0x10000 ∧ x.1.mayTouch 0 0 (J.groupOf T) 0x10000 = true ∧ x.1.stale = [] ∧ Clean x.1 0x10000 4
            ∧ decodeBytes (bytesOfWord (BitVec.ofNat 32 (x.1.homeNat 0x10000 4))) = some (.movi 3 8)) := by
  refine ⟨by decide, by decide, by decide, rfl, by decide, by decide, ?_⟩
  intro T h
  cases h
  exact ⟨rfl, by decide, by decide, by decide, by decide, by decide, fun _ _ => ⟨by rfl, by rfl⟩, by decide⟩

/-- A step that answers a next state. -/
def answers (o : Host.Outcome State Fault Refusal) : Bool :=
  match o with
  | .next _ => true
  | .fault _ | .refused _ => false

theorem next_of {o : Host.Outcome State Fault Refusal} (h : answers o = true) : ∃ t, o = .next t := by
  cases o with
  | next t => exact ⟨t, rfl⟩
  | fault f => cases h
  | refused r => cases h

theorem base_aligned : Aligned base := by
  have one : ∀ b B j J, (b, B) ∈ base.basins → (j, J) ∈ B.jets → J = jet0 := by
    intro b B j J h h'
    have hB : B = loadedBasin := congrArg Prod.snd (List.mem_singleton.1 h)
    rw [hB] at h'
    exact congrArg Prod.snd (List.mem_singleton.1 h')
  constructor
  · intro e h; cases h
  · intro b B j J o h h' ho; rw [one b B j J h h'] at ho; cases ho
  · intro b B j J q h h' hq; rw [one b B j J h h'] at hq; cases hq
  · intro w h; cases h
  · intro b B j J l T h h' hT
    rw [one b B j J h h'] at hT
    exact (by decide : ∀ e ∈ jet0.threads, (∀ x ∈ e.2.tx.wlog, x.1 % 4 = 0 ∧ x.1 < 0x180000000000)
      ∧ ∀ x ∈ e.2.tx.rlog, x.1 % 4 = 0 ∧ x.1 < 0x180000000000) (l, T) hT

/-- O58, O59, O60: a state that meets the invariants and steps. -/
theorem witness_Invariants : Sound base ∧ Regular base ∧ Aligned base ∧ ∃ t, step base = .next t :=
  ⟨base_sound, base_regular, base_aligned, next_of (by decide)⟩

/-! ### Later clauses: saving, transactions, skipping -/

/-- The sample jet in the context-save handler. -/
def saveJet : Jet := { sysJet with handler := .save }

/-- An issue of all the lanes of jet `J`. -/
def wholly (B : Basin) (J : Jet) : State :=
  { issuing B J with cur := { basin := 0, jet := 0, group := 0xFFFFFFFF, exec := 0xFFFFFFFF, pc := 0x10000, window := false } }

theorem wholly_issues (B : Basin) (J : Jet) (o : Operands) (hl : J.longs = []) (hr : regsOk B.shape J.wb o = true) :
    Issues (wholly B J) o { B with jets := [(0, J)] } J where
  basin := rfl
  jet := rfl
  allowed := by simp [wholly]
  registers := hr
  lanes := by
    show (0xFFFFFFFF#32) ≠ 0
    decide
  landed := by simp [hl, writesPending]
  operands := by simp [hl, operandsPending]
  seen := by simp [hl, Operands.seen, uniformSeen]

/-- O11: in the context-save handler, two lanes of 32, a store that is unacknowledged, all the lanes with an operation in the
engine, and all the lanes of the basin's only jet. -/
theorem witness_SaveHandlerExit :
    let K : Jet := { saveJet with unacked := 1 }
    let B : Basin := { loadedBasin with matQ := [⟨0, 0, 31, 0x300, .vv [] [], [], false, false⟩] }
    let o : Operands := { barred := true, ends := true }
    let last := fun (s : State) (J : Jet) => ∀ e ∈ J.threads, s.executes e.1 = true ∨ e.2.wait = .saveExit
    let leaves := fun (s : State) (J : Jet) (B : Basin) =>
      last s J ∧ (∀ e ∈ B.jets, e.1 ≠ s.cur.jet → e.2.run = .saved ∨ e.2.run = .exited) ∧ B.matQ = [] ∧ B.gone = false
    saveJet.handler = .save ∧ saveJet.run = .active ∧ saveJet.drained .pkg = true ∧ K.drained .pkg = false
      ∧ (Issues (issuing loadedBasin saveJet) o (basinOf saveJet) saveJet ∧ Regular (issuing loadedBasin saveJet)
        ∧ ¬ last (issuing loadedBasin saveJet) saveJet)
      ∧ (Issues (issuing loadedBasin K) o (basinOf K) K ∧ Regular (issuing loadedBasin K))
      ∧ (Issues (wholly B saveJet) o { B with jets := [(0, saveJet)] } saveJet ∧ Regular (wholly B saveJet)
        ∧ last (wholly B saveJet) saveJet ∧ B.matQ ≠ [])
      ∧ (Issues (wholly loadedBasin saveJet) o (basinOf saveJet) saveJet ∧ Regular (wholly loadedBasin saveJet)
        ∧ leaves (wholly loadedBasin saveJet) saveJet (basinOf saveJet)
        ∧ (wholly loadedBasin saveJet).launches.get? (basinOf saveJet).launch = some loadedLaunch) := by
  have reg : ∀ (s : State) (B : Basin) (J : Jet), s.basins = [(0, { B with jets := [(0, J)] })] → J.Ordered → J.run ≠ .exited → 32 ≤ J.wb →
      (∀ e ∈ J.threads, Cells.sortedFrom none e.2.tx.rlog = true ∧ Cells.sortedFrom none e.2.tx.wlog = true) →
      (Cells.wf (0 : Byte) B.scratch = true ∧ Cells.wf (0 : Byte) B.region = true ∧ Cells.wf (0 : Word) B.accs = true
        ∧ Cells.sortedFrom none B.tiles = true) → s.launches = [(1, loadedLaunch)] →
      Cells.wf (0 : Byte) s.wh.sideband = true → Regular s := by
    intro s B J hb ho hx hw ht hm hl hs
    refine regular_of hb rfl ho hx hw ht hm ⟨by rw [hl]; rfl, fun e he => ?_⟩ hs
    rw [hl] at he
    rw [List.mem_singleton.1 he]
    rfl
  refine ⟨rfl, rfl, by decide, by decide, ⟨issuing_issues _ _ _ rfl (by decide), ?_, by decide⟩,
    ⟨issuing_issues _ _ _ rfl (by decide), ?_⟩, ⟨wholly_issues _ _ _ rfl (by decide), ?_, by decide, by simp⟩,
    ⟨wholly_issues _ _ _ rfl (by decide), ?_, ⟨by decide, by decide, rfl, rfl⟩, rfl⟩⟩ <;>
  exact reg _ _ _ rfl ⟨by decide, by decide⟩ (by decide) (by decide) (by decide) ⟨rfl, rfl, rfl, rfl⟩ rfl rfl

/-- The sample jet, lane 0 with an address in v4:v5 and inside an ordinary transaction with the given logs. -/
def txJet (va : Dword) (rlog : Cells Word) (wlog : Cells LogWord) : Jet :=
  { jetAt va with
    slotHeld := true
    threads := (jetAt va).threads.modify 0 fun T => { T with tx := { T.tx with depth := 1, rlog := rlog, wlog := wlog } } }

/-- The page at 0x1_3000 lies in the system window. -/
def windowed (J : Jet) : State :=
  { alone J {} with
    mem := [(0x4098, 0x7F#8), (0x409D, 0x20#8)].foldl (fun (m : Memory) (e : Nat × Byte) => Cells.set 0 m e.1 e.2) (alone J {}).mem }

/-- Logs without room: 32 words read, 16 words written. -/
def fullReads : Cells Word := (List.range 32).map fun k => (0x10100 + 4 * k, 0)
def fullWrites : Cells LogWord := (List.range 16).map fun k => (0x10100 + 4 * k, ⟨0, 15⟩)

/-- O13, O15: lane 0 inside an ordinary transaction: its address good, out of range, misaligned, not mapped, in the system window;
its logs with room and without; the word read before, held by the irrevocable lane, and poisoned. -/
theorem witness_TransactionalAccesses (va : Dword)
    (h : va = 0x10000 ∨ va = 0x1000000000000 ∨ va = 0x10001 ∨ va = 0 ∨ va = 0x13000) :
    let J := txJet va [] []
    let s := windowed J
    let pair : List Nat := [4, 5]
    let T := (J.threads.get? 0).getD {}
    (Issues s { named := [6] ++ pair, reads := pair } { loadedBasin with jets := [(0, J)] } J
        ∧ Issues s { named := [6] ++ pair, reads := [6] ++ pair } { loadedBasin with jets := [(0, J)] } J
        ∧ J.Ordered ∧ J.threads.get? 0 = some T ∧ T.inTx = true ∧ s.cur.exec = laneBit 0 ∧ s.issues 0 = true ∧ s.full 1 = false
        ∧ s.full 0 = false ∧ J.acquirePending s.tick (laneBit 0) = false ∧ s.releaseOpen 0 0 J s.tick (laneBit 0) false = false
        ∧ Cells.sortedFrom none T.tx.rlog = true ∧ Cells.sortedFrom none T.tx.wlog = true ∧ J.vpair 0 4 = va)
      ∧ (va = 0x1000000000000 → globalKind va 4 = some 7) ∧ (va = 0x10001 → globalKind va 4 = some 8)
      ∧ (va = 0 → globalKind va 4 = none ∧ (s.translate (corePlace 0) 0 J.sys va.toNat .read).2 = .fault 1 true
        ∧ (s.translate (corePlace 0) 0 J.sys va.toNat .write).2 = .fault 1 true
        ∧ (s.translate (corePlace 0) 0 J.sys va.toNat .read).1.pagesAsked 0 < 64)
      ∧ (va = 0x13000 → globalKind va 4 = none ∧ (s.translate (corePlace 0) 0 J.sys va.toNat .read).2 = .ok 0x200000000000
        ∧ (s.translate (corePlace 0) 0 J.sys va.toNat .write).2 = .ok 0x200000000000 ∧ inWindow 0x200000000000 = true) := by
  rcases h with rfl | rfl | rfl | rfl | rfl <;>
  exact ⟨⟨⟨rfl, rfl, by decide, by decide, by decide, by decide, by decide, by decide⟩,
      ⟨rfl, rfl, by decide, by decide, by decide, by decide, by decide, by decide⟩, ⟨by decide, by decide⟩, rfl, by decide, rfl,
      by decide, by decide, by decide, by decide, by decide, by decide, by decide, by decide⟩,
    by decide, by decide, by decide, by decide⟩

/-- O13, O15: the word at 0x1_0000, which no log covers: nothing holds the read, or the irrevocable lane does; the granule clean,
or poisoned. -/
theorem witness_TransactionalWord :
    let va : Dword := 0x10000
    let J := txJet va [] []
    let s := windowed J
    let T := (J.threads.get? 0).getD {}
    let x := s.translate (corePlace 0) 0 J.sys va.toNat .read
    globalKind va 4 = none ∧ inWindow 0x10000 = false ∧ inControl 0x10000 = false
      ∧ (s.translate (corePlace 0) 0 J.sys va.toNat .write).2 = .ok 0x10000 ∧ x.2 = .ok 0x10000 ∧ T.tx.covered 0x10000 = false
      ∧ x.1.txReadHold 0 J 0 [0x10000] = none ∧ Clean x.1 0x10000 4
      ∧ ({ x.1 with token := { holder := some ⟨7, 0, 0⟩, lines := [512] } } : State).txReadHold 0 J 0 [0x10000]
          = some (.lines (some ⟨7, 0, 0⟩))
      ∧ ({ x.1 with poison := [2048] } : State).poison.contains (0x10000 / 32) = true :=
  ⟨by decide, by decide, by decide, by decide, by decide, by decide, by decide, fun _ _ => ⟨by rfl, by rfl⟩, by decide, by decide⟩

theorem witness_FullLogs :
    let J := txJet 0x10000 fullReads fullWrites
    let T := (J.threads.get? 0).getD {}
    Issues (windowed J) { named := [6, 4, 5], reads := [4, 5] } { loadedBasin with jets := [(0, J)] } J
      ∧ T.tx.rlog.length = 32 ∧ T.tx.wlog.length = 16 ∧ Cells.sortedFrom none T.tx.rlog = true
      ∧ Cells.sortedFrom none T.tx.wlog = true ∧ T.tx.covered 0x10000 = false ∧ T.tx.wlog.get? 0x10000 = none :=
  ⟨⟨rfl, rfl, by decide, by decide, by decide, by decide, by decide, by decide⟩, rfl, rfl, by decide, by decide, by decide,
    by decide⟩

/-- O17: a write of two words, either of which may be performed by itself; and one behind an earlier write to the same words. -/
theorem witness_DividedWrites :
    let w : Write := { aWrite .sent with data := (List.range 8).map fun k => (k, BitVec.ofNat 8 (k + 1)) }
    let s : State := { writing .sent with writes := [w, w] }
    Sound s ∧ s.writes[0]? = some w ∧ s.writes[1]? = some w ∧ w.stage = .sent ∧ w.pa % 128 = 0 ∧ inControl w.pa = false
      ∧ Cells.sortedFrom none w.data = true ∧ (∀ e ∈ w.data, e.1 < 128) ∧ s.writeWaits 0 w = false ∧ s.writeHeld w = false
      ∧ Clean s w.pa 128 ∧ w.words[0]? = some 0x4000 ∧ w.words[1]? = some 0x4001 ∧ s.divisible w 0x4000 = true
      ∧ s.divisible w 0x4001 = true ∧ s.writeWaits 1 w = true :=
  ⟨sound_of rfl (by decide) (by decide) rfl, rfl, rfl, rfl, by decide, by decide, by decide, by decide, by decide, by decide,
    fun _ _ => ⟨rfl, rfl⟩, by decide, by decide, by decide, by decide, by decide⟩

/-- O27: the token held and its line full; an irrevocable lane at depth 6; lanes at depth 7, the one that holds the token among
them; and a jet with its slot, for lanes that waited. -/
theorem witness_TransactionLimits :
    let queueFull : Token := { holder := some ⟨7, 0, 0⟩, queue := List.replicate 4096 ⟨6, 0, 0⟩ }
    let mine : Token := { holder := some ⟨0, 0, 0⟩ }
    let J0 : Jet := { jet0 with slotHeld := true, slotFor := 5 }
    (Issues (alone J0 queueFull) { ends := true } (basinOf J0) J0 ∧ (J0.threads.get? 0).map (·.tx.depth) = some 0
        ∧ queueFull.holder ≠ some ⟨0, 0, 0⟩ ∧ queueFull.holder.isSome = true ∧ 4096 ≤ queueFull.queue.length)
      ∧ (Issues (alone (jetTx 6 true) mine) { ends := true } (basinOf (jetTx 6 true)) (jetTx 6 true)
        ∧ ((jetTx 6 true).threads.get? 0).map (fun T => (T.tx.depth, T.tx.irr)) = some (6, true))
      ∧ (Issues (alone (jetTx 7 true) mine) { ends := true } (basinOf (jetTx 7 true)) (jetTx 7 true)
        ∧ ((jetTx 7 true).threads.get? 0).map (·.tx.depth) = some 7 ∧ (jetTx 7 true).Ordered
        ∧ (jetTx 7 true).slotHeld = true ∧ (alone (jetTx 7 true) mine).cur.exec = laneBit 0) :=
  ⟨⟨alone_issues _ _ _ rfl (by decide), by decide, by decide, rfl, Nat.le_of_eq (List.length_replicate (n := 4096)).symm⟩,
    ⟨alone_issues _ _ _ rfl (by decide), by decide⟩,
    ⟨alone_issues _ _ _ rfl (by decide), by decide, ⟨by decide, by decide⟩, rfl, rfl⟩⟩

/-- O29: lanes 0 and 1 inside an ordinary transaction, with the operands of each row of Table 15.2, good descriptors, and a
traversal context. -/
theorem witness_Unsupported :
    let J : Jet := { jetTx 1 false with sregs := copyWords.mapIdx fun i w => (16 + i, w) }
    let s : State := { issuing loadedBasin J with travs := [(0, ⟨⟨0, 1, 0x10000, 0, 0⟩, none, 0⟩)] }
    let block := fun (r n : Nat) => (List.range n).map fun i => r + i
    let ws := (block 8 8).map J.sreg
    J.Ordered ∧ s.cur.resumed = false ∧ J.sys = false
      ∧ (∀ l, s.executes l = true → s.issues l = true ∧ ∃ T, J.threads.get? l = some T ∧ T.inTx = true)
      ∧ (∀ o ∈ ([{ named := [6, 4, 5], reads := [6, 4, 5] }, { named := [6, 7, 4, 5], reads := [6, 7, 4, 5] }, { ends := true },
            { ureads := [16, 17, 18, 19] }, { ureads := [16, 17] }, { named := [4, 5], reads := [4, 5], rsv := [7] },
            { named := [4, 5], reads := [4, 5], rsv := [7], rsvReads := [7] }, { named := block 120 8 ++ [40], reads := [40] },
            { named := [40], reads := [40] }, { named := [40, 41], reads := [40, 41] }, { barred := true, ends := true },
            { ureads := [14], ends := true }, { named := [7], reads := [7], barred := true, ends := true },
            { ureads := block 16 8 }, { named := block 120 4 ++ block 4 3, reads := block 4 3, ureads := block 8 8 },
            { named := block 120 2 ++ block 4 3, reads := block 4 3, ureads := block 8 8 },
            { named := [6] ++ block 110 10, reads := block 110 10, ureads := [12] }] : List Operands), Issues s o (basinOf J) J)
      ∧ copyDescOk ((block 16 8).map J.sreg) (some (basinOf J)) = true ∧ copyRange (copyDesc ((block 16 8).map J.sreg)) = none
      ∧ texDescOk ws = true ∧ gridDescOk ws = true ∧ operandsPending J.longs 0 [] [.ureg 9] = false
      ∧ uniformSeen J.longs s.cur.group [9] = false ∧ 120 + 2 ≤ 128 ∧ (J.sreg 12).toNat ≤ 255
      ∧ (s.travs.get? (256 * (basinOf J).ctx + (J.sreg 12).toNat)).isSome = true := by
  refine ⟨⟨by decide, by decide⟩, rfl, rfl, of_lanes (B := loadedBasin) (J := jet0) ⟨by decide, _, rfl, by decide⟩
    ⟨by decide, _, rfl, by decide⟩, ?_, by decide, by decide, by decide, by decide, by decide, by decide, by decide, by decide,
    by decide⟩
  intro o ho
  exact {
    basin := rfl
    jet := rfl
    allowed := by simp [issuing]
    registers := by
      revert o
      decide
    lanes := by
      show (3#32) ≠ 0
      decide
    landed := by simp [jetTx, jet0, newJet, writesPending]
    operands := by simp [jetTx, jet0, newJet, operandsPending]
    seen := by simp [jetTx, jet0, newJet, Operands.seen, uniformSeen] }

/-- O29: a jet whose lane 1 waits for the token keeps its slot at the `TXE` of lane 0. -/
theorem witness_SlotKept :
    let J : Jet := { jetTx 2 false with
      threads := ((jetTx 2 false).threads.modify 1 fun T => { T with wait := .token, tx := { T.tx with depth := 0 } }) }
    Issues (alone J {}) { ends := true } (basinOf J) J ∧ J.Ordered ∧ (J.threads.all fun e => decide (e.2.wait ≠ .token)) = false :=
  ⟨alone_issues _ _ _ rfl (by decide), ⟨by decide, by decide⟩, by decide⟩

/-- O34: `MMAV.vt` in an MX mode; `MWAIT` of lane 0, for which an operation is pending, and of lane 1, which came before it. -/
theorem witness_MatrixWaits :
    let mx : Jet := { jet0 with fmode := 0x66 }
    let J : Jet := { jet0 with threads := jet0.threads.modify 1 fun T => { T with wait := .acc 31 0 } }
    let B : Basin := { loadedBasin with matQ := [matOp] }
    let s : State := { issuing B J with tick := 1 }
    let late := fun l => ∃ o ∈ B.matQ, o.acc = 31 ∧ o.tag < J.accMark l 31 s.tick
    (Issues (issuing tiled mx) { named := [0, 1, 2, 3, 4, 5, 6, 7], reads := [0, 1, 2, 3, 4, 5, 6, 7], acc := [31] }
        { tiled with jets := [(0, mx)] } mx ∧ codeClass (mx.fmode.toNat % 16) = 4)
      ∧ Issues s { acc := [31] } { B with jets := [(0, J)] } J ∧ J.Ordered ∧ (∀ l, s.executes l = true → s.issues l = true)
      ∧ (∀ x ∈ B.accPoison, x / 4096 ≠ 31) ∧ (s.executes 0 = true ∧ late 0) ∧ (s.executes 1 = true ∧ ¬ late 1) :=
  ⟨⟨issuing_issues _ _ _ rfl (by decide), by decide⟩,
    ⟨rfl, rfl, by decide, by decide, by decide, by decide, by decide, by decide⟩, ⟨by decide, by decide⟩, fun _ h => h, by decide,
    ⟨by decide, matOp, by simp, by decide, by decide⟩, by decide, by decide⟩

/-- O35: a selector whose columns, 32 and 36, all lie outside the tile of 32. -/
theorem witness_ColumnsOutside :
    let J : Jet := { jet0 with sregs := [(12, 0x200000)] }
    let sel := (J.sreg 12).toNat
    Issues (issuing tiled J) { named := [127], reads := [127], ureads := [12] } { tiled with jets := [(0, J)] } J
      ∧ sel % 1024 < tileRows handle ∧ sel / 65536 % 4 = 0 ∧ sel / 1024 % 64 = 0 ∧ sel / 67108864 = 0
      ∧ ∀ l, (issuing tiled J).executes l = true → tileCols handle ≤ sel / 65536 % 1024 + 4 * l :=
  ⟨issuing_issues _ _ _ rfl (by decide), by decide, by decide, by decide, by decide,
    of_lanes (B := loadedBasin) (J := jet0) (by decide) (by decide)⟩

/-- O42: answers where no release is open, and where a `CTRADD` with a release still waits for a store of its jet; `TRCAN` of a
ticket to which an answer is on its way. -/
theorem witness_RayAnswers :
    let o : LongOp := { pending (.ctradd 5) none with dests := [], lane := 32, lanes := 3, tag := 1, release := true }
    let J : Jet := { jet0 with longs := [o], storeQ := [aStore] }
    let s : State := { issuing loadedBasin J with tick := 2 }
    let t : State := { sample with
      answers := [{ ticket := 0, ctx := 0, launch := 1, basin := 0, jet := 0, lane := 0, answer := .ign, core := 0 }] }
    (sample.releaseOpen 0 0 jet0 sample.tick sample.cur.exec true = false
        ∧ Issues sample { named := [40], reads := [40] } (basinOf jet0) jet0)
      ∧ (Issues s { named := [40], reads := [40] } (basinOf J) J ∧ s.releaseOpen 0 0 J s.tick s.cur.exec true = true)
      ∧ Issues t { named := [40], reads := [40] } (basinOf jet0) jet0 ∧ t.answers.length = 1 :=
  ⟨⟨by decide, sample_issues _ (by decide)⟩, ⟨⟨rfl, rfl, by decide, by decide, by decide, by decide, by decide, by decide⟩, by decide⟩,
    ⟨rfl, rfl, by decide, by decide, by decide, by decide, by decide, by decide⟩, rfl⟩

/-- A launch that restores a saved basin of one jet. -/
def savedLaunch : Launch :=
  { loadedLaunch with saved := [{ index := 0, jets := [0], bsave := 0x50000, wids := [(31, 7)] }], lastDie := 7 }

/-- O47: that basin is the next to place. -/
theorem witness_Restore :
    let s : State := { base with launches := [(1, savedLaunch)], basins := [] }
    Regular s ∧ s.serving = true ∧ s.launches = [(1, savedLaunch)] ∧ savedLaunch.stage = .running
      ∧ savedLaunch.saved = ⟨0, [0], 0x50000, [(31, 7)], [], 0⟩ :: [] ∧ savedLaunch.ended = false ∧ savedLaunch.cosched = false
      ∧ s.chooseCore 1 savedLaunch = some 0 := by
  refine ⟨?_, by decide, rfl, rfl, rfl, rfl, rfl, by decide +kernel⟩
  exact {
    basins := rfl
    jets := fun _ _ h => nomatch h
    threads := fun _ _ _ _ h => nomatch h
    exited := fun _ _ _ _ h => nomatch h
    window := fun _ _ _ _ h => nomatch h
    logs := fun _ _ _ _ _ _ h => nomatch h
    scratch := fun _ _ h => nomatch h
    region := fun _ _ h => nomatch h
    accs := fun _ _ h => nomatch h
    tiles := fun _ _ h => nomatch h
    launches := rfl
    saved := fun n L r h h' => by
      cases List.mem_singleton.1 h
      cases List.mem_singleton.1 h'
      simp
    sideband := rfl }

/-- O48: an old write and an old copy. -/
theorem witness_Promotion :
    let s : State := { framed with writes := [aWrite .sent], copies := [aCopy [] false], cycle := 2389334 }
    s.writes[0]? = some (aWrite .sent) ∧ 2048 * s.ctlNat 0x12 2 ≤ (s.cycle - (aWrite .sent).since) * 1200
      ∧ s.copies[0]? = some (aCopy [] false) ∧ 2048 * s.ctlNat 0x12 2 ≤ (s.cycle - (aCopy [] false).since) * 1200 :=
  ⟨rfl, by decide, rfl, by decide⟩

/-- O50: the irrevocable lane of another launch holds the line of the status that `ENDLAUNCH` writes. -/
theorem witness_EndHeld :
    let s : State := { command 4 [(0, 1)] with
      basins := [(0, { loadedBasin with launch := 2 })], token := { holder := some ⟨0, 0, 0⟩, lines := [1024] } }
    s.launches.get? 1 = some loadedLaunch ∧ s.arg 0 0 4 = 1 ∧ s.commandWaits 0 4 = true ∧ s.statusHeld loadedLaunch.packet = true
      ∧ (∀ r B, s.token.holder = some r → s.basins.get? r.basin = some B → B.launch ≠ 1) ∧ Regular s
      ∧ Sound s := by
  refine ⟨rfl, by decide, by decide, by decide, ?_, ?_, sound_of rfl (by decide) (by decide) rfl⟩
  · intro r B hr hB
    cases hr
    cases hB
    decide
  · exact regular_of rfl rfl ⟨by decide, by decide⟩ (by decide) (by decide) (by decide) ⟨rfl, rfl, rfl, rfl⟩
      ⟨base_regular.launches, (by decide : ∀ e ∈ base.launches, e.2.saved = [])⟩ rfl

/-- O53: the loaded module, its threads skipping: an ordinary word, `TXB`, `TXE` within and at the end, and the last word that may be
passed. -/
theorem witness_Skipping (w : Word) (skip passed : Nat)
    (h : (w = 0x4C0C0008 ∧ skip = 1 ∧ passed = 65535) ∨ (w = 0xC0000000 ∧ skip = 6 ∧ passed = 0)
      ∨ (w = 0xC2040000 ∧ skip = 2 ∧ passed = 0) ∨ (w = 0xC2040000 ∧ skip = 1 ∧ passed = 65535)) :
    let J : Jet := { jet0 with
      threads := jet0.threads.mapKeys fun _ (T : Thread) => { T with tx := { T.tx with skip := skip, passed := passed } } }
    let s : State := { State.reset.loaded w.toNat with basins := [(0, basinOf J)] }
    let T := (J.threads.get? 0).getD {}
    let x := (s.begin 0 0 0 0 J 0 T).translateFor (s.holderAmong 0 0 (J.groupOf T)) (corePlace 0) 0 J.sys T.pc.toNat .fetch
    let ended := J.lanesWith fun U => decide (U.tx.skip = 1)
    s.choose = some (.issue 0 0) ∧ s.nextJet 0 0 = some (0, 0, J) ∧ J.Ordered ∧ s.jetTrapped 0 0 J = false
      ∧ J.nextGroup (s.readyGroups 0 (basinOf J) 0 J) = some 0 ∧ J.threads.get? 0 = some T ∧ 0 < T.tx.skip
      ∧ T.pc.toNat < 2 ^ 48 ∧ T.pc.toNat % 4 = 0 ∧ x.2 = .ok 0x10000 ∧ x.1.mayTouch 0 0 (J.groupOf T) 0x10000 = true
      ∧ x.1.stale = [] ∧ Clean x.1 0x10000 4
      ∧ (let word := decodeBytes (bytesOfWord (BitVec.ofNat 32 (x.1.homeNat 0x10000 4)))
        (skip = 6 → word = some .txb ∧ T.tx.skip < 7 ∧ T.tx.passed + 1 < 65536)
          ∧ (skip = 2 → word = some (.txe 1) ∧ J.groupOf T &&& ~~~ ended ≠ 0)
          ∧ (skip = 1 → (word = some (.txe 1) ∨ word = some (.movi 3 8)) ∧ J.groupOf T &&& ~~~ ended = 0
            ∧ 65536 ≤ T.tx.passed + 1)) := by
  rcases h with ⟨rfl, rfl, rfl⟩ | ⟨rfl, rfl, rfl⟩ | ⟨rfl, rfl, rfl⟩ | ⟨rfl, rfl, rfl⟩ <;>
  exact ⟨by decide, by decide, ⟨by decide, by decide⟩, by decide, by decide, rfl, by decide, by decide, by decide, by decide,
    by decide, by decide, fun _ _ => ⟨by rfl, by rfl⟩, by decide⟩

end Sys2Proof.Tests
end

section
/-! The losses of a link need the control space in canonical form, which `Sound` gives and `Regular` does not, and the clause on
them assumes `Regular` alone. LINK_DOWN clears the width of its port; in a control space whose offsets do not rise, a byte of LNOW
that stood behind it is read from then on, and the addresses over the link count as HBM before the jets are gone through. -/

namespace Sys2Proof.Machine

/-- A load from device 1's memory, still to be performed. -/
def peerLoad : LongOp :=
  { lane := 0, lanes := 1, tag := 0, shadow := 0, dests := [], kind := .load 4, pa := some 0x310000000000 }

/-- A jet that has only this load pending. -/
def peerLoadJet : Jet := { longs := [peerLoad] }

/-- A basin of that jet alone. -/
def peerLoadBasin : Basin :=
  { launch := 1, ctx := 0, cls := 0, index := 0, core := 0, shape := ⟨0, 1, 1, 0, 0, 0, 0⟩, jets := [(0, peerLoadJet)] }

/-- Port 0 has 8 lanes and is the way to device 1; behind its width stands the highest byte of LNOW, out of order, so that it reads
zero as long as the width is listed. -/
def unsortedControl : State :=
  { basins := [(0, peerLoadBasin)], ctl := [(0x150, 8), (0x1F, 1)], wh := { params := { routes := [(1, 0)] } } }

theorem unsortedControl_basin {b : Nat} {B : Basin} (h : (b, B) ∈ unsortedControl.basins) : B = peerLoadBasin :=
  congrArg Prod.snd (List.mem_singleton.1 h)

theorem unsortedControl_jet {b j : Nat} {B : Basin} {J : Jet} (hb : (b, B) ∈ unsortedControl.basins) (hj : (j, J) ∈ B.jets) :
    J = peerLoadJet := by
  rw [unsortedControl_basin hb] at hj
  exact congrArg Prod.snd (List.mem_singleton.1 hj)

theorem unsortedControl_thread {b j l : Nat} {B : Basin} {J : Jet} {T : Thread} (hb : (b, B) ∈ unsortedControl.basins)
    (hj : (j, J) ∈ B.jets) : (l, T) ∉ J.threads := by
  rw [unsortedControl_jet hb hj]
  exact List.not_mem_nil

/-- No jet is in system mode, stores over the link, or waits for a counter. -/
theorem unsortedControl_quiet {b j : Nat} {B : Basin} {J : Jet} (hb : (b, B) ∈ unsortedControl.basins) (hj : (j, J) ∈ B.jets) :
    J.sys = false ∧ (∀ q a, q ∈ J.storeQ → q.pa = some a → unsortedControl.linkOf a ≠ some 0)
      ∧ ∀ l T pa va x acq sc, (l, T) ∈ J.threads → T.wait = .counter pa va x acq sc →
        unsortedControl.linkOf pa ≠ some 0 := by
  have noThread := fun l T => unsortedControl_thread (l := l) (T := T) hb hj
  rw [unsortedControl_jet hb hj] at noThread ⊢
  exact ⟨rfl, fun q _ hq => absurd hq List.not_mem_nil, fun l T _ _ _ _ _ hl => absurd hl (noThread l T)⟩

theorem unsortedControl_regular : Regular unsortedControl where
  basins := rfl
  jets _ _ hb := by rw [unsortedControl_basin hb]; rfl
  threads _ _ _ _ hb hj := by rw [unsortedControl_jet hb hj]; exact ⟨rfl, by decide⟩
  exited _ _ _ _ hb hj _ := by rw [unsortedControl_jet hb hj]; rfl
  window _ _ _ _ hb hj := by rw [unsortedControl_jet hb hj]; decide
  logs _ _ _ _ _ _ hb hj hl := absurd hl (unsortedControl_thread hb hj)
  scratch _ _ hb := by rw [unsortedControl_basin hb]; rfl
  region _ _ hb := by rw [unsortedControl_basin hb]; rfl
  accs _ _ hb := by rw [unsortedControl_basin hb]; rfl
  tiles _ _ hb := by rw [unsortedControl_basin hb]; rfl
  launches := rfl
  saved _ _ _ hn _ := absurd hn List.not_mem_nil
  sideband := rfl

/-- The load stays pending when the link goes down. -/
theorem unsortedControl_keepsLoad :
    ((unsortedControl.dropLink 0).jet? 0 0).map (·.longs) = some [peerLoad] := by decide

end Sys2Proof.Machine

open Sys2Proof Sys2Proof.Machine

/-- Refutes O49: its clause on the losses of a link that goes down assumes `Regular`, which leaves the control space in any order,
and not `Sound`. In `unsortedControl`, which is `Regular` and not `Sound`, port 0 is up and a load lies over it, but the load is
still pending after LINK_DOWN. -/
theorem not_linksAndStarts : ¬ Obligations.LinksAndStarts := by
  unfold Obligations.LinksAndStarts
  intro h
  obtain ⟨links, -⟩ := h unsortedControl
  obtain ⟨-, whenUp⟩ := links 0
  obtain ⟨-, losses, -⟩ := whenUp (by decide)
  obtain ⟨t, hnext, -, -, hjets⟩ := losses unsortedControl_regular fun _ _ _ _ => unsortedControl_quiet
  obtain rfl : unsortedControl.dropLink 0 = t := Host.Outcome.next.inj hnext
  obtain ⟨K, hK, -, hlongs, -⟩ := hjets 0 peerLoadBasin 0 peerLoadJet rfl rfl
  have kept := unsortedControl_keepsLoad
  rw [hK] at kept
  have lost : K.longs = [] := hlongs.trans (by decide)
  cases lost.symm.trans (Option.some.inj kept)
end

section
/-! The bytes of the control space and of the mailboxes: what the controller's own writes leave and change. -/

namespace Sys2Proof.Machine

/-! ### Writes of the controller to the control space -/

/-- The controller's writes change nothing but the bytes of the control space. -/
theorem setCtl_frame (s : State) (off v n : Nat) : s.setCtl off v n = { s with ctl := (s.setCtl off v n).ctl } := by
  induction n generalizing s off v with
  | zero => rfl
  | succ n ih => exact ih (s.setCtl8 off _) _ _

theorem setCtlBytes_frame (s : State) (off : Nat) (l : List Byte) :
    s.setCtlBytes off l = { s with ctl := (s.setCtlBytes off l).ctl } := by
  induction l generalizing s off with
  | nil => rfl
  | cons b l ih => exact ih (s.setCtl8 off b) _

theorem ctl_setCtlBytes {s : State} (h : Cells.wf (0 : Byte) s.ctl = true) (off : Nat) (l : List Byte) :
    Cells.wf (0 : Byte) (s.setCtlBytes off l).ctl = true := by
  induction l generalizing s off with
  | nil => exact h
  | cons b l ih => exact ih (ctl_setCtl8 h off b) _

/-- A byte of the control space after the bytes of a number are written. -/
theorem ctl8_setCtl {s : State} (h : Cells.wf (0 : Byte) s.ctl = true) (off v n o : Nat) :
    (s.setCtl off v n).ctl8 o
      = if off ≤ o ∧ o < off + n then BitVec.ofNat 8 (v / 256 ^ (o - off)) else s.ctl8 o := by
  induction n generalizing s off v with
  | zero => rw [if_neg (by omega)]; rfl
  | succ n ih =>
    show ((s.setCtl8 off (BitVec.ofNat 8 v)).setCtl (off + 1) (v / 256) n).ctl8 o = _
    rw [ih (ctl_setCtl8 h ..), ctl8_setCtl8 h]
    by_cases hin : off + 1 ≤ o ∧ o < off + 1 + n
    · have hsub : o - off = o - (off + 1) + 1 := by omega
      rw [if_pos hin, if_pos (by omega), Nat.div_div_eq_div_mul, hsub, Nat.pow_succ, Nat.mul_comm (256 ^ _)]
    · rw [if_neg hin]
      by_cases ho : o = off
      · subst ho; simp
      · rw [if_neg ho, if_neg (by omega)]

theorem bytesNat_congr {f g : Nat → Byte} (off n : Nat) (h : ∀ i, i < n → f (off + i) = g (off + i)) :
    bytesNat f off n = bytesNat g off n := by
  induction n generalizing off with
  | zero => rfl
  | succ n ih =>
    simp only [bytesNat, show f off = g off from h 0 (by omega),
      ih (off + 1) fun i hi => by simpa [Nat.add_assoc, Nat.add_comm 1] using h (i + 1) (by omega)]

/-- Bytes that are those of a number make up that number. -/
theorem bytesNat_of_bytes {f : Nat → Byte} (off v n : Nat) (h : ∀ i, i < n → f (off + i) = BitVec.ofNat 8 (v / 256 ^ i)) :
    bytesNat f off n = v % 256 ^ n := by
  induction n generalizing off v with
  | zero => simp [bytesNat, Nat.mod_one]
  | succ n ih =>
    have hlow : f off = BitVec.ofNat 8 v := by simpa using h 0 (by omega)
    have hrest := ih (off + 1) (v / 256) fun i hi => by
      rw [show off + 1 + i = off + (i + 1) by omega, h (i + 1) (by omega), Nat.pow_succ, Nat.mul_comm, Nat.div_div_eq_div_mul]
    have hsplit : v % 256 ^ (n + 1) = v % 256 + 256 * (v / 256 % 256 ^ n) := by rw [Nat.pow_succ', Nat.mod_mul]
    rw [bytesNat, hlow, hrest, BitVec.toNat_ofNat, hsplit]

theorem ctlNat_eq_bytesNat (s : State) (off n : Nat) : s.ctlNat off n = bytesNat s.ctl8 off n := by
  induction n generalizing off with
  | zero => rfl
  | succ n ih => rw [State.ctlNat, bytesNat, ih]

/-- A number of the control space after it is written. -/
theorem ctlNat_setCtl {s : State} (h : Cells.wf (0 : Byte) s.ctl = true) (off v n : Nat) :
    (s.setCtl off v n).ctlNat off n = v % 256 ^ n :=
  (ctlNat_eq_bytesNat ..).trans <| bytesNat_of_bytes off v n fun i hi => by
    rw [ctl8_setCtl h, if_pos (by omega), Nat.add_sub_cancel_left]

/-! ### The mailboxes -/

/-- The bytes of both mailboxes are in canonical form. -/
structure MailboxesOk (s : State) : Prop where
  control : Cells.wf (0 : Byte) s.ctl = true
  sideband : Cells.wf (0 : Byte) s.wh.sideband = true

theorem mailboxesOk {s : State} (hs : Sound s) (hr : Regular s) : MailboxesOk s := ⟨hs.control, hr.sideband⟩

theorem MailboxesOk.mbSet {s : State} (h : MailboxesOk s) (mb off : Nat) (v : Byte) : MailboxesOk (s.mbSet mb off v) := by
  unfold State.mbSet
  split
  · exact ⟨ctl_setCtl8 h.control _ v, h.sideband⟩
  · exact ⟨h.control, wf_set h.sideband off v⟩

theorem MailboxesOk.mbPut {s : State} (h : MailboxesOk s) (mb off : Nat) (l : List Byte) : MailboxesOk (s.mbPut mb off l) := by
  induction l generalizing s off with
  | nil => exact h
  | cons b l ih => exact ih (h.mbSet mb off b) _

/-- A byte of a mailbox after one of its bytes is written. -/
theorem mbByte_mbSet {s : State} (h : MailboxesOk s) (mb off : Nat) (v : Byte) (o : Nat) :
    (s.mbSet mb off v).mbByte mb o = if o = off then v else s.mbByte mb o := by
  unfold State.mbSet State.mbByte
  by_cases hmb : mb = 0
  · simp only [if_pos hmb, ctl8_setCtl8 h.control, Nat.add_left_cancel_iff]
  · simp only [if_neg hmb, get_set h.sideband]

/-- A byte of a mailbox after bytes are written from an offset on. -/
theorem mbByte_mbPut {s : State} (h : MailboxesOk s) (mb off : Nat) (l : List Byte) (o : Nat) :
    (s.mbPut mb off l).mbByte mb o = if off ≤ o then (l[o - off]?).getD (s.mbByte mb o) else s.mbByte mb o := by
  induction l generalizing s off with
  | nil => simp [State.mbPut]
  | cons b l ih =>
    rw [State.mbPut, ih (h.mbSet mb off b), mbByte_mbSet h]
    rcases Nat.lt_trichotomy o off with hlt | heq | hgt
    · rw [if_neg (by omega), if_neg (by omega), if_neg (by omega)]
    · subst heq
      rw [if_neg (by omega), if_pos rfl, if_pos (Nat.le_refl o), Nat.sub_self, List.getElem?_cons_zero, Option.getD_some]
    · have hsub : o - off = o - (off + 1) + 1 := by omega
      rw [if_pos (by omega), if_neg (by omega), if_pos (by omega), hsub, List.getElem?_cons_succ]

/-- The status of a mailbox after the controller has set it. -/
theorem mbNat_mbStatus {s : State} (h : MailboxesOk s) (mb : Nat) {v : Nat} (hv : v < 2 ^ 32) :
    (s.mbStatus mb v).mbNat mb 4 4 = v := by
  have hbytes := bytesNat_of_bytes (f := (s.mbStatus mb v).mbByte mb) 4 v 4 fun i hi => by
    rw [State.mbStatus, mbByte_mbPut h, if_pos (by omega), Nat.add_sub_cancel_left]
    simp [natBytes, hi]
  rw [State.mbNat, hbytes]
  omega

/-- The status word is all of its mailbox that changes with it. -/
theorem mbByte_mbStatus {s : State} (h : MailboxesOk s) (mb v : Nat) {o : Nat} (ho : 8 ≤ o) :
    (s.mbStatus mb v).mbByte mb o = s.mbByte mb o := by
  rw [State.mbStatus, mbByte_mbPut h, if_pos (by omega), List.getElem?_eq_none (by simp [natBytes]; omega), Option.getD_none]

/-- A write of a mailbox leaves the device block. -/
theorem ctl8_mbPut {s : State} (h : MailboxesOk s) (mb off : Nat) (l : List Byte) {o : Nat} (ho : o < 0x1000) :
    (s.mbPut mb off l).ctl8 o = s.ctl8 o := by
  induction l generalizing s off with
  | nil => rfl
  | cons b l ih =>
    rw [State.mbPut, ih (h.mbSet mb off b)]
    unfold State.mbSet
    split
    · rw [ctl8_setCtl8 h.control, if_neg (by omega)]
    · rfl

theorem ctlNat_mbStatus {s : State} (h : MailboxesOk s) (mb v off n : Nat) (ho : off + n ≤ 0x1000) :
    (s.mbStatus mb v).ctlNat off n = s.ctlNat off n := by
  rw [ctlNat_eq_bytesNat, ctlNat_eq_bytesNat]
  exact bytesNat_congr off n fun i hi => ctl8_mbPut h mb 4 _ (by omega)

/-- A write of a mailbox changes nothing but the bytes of the mailboxes. -/
theorem mbPut_frame (s : State) (mb off : Nat) (l : List Byte) :
    s.mbPut mb off l = { s with
      ctl := (s.mbPut mb off l).ctl, wh := { s.wh with sideband := (s.mbPut mb off l).wh.sideband } } := by
  induction l generalizing s off with
  | nil => rfl
  | cons b l ih =>
    rw [State.mbPut, ih]
    unfold State.mbSet
    split <;> rfl

@[simp] theorem mbPut_mem (s : State) (mb off : Nat) (l : List Byte) : (s.mbPut mb off l).mem = s.mem := by rw [mbPut_frame]

theorem mbStatus_frame (s : State) (mb v : Nat) :
    s.mbStatus mb v = { s with
      ctl := (s.mbStatus mb v).ctl, wh := { s.wh with sideband := (s.mbStatus mb v).wh.sideband } } :=
  mbPut_frame s mb 4 _

@[simp] theorem mbStatus_mem (s : State) (mb v : Nat) : (s.mbStatus mb v).mem = s.mem := by rw [mbStatus_frame]
@[simp] theorem mbStatus_tlb (s : State) (mb v : Nat) : (s.mbStatus mb v).tlb = s.tlb := by rw [mbStatus_frame]
@[simp] theorem mbStatus_basins (s : State) (mb v : Nat) : (s.mbStatus mb v).basins = s.basins := by rw [mbStatus_frame]
@[simp] theorem mbStatus_launches (s : State) (mb v : Nat) : (s.mbStatus mb v).launches = s.launches := by rw [mbStatus_frame]
@[simp] theorem mbStatus_rays (s : State) (mb v : Nat) : (s.mbStatus mb v).rays = s.rays := by rw [mbStatus_frame]
@[simp] theorem mbStatus_faults (s : State) (mb v : Nat) : (s.mbStatus mb v).faults = s.faults := by rw [mbStatus_frame]
@[simp] theorem mbStatus_flash (s : State) (mb v : Nat) : (s.mbStatus mb v).flash = s.flash := by rw [mbStatus_frame]

/-! ### How a command ends (R410) -/

/-- The instruction leads to a state with some status of the mailbox and a property. -/
def EndsWith (s : State) (mb : Nat) (i : Instr) (status : Nat) (P : State → Prop) : Prop :=
  ∃ t, exec i s = .next t ∧ t.mbNat mb 4 4 = status ∧ P t

/-- A waiting command that is done sets STATUS 2. -/
theorem endsWith_done {s t : State} {mb code : Nat} {i : Instr} {P : State → Prop} (hw : s.commandWaits mb code = true)
    (hi : exec i s = s.command mb code (some (t, 0))) (ht : MailboxesOk t) (hP : P (t.mbStatus mb 2)) :
    EndsWith s mb i 2 P := by
  refine ⟨t.mbStatus mb 2, ?_, mbNat_mbStatus ht mb (by decide), hP⟩
  rw [hi, State.command, hw]
  rfl

/-- A waiting command that meets an error changes nothing but STATUS. -/
theorem endsWith_error {s : State} {mb code e : Nat} {i : Instr} {P : State → Prop} (hw : s.commandWaits mb code = true)
    (hi : exec i s = s.command mb code (some (s, e + 1))) (he : e < 0xFF) (hs : MailboxesOk s)
    (hP : P (s.mbStatus mb (0x100 + (e + 1)))) : EndsWith s mb i (0x100 + (e + 1)) P := by
  refine ⟨s.mbStatus mb (0x100 + (e + 1)), ?_, mbNat_mbStatus hs mb (by omega), hP⟩
  rw [hi, State.command, hw]
  rfl

/-- A command that goes on leaves STATUS busy. -/
theorem status_of_commandWaits {s : State} {mb code : Nat} (hw : s.commandWaits mb code = true) : s.mbNat mb 4 4 = 1 := by
  simp only [State.commandWaits, Bool.and_eq_true, decide_eq_true_eq] at hw
  obtain ⟨⟨⟨-, -, hstatus, -⟩, -⟩, -⟩ := hw
  exact hstatus

/-! ### Results of a command -/

/-- The results of a mailbox hold some bytes, as far as there is room for them; memory is as before. -/
def HoldsResults (s : State) (mb : Nat) (bs : List Byte) (t : State) : Prop :=
  t.mem = s.mem ∧ ∀ i, i < bs.length → i < 0xF00 → some (t.mbByte mb (0x100 + i)) = bs[i]?

/-- A command that writes its results, as much of them as there is room for, and is done. -/
theorem endsWith_results {s : State} {mb code : Nat} {i : Instr} {bs l : List Byte} (hw : s.commandWaits mb code = true)
    (hi : exec i s = s.command mb code (some (s.mbPut mb 0x100 l, 0))) (hs : MailboxesOk s)
    (hl : ∀ k, k < 0xF00 → l[k]? = bs[k]?) : EndsWith s mb i 2 (HoldsResults s mb bs) := by
  have hput := hs.mbPut mb 0x100 l
  refine endsWith_done hw hi hput ⟨by simp, fun k hk hroom => ?_⟩
  rw [mbByte_mbStatus hput mb 2 (by omega), mbByte_mbPut hs, if_pos (by omega), Nat.add_sub_cancel_left, hl k hroom,
    List.getElem?_eq_getElem hk]
  rfl

end Sys2Proof.Machine
end

section
/-! The commands of Table 27.6 that touch nothing but registers of the controller, flash and their results. -/

namespace Sys2Proof.Machine

/-- The host has refused some faults (R407). -/
def State.refused (s : State) (fs : List Fault0) : State :=
  { s with faults := s.faults.map fun f => if fs.contains f then { f with answer := some false } else f }

section
variable {s : State} {mb : Nat} (hs : MailboxesOk s)
include hs

/-! ### GETCONFIG, REPORT and READLOG (R410, R415) -/

theorem getconfig_block (hw : s.commandWaits mb 1 = true) (ha : s.arg mb 0 4 = 0) :
    EndsWith s mb (.getconfig mb) 2 (HoldsResults s mb (s.ctlBytes 0 0xF00)) :=
  endsWith_results hw (show execGetconfig mb s = _ by simp only [execGetconfig, ha]) hs fun _ _ => rfl

theorem getconfig_blockImage (hw : s.commandWaits mb 1 = true) (ha : s.arg mb 0 4 = 1) :
    EndsWith s mb (.getconfig mb) 2 (HoldsResults s mb s.wh.blockImage) :=
  endsWith_results hw (show execGetconfig mb s = _ by simp only [execGetconfig, ha]) hs fun _ hk => List.getElem?_take_of_lt hk

theorem getconfig_paramImage (hw : s.commandWaits mb 1 = true) (ha : s.arg mb 0 4 = 2) :
    EndsWith s mb (.getconfig mb) 2 (HoldsResults s mb s.wh.paramImage) :=
  endsWith_results hw (show execGetconfig mb s = _ by simp only [execGetconfig, ha]) hs fun _ hk => List.getElem?_take_of_lt hk

theorem getconfig_unknown (hw : s.commandWaits mb 1 = true) (ha : 2 < s.arg mb 0 4) :
    EndsWith s mb (.getconfig mb) 0x107 fun t => t.mem = s.mem := by
  obtain ⟨n, hn⟩ : ∃ n, s.arg mb 0 4 = n + 3 := ⟨_, (Nat.sub_add_cancel ha).symm⟩
  exact endsWith_error (e := 6) hw (show execGetconfig mb s = _ by simp only [execGetconfig, hn]) (by decide) hs (mbStatus_mem ..)

theorem report_unsigned (hw : s.commandWaits mb 7 = true) (hid : s.noIdentity = true) :
    EndsWith s mb (.report mb) 0x105 fun t => t.mem = s.mem :=
  endsWith_error (e := 4) hw (show execReport mb s = _ by simp only [execReport, hid, if_true]) (by decide) hs (mbStatus_mem ..)

theorem report_signed (hw : s.commandWaits mb 7 = true) (hid : s.noIdentity = false) :
    EndsWith s mb (.report mb) 2 (HoldsResults s mb (s.reportBytes mb)) :=
  endsWith_results hw (show execReport mb s = _ by simp only [execReport, hid, Bool.false_eq_true, if_false]) hs fun _ _ => rfl

theorem readlog_results (hw : s.commandWaits mb 11 = true) :
    EndsWith s mb (.readlog mb) 2 (HoldsResults s mb
      ((List.range (min (s.arg mb 4 4) 56)).flatMap fun i => s.recordBytes (s.arg mb 0 4 + i))) :=
  endsWith_results hw rfl hs fun _ _ => rfl

/-! ### SETPOWER (R26) -/

theorem setpower_inRange (hw : s.commandWaits mb 2 = true) (ha : 1800 ≤ s.arg mb 0 4 ∧ s.arg mb 0 4 ≤ 3600) :
    EndsWith s mb (.setpower mb) 2 fun t => t.ctlNat 0x14 2 = s.arg mb 0 4 ∧ t.mem = s.mem := by
  have hset : MailboxesOk (s.setCtl 0x14 (s.arg mb 0 4) 2) :=
    ⟨ctl_setCtl hs.control .., by rw [setCtl_frame]; exact hs.sideband⟩
  refine endsWith_done hw (show execSetpower mb s = _ by simp only [execSetpower, if_pos ha]) hset ⟨?_, by simp⟩
  rw [ctlNat_mbStatus hset mb 2 0x14 2 (by decide), ctlNat_setCtl hs.control]
  omega

theorem setpower_outOfRange (hw : s.commandWaits mb 2 = true) (ha : s.arg mb 0 4 < 1800 ∨ 3600 < s.arg mb 0 4) :
    EndsWith s mb (.setpower mb) 0x101 fun t => t.ctlNat 0x14 2 = s.ctlNat 0x14 2 ∧ t.mem = s.mem := by
  have hout : ¬ (1800 ≤ s.arg mb 0 4 ∧ s.arg mb 0 4 ≤ 3600) := by omega
  exact endsWith_error (e := 0) hw (show execSetpower mb s = _ by simp only [execSetpower, if_neg hout]) (by decide) hs
    ⟨ctlNat_mbStatus hs mb _ 0x14 2 (by decide), mbStatus_mem ..⟩

/-! ### INVALIDATE (R191) -/

/-- The entries that overlap the range are dropped at once; the command is busy while accesses that used them are pending. -/
theorem invalidate_drops (hw : s.commandWaits mb 3 = true) :
    let c := s.arg mb 0 4
    let first := s.arg mb 8 8 / 4096
    let count := s.arg mb 16 4
    let spans := s.invalidation mb c first count
    EndsWith s mb (.invalidate mb) (if s.accessesPending c spans then 1 else 2) fun t => t.mem = s.mem
      ∧ (s.accessesPending c spans = true → t.wh.spans.get? mb = some spans)
      ∧ ∀ e, e ∈ t.tlb ↔ e ∈ s.tlb ∧ e.overlaps c first count = false := by
  intro c first count spans
  have htlb : ∀ e, e ∈ (s.dropPages c first count spans.2).tlb ↔ e ∈ s.tlb ∧ e.overlaps c first count = false := by
    simp [State.dropPages]
  by_cases hp : s.accessesPending c spans = true
  · rw [if_pos hp]
    have hbusy : exec (.invalidate mb) s = .next { s.dropPages c first count spans.2 with
        wh := { (s.dropPages c first count spans.2).wh with spans := s.wh.spans.put mb spans } } := if_pos ⟨hw, hp⟩
    exact ⟨_, hbusy, status_of_commandWaits hw, rfl, fun _ => get?_put_self .., htlb⟩
  · rw [if_neg hp]
    refine endsWith_done hw (if_neg fun h => hp h.2) ⟨hs.control, hs.sideband⟩
      ⟨mbStatus_mem .., fun h => absurd h hp, fun e => ?_⟩
    rw [mbStatus_tlb]
    exact htlb e

/-! ### REFUSE (R407) -/

theorem refuse_unknown (hw : s.commandWaits mb 6 = true) (hf : s.ringFaults (s.arg mb 0 4) (s.arg mb 8 8 / 4096) = []) :
    EndsWith s mb (.refuse mb) 0x102 fun t => t.mem = s.mem :=
  endsWith_error (e := 1) hw (show execRefuse mb s = _ by simp only [execRefuse, hf]) (by decide) hs (mbStatus_mem ..)

theorem refuse_answers (hw : s.commandWaits mb 6 = true) {fs : List Fault0}
    (hf : s.ringFaults (s.arg mb 0 4) (s.arg mb 8 8 / 4096) = fs) (hne : fs ≠ []) :
    EndsWith s mb (.refuse mb) 2 fun t => t.mem = s.mem
      ∧ t.faults = s.faults.map fun f => if f ∈ fs then { f with answer := some false } else f := by
  obtain ⟨f, rest, rfl⟩ := List.exists_cons_of_ne_nil hne
  have hok : MailboxesOk (s.refused (f :: rest)) := ⟨hs.control, hs.sideband⟩
  refine endsWith_done hw (show execRefuse mb s = _ by simp only [execRefuse, hf, State.refused]) hok ⟨mbStatus_mem .., ?_⟩
  simp only [mbStatus_faults, State.refused, List.contains_iff_mem]

/-! ### SETPARAM and CLEARJOURNAL (R405, R413) -/

theorem setparam_stores (hw : s.commandWaits mb 9 = true) :
    EndsWith s mb (.setparam mb) 2 fun t => t.mem = s.mem
      ∧ t.flash = { s.flash with params := some ((List.range 96).map fun i => s.mbByte mb (8 + i)) } :=
  endsWith_done hw rfl ⟨hs.control, hs.sideband⟩ ⟨mbStatus_mem .., mbStatus_flash ..⟩

theorem clearjournal_clears (hw : s.commandWaits mb 10 = true) :
    EndsWith s mb (.clearjournal mb) 2 fun t => t.mem = s.mem
      ∧ t.flash = { s.flash with clearedAt := s.flash.startno, suspects := [], kept := none } :=
  endsWith_done hw rfl ⟨hs.control, hs.sideband⟩ ⟨mbStatus_mem .., mbStatus_flash ..⟩

end

end Sys2Proof.Machine
end

section
/-! UPDATE, and the swap of queues to new firmware (R416). -/

namespace Sys2Proof.Machine

/-! ### The end of an update -/

/-- The slot that was not in force comes into force, and every queue belongs to its image; no update is in progress. -/
def State.swapSlots (s : State) : State :=
  { s with
    flash := { s.flash with active := 1 - s.wh.slot, kept := s.flash.kept.map fun _ => 1 - s.wh.slot }
    wh := { s.wh with
      update := none, slot := 1 - s.wh.slot, queues := s.wh.queues.mapKeys fun _ q => { q with firmware := 0 } } }

theorem finishUpdate_eq (s : State) (u : FwUpdate) :
    s.finishUpdate u = (s.swapSlots.setCtlBytes (measAt 4) (sha256 (s.swapSlots.ctlBytes (measAt 4) 32 ++ u.digest))).setCtl
      0xC u.version 4 := rfl

/-- Beside the slots, the end of an update changes the bytes of the control space. -/
theorem finishUpdate_frame (s : State) (u : FwUpdate) : s.finishUpdate u = { s.swapSlots with ctl := (s.finishUpdate u).ctl } := by
  rw [finishUpdate_eq, setCtl_frame, setCtlBytes_frame]

@[simp] theorem finishUpdate_mem (s : State) (u : FwUpdate) : (s.finishUpdate u).mem = s.mem := by
  rw [finishUpdate_frame, State.swapSlots]

@[simp] theorem finishUpdate_wh (s : State) (u : FwUpdate) : (s.finishUpdate u).wh = s.swapSlots.wh := by
  rw [finishUpdate_frame]

@[simp] theorem finishUpdate_flash (s : State) (u : FwUpdate) : (s.finishUpdate u).flash = s.swapSlots.flash := by
  rw [finishUpdate_frame]

theorem MailboxesOk.finishUpdate {s : State} (h : MailboxesOk s) (u : FwUpdate) : MailboxesOk (s.finishUpdate u) where
  control := by
    rw [finishUpdate_eq]
    exact ctl_setCtl (ctl_setCtlBytes (s := s.swapSlots) h.control ..) ..
  sideband := by
    rw [finishUpdate_wh]
    exact h.sideband

/-- FWVER after the end of an update. -/
theorem finishUpdate_version {s : State} (h : MailboxesOk s) (u : FwUpdate) :
    (s.finishUpdate u).ctlNat 0xC 4 = u.version % 2 ^ 32 := by
  rw [finishUpdate_eq]
  exact ctlNat_setCtl (ctl_setCtlBytes (s := s.swapSlots) h.control ..) ..

/-- No queue is read by the new image any more: it is the old one from now on. -/
theorem finishUpdate_firmware (s : State) (u : FwUpdate) (c q : Nat) : ((s.finishUpdate u).queue c q).firmware = 0 := by
  simp only [State.queue, finishUpdate_wh, State.swapSlots, Cells.get, get?_mapKeys]
  cases s.wh.queues.get? (256 * c + q) <;> rfl

/-- An update in progress ends when every queue has changed. -/
theorem tryFinish_of_update {s : State} {u : FwUpdate} (h : s.wh.update = some u) :
    s.tryFinish = if s.allSwapped then s.finishUpdate u else s := by
  rw [State.tryFinish, h]

theorem queueFirmwareSwap_takes {s : State} {c q : Nat} {u : FwUpdate} (hu : s.wh.update = some u)
    (hc : s.resident c = true) (hq : s.queueEnabled c q = true) :
    let taken := s.setQueue c q { s.queue c q with firmware := 1 }
    exec (.queueFirmwareSwap c q) s = .next (if taken.allSwapped then taken.finishUpdate u else taken) := by
  intro taken
  have htaken : taken.wh.update = some u := hu
  rw [← tryFinish_of_update htaken]
  change execQueueFirmwareSwap c q s = _
  simp only [execQueueFirmwareSwap, hu, hc, hq, Option.isNone_some, Bool.false_eq_true, if_false, Bool.and_self, if_true]
  rfl

/-- A queue taken over by new firmware belongs to it, and the last one ends the update. -/
theorem queueFirmwareSwap_spec {s : State} (hs : MailboxesOk s) {c q : Nat} {u : FwUpdate} (hu : s.wh.update = some u)
    (hc : s.resident c = true) (hq : s.queueEnabled c q = true) :
    let taken := s.setQueue c q { s.queue c q with firmware := 1 }
    (taken.allSwapped = false → exec (.queueFirmwareSwap c q) s = .next taken)
      ∧ (taken.allSwapped = true → ∃ t, exec (.queueFirmwareSwap c q) s = .next t ∧ t.mem = s.mem
          ∧ t.wh.update = none ∧ t.wh.slot = 1 - s.wh.slot
          ∧ t.flash = { s.flash with active := 1 - s.wh.slot, kept := s.flash.kept.map fun _ => 1 - s.wh.slot }
          ∧ (t.queue c q).firmware = 0 ∧ t.ctlNat 0xC 4 = u.version % 2 ^ 32) := by
  intro taken
  have hexec := queueFirmwareSwap_takes hu hc hq
  constructor
  · intro hall
    rw [hexec, if_neg (by rw [hall]; exact Bool.false_ne_true)]
  · intro hall
    have htaken : MailboxesOk taken := ⟨hs.control, hs.sideband⟩
    exact ⟨taken.finishUpdate u, by rw [hexec, if_pos hall], finishUpdate_mem .., by rw [finishUpdate_wh]; rfl,
      by rw [finishUpdate_wh]; rfl, finishUpdate_flash .., finishUpdate_firmware .., finishUpdate_version htaken u⟩

/-! ### UPDATE -/

/-- A good image: it verifies, and the configuration record admits its version. -/
def State.goodImage (s : State) (digest : List Byte) : Prop :=
  Config.verifies (listNat digest) = true ∧ s.flash.config.minVersion ≤ Config.imageVersion (listNat digest)

/-- An image goes to the slot that is not in force, and its update begins. -/
def State.takeImage (s : State) (digest : List Byte) : State :=
  { s with
    flash := { s.flash with
      versions := s.flash.versions.set (1 - s.wh.slot) (Config.imageVersion (listNat digest))
      images := s.flash.images.put (1 - s.wh.slot) digest }
    wh := { s.wh with update := some ⟨Config.imageVersion (listNat digest), digest⟩ } }

theorem tryFinish_takeImage (s : State) (digest : List Byte) :
    (s.takeImage digest).tryFinish = s.takeImage digest
      ∨ ∃ u, (s.takeImage digest).tryFinish = (s.takeImage digest).finishUpdate u := by
  rw [tryFinish_of_update (s := s.takeImage digest) rfl]
  split
  · exact .inr ⟨_, rfl⟩
  · exact .inl rfl

section
variable {s : State} {mb : Nat} (hs : MailboxesOk s) (hw : s.commandWaits mb 8 = true)
include hs hw

theorem update_inProgress (hu : s.wh.update.isSome = true) : EndsWith s mb (.update mb) 0x103 fun t => t.mem = s.mem := by
  have hnone : s.wh.update ≠ none := fun h => by rw [h] at hu; cases hu
  refine endsWith_error (e := 2) hw ?_ (by decide) hs (mbStatus_mem ..)
  change execUpdate mb s = _
  simp only [execUpdate, hu, hnone, false_and, and_false, if_true, if_false]

variable (hu : s.wh.update = none) (hplace : s.badPlace (s.arg mb 0 8) = false) (hwin : inWindow (s.arg mb 0 8) = true)
  (hreach : s.reachable (s.arg mb 0 8) = true) (hheld : s.linesHeld (s.arg mb 0 8) (s.arg mb 8 8) = false)
include hu hplace hwin hreach hheld

omit hs hw in
/-- What `UPDATE` makes of an image that it can read. -/
theorem update_reads {digest : List Byte}
    (hd : digest = sha256 ((List.range (s.arg mb 8 8)).map fun i => s.homeByte (s.arg mb 0 8 + i))) :
    exec (.update mb) s = s.command mb 8
      (if Config.verifies (listNat digest) = false ∨ Config.imageVersion (listNat digest) < s.flash.config.minVersion then
        some (s, 6)
      else some ((s.takeImage digest).tryFinish, 0)) := by
  subst hd
  change execUpdate mb s = _
  simp only [execUpdate, hu, hplace, hwin, hreach, hheld, Option.isSome_none, Bool.false_eq_true, Bool.true_eq_false,
    or_self, and_false, if_false]
  rfl

theorem update_good {digest : List Byte}
    (hd : digest = sha256 ((List.range (s.arg mb 8 8)).map fun i => s.homeByte (s.arg mb 0 8 + i)))
    (hgood : s.goodImage digest) :
    EndsWith s mb (.update mb) 2 fun t => t.mem = s.mem ∧ t.flash.images.get? (1 - s.wh.slot) = some digest := by
  have hexec := update_reads hu hplace hwin hreach hheld hd
  have hadmitted : ¬ (Config.verifies (listNat digest) = false
      ∨ Config.imageVersion (listNat digest) < s.flash.config.minVersion) := by
    rw [not_or, Bool.not_eq_false, Nat.not_lt]
    exact hgood
  rw [if_neg hadmitted] at hexec
  have hok : MailboxesOk (s.takeImage digest) := ⟨hs.control, hs.sideband⟩
  rcases tryFinish_takeImage s digest with hsame | ⟨u, hdone⟩
  · rw [hsame] at hexec
    refine endsWith_done hw hexec hok ⟨mbStatus_mem .., ?_⟩
    rw [mbStatus_flash]
    exact get?_put_self ..
  · rw [hdone] at hexec
    refine endsWith_done hw hexec (hok.finishUpdate u) ⟨by rw [mbStatus_mem, finishUpdate_mem]; rfl, ?_⟩
    rw [mbStatus_flash, finishUpdate_flash]
    exact get?_put_self ..

theorem update_bad {digest : List Byte}
    (hd : digest = sha256 ((List.range (s.arg mb 8 8)).map fun i => s.homeByte (s.arg mb 0 8 + i)))
    (hbad : ¬ s.goodImage digest) :
    EndsWith s mb (.update mb) 0x106 fun t => t.mem = s.mem ∧ t.flash = s.flash := by
  have hrefused : Config.verifies (listNat digest) = false
      ∨ Config.imageVersion (listNat digest) < s.flash.config.minVersion := by
    rwa [State.goodImage, Classical.not_and_iff_not_or_not, Bool.not_eq_true, Nat.not_le] at hbad
  exact endsWith_error (e := 5) hw (by rw [update_reads hu hplace hwin hreach hheld hd, if_pos hrefused]) (by decide) hs
    ⟨mbStatus_mem .., mbStatus_flash ..⟩

end

end Sys2Proof.Machine
end

section
/-! What a write at a home place leaves, wherever it lies (R404): basins, launches, rays, faults, and the form of the mailboxes. -/

namespace Sys2Proof.Machine

/-- A write at a home place leads from one state to the other. -/
structure HomeWritten (s t : State) : Prop where
  basins : t.basins = s.basins
  launches : t.launches = s.launches
  rays : t.rays = s.rays
  faults : t.faults = s.faults
  mailboxes : MailboxesOk s → MailboxesOk t

namespace HomeWritten

theorem refl (s : State) : HomeWritten s s := ⟨rfl, rfl, rfl, rfl, id⟩

theorem trans {s t u : State} (h : HomeWritten s t) (k : HomeWritten t u) : HomeWritten s u :=
  ⟨k.basins.trans h.basins, k.launches.trans h.launches, k.rays.trans h.rays, k.faults.trans h.faults,
    k.mailboxes ∘ h.mailboxes⟩

/-- A run of writes, of states or of states with a flag. -/
theorem foldl {α σ : Type} (p : σ → State) {f : σ → α → σ} (hf : ∀ x a, HomeWritten (p x) (p (f x a))) (l : List α)
    (x : σ) : HomeWritten (p x) (p (l.foldl f x)) := by
  induction l generalizing x with
  | nil => exact refl _
  | cons a l ih => exact (hf x a).trans (ih _)

theorem setCtl8 (s : State) (off : Nat) (v : Byte) : HomeWritten s (s.setCtl8 off v) :=
  ⟨rfl, rfl, rfl, rfl, fun h => ⟨ctl_setCtl8 h.control off v, h.sideband⟩⟩

theorem setCtl (s : State) (off v n : Nat) : HomeWritten s (s.setCtl off v n) := by
  induction n generalizing s off v with
  | zero => exact refl s
  | succ n ih => exact (setCtl8 s off _).trans (ih _ _ _)

theorem logError (s : State) (unit kind pa ctx : Nat) : HomeWritten s (s.logError unit kind pa ctx) :=
  ⟨rfl, rfl, rfl, rfl, fun h => ⟨h.control, h.sideband⟩⟩

theorem setQueue (s : State) (c q : Nat) (x : Queue) : HomeWritten s (s.setQueue c q x) :=
  ⟨rfl, rfl, rfl, rfl, fun h => ⟨h.control, h.sideband⟩⟩

theorem poke (s : State) (pa : Nat) (v : Byte) : HomeWritten s (s.poke pa v) :=
  ⟨rfl, rfl, rfl, rfl, fun h => ⟨h.control, h.sideband⟩⟩

theorem pokes (s : State) (base : Nat) (data : Cells Byte) :
    HomeWritten s (data.foldl (fun (s : State) (e : Nat × Byte) => s.poke (base + e.1) e.2) s) :=
  foldl id (fun s (e : Nat × Byte) => poke s (base + e.1) e.2) data s

theorem marked (s : State) (poison latent : List Nat) : HomeWritten s { s with poison := poison, latent := latent } :=
  ⟨rfl, rfl, rfl, rfl, fun h => ⟨h.control, h.sideband⟩⟩

/-! ### The control space -/

theorem putMasked (s : State) (base : Nat) (mask : Nat → Byte) (data : Cells Byte) : HomeWritten s (s.putMasked base mask data) :=
  foldl id (fun s (e : Nat × Byte) => setCtl8 s (base + e.1) (e.2 &&& mask e.1)) data s

theorem writeContext (s : State) (c : Nat) (data : Cells Byte) : HomeWritten s (s.writeContext c data) := by
  unfold State.writeContext
  dsimp only
  split
  case isTrue valid =>
    split
    · split
      · exact refl s
      · split
        · exact logError ..
        · exact putMasked ..
    · exact refl s
  case isFalse invalid =>
    split
    · exact logError ..
    · exact putMasked ..

theorem writeQueue (s : State) (c q : Nat) (data : Cells Byte) : HomeWritten s (s.writeQueue c q data) := by
  unfold State.writeQueue
  dsimp only
  split
  case isTrue enabled =>
    split
    · split
      · exact refl s
      · exact putMasked ..
    · exact refl s
  case isFalse disabled =>
    split
    · exact (putMasked ..).trans (setQueue ..)
    · exact putMasked ..

theorem writeMailbox (s : State) (data : Cells Byte) : HomeWritten s (s.writeMailbox data) := by
  unfold State.writeMailbox
  dsimp only
  split
  · exact (putMasked ..).trans (setCtl ..)
  · exact putMasked ..

theorem controlWrite (s : State) (data : Cells Byte) : HomeWritten s (s.controlWrite data) := by
  unfold State.controlWrite
  dsimp only
  refine HomeWritten.trans ?_ ((foldl id (fun _ _ => writeContext ..) _ _).trans (foldl id (fun _ _ => writeQueue ..) _ _))
  split
  · exact refl s
  · exact writeMailbox ..

/-! ### Memory -/

theorem writeGranule (s : State) (base : Nat) (data : Cells Byte) (g ctx : Nat) :
    HomeWritten s (s.writeGranule base data g ctx).1 := by
  unfold State.writeGranule
  dsimp only
  split
  case isTrue outside => exact pokes ..
  case isFalse hbm =>
    split
    case isTrue whole => exact (marked s _ _).trans (pokes ..)
    case isFalse narrow =>
      split
      · exact (marked s _ _).trans (logError ..)
      · split
        · exact logError ..
        · exact pokes ..

theorem keepOld (s : State) (base : Nat) (data : Cells Byte) : HomeWritten s (s.keepOld base data) := by
  unfold State.keepOld
  split
  · exact refl s
  · exact ⟨rfl, rfl, rfl, rfl, fun h => ⟨h.control, h.sideband⟩⟩

theorem homeWrite (s : State) (base : Nat) (data : Cells Byte) (ctx : Nat) : HomeWritten s (s.homeWrite base data ctx).1 := by
  unfold State.homeWrite
  split
  · exact controlWrite ..
  · refine (keepOld s base data).trans (foldl Prod.fst (fun r k => ?_) _ (s.keepOld base data, false))
    dsimp only
    split
    · exact writeGranule ..
    · exact refl _

theorem homePut (s : State) (pa v n ctx : Nat) : HomeWritten s (s.homePut pa v n ctx).1 := homeWrite ..

/-! ### Writes of the controller -/

theorem controllerPut (s : State) (ctx pa v n : Nat) : HomeWritten s (s.controllerPut ctx pa v n) := by
  unfold State.controllerPut
  split
  · exact homePut ..
  · exact logError ..

theorem leaveHead (s : State) (c q : Nat) : HomeWritten s (s.leaveHead c q) := (setQueue ..).trans (controllerPut ..)

end HomeWritten

end Sys2Proof.Machine
end

section
/-! RESOLVE (R407): the accesses that waited are tried again, and may raise faults anew, but none that stands in a fault ring
already. -/

namespace Sys2Proof.Machine

/-- Accesses are tried again between the states: every fault of a ring was there before. -/
structure Retried (s t : State) : Prop where
  posted : ∀ g ∈ t.faults, g.posted = true → g ∈ s.faults
  mailboxes : MailboxesOk s → MailboxesOk t

namespace Retried

theorem refl (s : State) : Retried s s := ⟨fun _ h _ => h, id⟩

theorem trans {s t u : State} (h : Retried s t) (k : Retried t u) : Retried s u :=
  ⟨fun g hg hp => h.posted g (k.posted g hg hp) hp, k.mailboxes ∘ h.mailboxes⟩

theorem of_homeWritten {s t : State} (h : HomeWritten s t) : Retried s t := ⟨fun _ hg _ => h.faults ▸ hg, h.mailboxes⟩

/-- What changes neither the faults nor the mailboxes. -/
theorem of_same {s t : State} (hf : t.faults = s.faults) (hc : t.ctl = s.ctl) (hb : t.wh.sideband = s.wh.sideband) :
    Retried s t :=
  ⟨fun _ hg _ => hf ▸ hg, fun h => ⟨hc ▸ h.control, hb ▸ h.sideband⟩⟩

theorem withJet (s : State) (b j : Nat) (f : Jet → Jet) : Retried s (s.withJet b j f) := of_same rfl rfl rfl

theorem logError (s : State) (unit kind pa ctx : Nat) : Retried s (s.logError unit kind pa ctx) := of_same rfl rfl rfl

theorem halt (s : State) (b j : Nat) : Retried s (s.halt b j) := by
  unfold State.halt
  split
  · exact refl s
  · split
    · exact refl s
    · exact (withJet s b j _).trans (logError ..)

theorem addCause (s : State) (b j : Nat) (p : Pending) : Retried s (s.addCause b j p) := by
  unfold State.addCause
  split
  · exact refl s
  · split
    · exact halt ..
    · exact withJet ..

/-- A fault that is raised does not stand in a ring yet. -/
theorem raiseFault (s : State) (owner : FaultOwner) (ctx : Nat) (va : Dword) (kind : BitVec 4) (level0 : Bool) :
    Retried s (s.raiseFault owner ctx va kind level0) := by
  unfold State.raiseFault
  split
  · exact refl s
  · refine ⟨fun g hg hp => ?_, fun h => ⟨h.control, h.sideband⟩⟩
    rcases List.mem_append.1 hg with hold | hnew
    · exact hold
    · rw [List.mem_singleton.1 hnew] at hp
      cases hp

/-! ### Translations -/

theorem setUsed (s : State) (ctx a e : Nat) (acc : Access) : Retried s (s.setUsed ctx a e acc) := by
  unfold State.setUsed
  split
  · exact refl s
  · exact of_homeWritten (.homePut ..)

theorem fillTlbs (s : State) (x : TlbEntry) : Retried s (s.fillTlbs x) := by
  unfold State.fillTlbs
  split <;> exact of_same rfl rfl rfl

theorem translateBy (s : State) (tlb : List TlbEntry) (place ctx : Nat) (sys : Bool) (va : Nat) (acc : Access) :
    Retried s (s.translateBy tlb place ctx sys va acc).1 := by
  unfold State.translateBy
  split
  case h_1 hit =>
    split
    · exact refl s
    · dsimp only
      split
      · exact refl s
      · exact of_same rfl rfl rfl
  case h_2 miss =>
    split
    · exact refl s
    · exact refl s
    · dsimp only
      split
      · exact refl s
      · exact (setUsed ..).trans (fillTlbs ..)

theorem translateOwn (s : State) (tlb : List TlbEntry) (own : Bool) (place ctx : Nat) (sys : Bool) (va : Nat) (acc : Access) :
    Retried s (s.translateOwn tlb own place ctx sys va acc).1 := by
  unfold State.translateOwn
  split
  · have hown := translateBy { s with token := { s.token with lines := [] } } tlb place ctx sys va acc
    refine ⟨hown.posted, fun h => ?_⟩
    have hok := hown.mailboxes ⟨h.control, h.sideband⟩
    exact ⟨hok.control, hok.sideband⟩
  · exact translateBy ..

theorem translateOps (tlb : List TlbEntry) (b j : Nat) (all ops : List LongOp) (s : State) :
    Retried s (s.translateOps tlb b j all ops).1 := by
  induction ops generalizing s with
  | nil => exact refl s
  | cons o rest ih =>
    rw [State.translateOps]
    split
    · exact ih s
    · have htr := translateOwn s tlb (s.holderAmong b j (o.sharers all)) (corePlace (s.coreOf b)) (s.ctxOf b) o.sys o.va.toNat
        o.access
      dsimp only
      split
      case h_1 heq => rw [heq] at htr; exact htr.trans (ih _)
      case h_2 heq => rw [heq] at htr; exact htr.trans (ih _)
      case h_3 heq =>
        rw [heq] at htr
        refine htr.trans ?_
        split
        · exact ih _
        · split
          · exact (raiseFault ..).trans (ih _)
          · split
            · exact (logError ..).trans (ih _)
            · exact (addCause ..).trans (ih _)

theorem translateStores (tlb : List TlbEntry) (b j : Nat) (reqs : List StoreReq) (s : State) :
    Retried s (s.translateStores tlb b j reqs).1 := by
  induction reqs generalizing s with
  | nil => exact refl s
  | cons o rest ih =>
    rw [State.translateStores]
    split
    · exact ih s
    · have htr := translateOwn s tlb (s.holderAmong b j o.lanes) (corePlace (s.coreOf b)) (s.ctxOf b) o.sys o.va.toNat .write
      dsimp only
      split
      case h_1 heq => rw [heq] at htr; exact htr.trans (ih _)
      case h_2 heq => rw [heq] at htr; exact htr.trans (ih _)
      case h_3 heq =>
        rw [heq] at htr
        refine htr.trans ?_
        split
        · exact (raiseFault ..).trans (ih _)
        · exact (addCause ..).trans (ih _)

theorem retryAccess (s : State) (b j : Nat) : Retried s (s.retryAccess b j) := by
  unfold State.retryAccess
  split
  · exact refl s
  · exact ((translateOps ..).trans (translateStores ..)).trans (withJet ..)

theorem withUpdate (s : State) (f : Update → Update) : Retried s (s.withUpdate f) := by
  unfold State.withUpdate
  split
  · exact refl s
  · exact of_same rfl rfl rfl

theorem dropFault (s : State) (f : Fault0) : Retried s (s.dropFault f) :=
  ⟨fun _ hg _ => (List.mem_filter.1 hg).1, fun h => ⟨h.control, h.sideband⟩⟩

/-- A fault that is resolved is dropped first; then its owner tries again. -/
theorem retryFault (s : State) (f : Fault0) : Retried (s.dropFault f) (s.retryFault f) := by
  unfold State.retryFault
  dsimp only
  split
  · exact retryAccess ..
  · exact withJet ..
  · exact of_same rfl rfl rfl
  · exact refl _
  · exact refl _
  · exact of_same rfl rfl rfl
  · exact withUpdate ..

end Retried

/-! ### The faults of a page -/

theorem not_mem_dropFault (s : State) (f : Fault0) : f ∉ (s.dropFault f).faults := by
  simp [State.dropFault]

theorem retryFaults_retried (fs : List Fault0) (s : State) : Retried s (fs.foldl State.retryFault s) := by
  induction fs generalizing s with
  | nil => exact .refl s
  | cons f fs ih => exact ((Retried.dropFault s f).trans (.retryFault s f)).trans (ih _)

/-- Faults of a ring that are resolved wait no more. -/
theorem not_mem_retryFaults (fs : List Fault0) (s : State) {f : Fault0} (hf : f ∈ fs) (hp : f.posted = true) :
    f ∉ (fs.foldl State.retryFault s).faults := by
  induction fs generalizing s with
  | nil => cases hf
  | cons g fs ih =>
    rcases List.mem_cons.1 hf with rfl | hrest
    · intro hmem
      have hmid := (retryFaults_retried fs (s.retryFault f)).posted f hmem hp
      exact not_mem_dropFault s f ((Retried.retryFault s f).posted f hmid hp)
    · exact ih (s.retryFault g) hrest

/-- The faults that a command names stand in a ring. -/
theorem posted_of_ringFaults {s : State} {c page : Nat} {f : Fault0} (h : f ∈ s.ringFaults c page) : f.posted = true := by
  simp only [State.ringFaults, List.mem_filter, Bool.and_eq_true] at h
  exact h.2.2

section
variable {s : State} {mb : Nat} (hs : MailboxesOk s) (hw : s.commandWaits mb 5 = true)
include hs hw

theorem resolve_unknown (hf : s.ringFaults (s.arg mb 0 4) (s.arg mb 8 8 / 4096) = []) :
    EndsWith s mb (.resolve mb) 0x102 fun t => t.mem = s.mem :=
  endsWith_error (e := 1) hw (show execResolve mb s = _ by simp only [execResolve, hf]) (by decide) hs (mbStatus_mem ..)

theorem resolve_retries (hne : s.ringFaults (s.arg mb 0 4) (s.arg mb 8 8 / 4096) ≠ []) :
    EndsWith s mb (.resolve mb) 2 fun t => ∀ f ∈ s.ringFaults (s.arg mb 0 4) (s.arg mb 8 8 / 4096), f ∉ t.faults := by
  generalize hf : s.ringFaults (s.arg mb 0 4) (s.arg mb 8 8 / 4096) = fs at hne ⊢
  have hexec : exec (.resolve mb) s = s.command mb 5 (some (fs.foldl State.retryFault s, 0)) := by
    obtain ⟨f, rest, rfl⟩ := List.exists_cons_of_ne_nil hne
    change execResolve mb s = _
    simp only [execResolve, hf]
  refine endsWith_done hw hexec ((retryFaults_retried fs s).mailboxes hs) fun f hmem => ?_
  rw [mbStatus_faults]
  exact not_mem_retryFaults fs s hmem (posted_of_ringFaults (hf ▸ hmem))

end

end Sys2Proof.Machine
end

section
/-! ENDLAUNCH (R411, R268): what it stops at once, and what the controller has still to write. -/

namespace Sys2Proof.Machine

/-! ### A jet and a basin that are stopped -/

theorem stop_idem (J : Jet) : J.stop.stop = J.stop := by
  unfold Jet.stop
  by_cases h : J.run = .exited <;> simp [h]

theorem stop_threads {J : Jet} (h : J.run = .exited → J.threads = []) : J.stop.threads = [] := by
  unfold Jet.stop
  split
  · next hx => exact h hx
  · rfl

/-- A basin whose jets have all been stopped; it holds no save area and is not pre-empted. -/
def Basin.stopped (B : Basin) : Basin :=
  { B with jets := B.jets.mapKeys fun _ J => J.stop, preempt := false, bsave := 0 }

theorem mapKeys_mapKeys {β : Type} (c : Cells β) (f g : Nat → β → β) :
    (c.mapKeys f).mapKeys g = c.mapKeys fun k v => g k (f k v) := by
  induction c with
  | nil => rfl
  | cons e c ih => exact congrArg ((e.1, g e.1 (f e.1 e.2)) :: ·) ih

theorem stopped_idem (B : Basin) : B.stopped.stopped = B.stopped := by
  simp only [Basin.stopped, mapKeys_mapKeys, stop_idem]

/-! ### The basins of a launch -/

/-- Some basins have been stopped between the states; the token is given back where one of them held it. -/
structure BasinsStopped (s t : State) (bs : List Nat) : Prop where
  basins : ∀ b, t.basins.get? b = if b ∈ bs then (s.basins.get? b).map Basin.stopped else s.basins.get? b
  holder : t.token.holder = s.token.holder.filter fun r => !bs.contains r.basin
  lines : t.token.holder ≠ none → t.token.lines = s.token.lines
  launches : t.launches = s.launches
  rays : t.rays = s.rays
  control : t.ctl = s.ctl
  sideband : t.wh.sideband = s.wh.sideband
  queues : t.wh.queues = s.wh.queues

theorem BasinsStopped.refl (s : State) : BasinsStopped s s [] where
  basins _ := rfl
  holder := by cases s.token.holder <;> rfl
  lines _ := rfl
  launches := rfl
  rays := rfl
  control := rfl
  sideband := rfl
  queues := rfl

theorem BasinsStopped.trans {s t u : State} {bs cs : List Nat} (h : BasinsStopped s t bs) (k : BasinsStopped t u cs) :
    BasinsStopped s u (bs ++ cs) where
  basins b := by
    rw [k.basins, h.basins]
    by_cases hb : b ∈ bs <;> by_cases hc : b ∈ cs <;> simp [hb, hc, Function.comp_def, stopped_idem]
  holder := by
    rw [k.holder, h.holder, Option.filter_filter]
    congr 1
    funext r
    simp
  lines hne := by
    have hmid : t.token.holder ≠ none := fun hnone => hne (by rw [k.holder, hnone]; rfl)
    rw [k.lines hne, h.lines hmid]
  launches := k.launches.trans h.launches
  rays := k.rays.trans h.rays
  control := k.control.trans h.control
  sideband := k.sideband.trans h.sideband
  queues := k.queues.trans h.queues

/-- Jets that leave the queues of the token and of the slots change nothing that is read here. -/
theorem leaveQueues_stop (b : Nat) (jets : Cells Jet) (s : State) :
    BasinsStopped s (jets.foldl (fun (s : State) e => s.leaveQueues b e.1) s) [] := by
  induction jets generalizing s with
  | nil => exact .refl s
  | cons e jets ih =>
    have hone : BasinsStopped s (s.leaveQueues b e.1) [] :=
      ⟨fun _ => rfl, (BasinsStopped.refl s).holder, fun _ => rfl, rfl, rfl, rfl, rfl, rfl⟩
    exact hone.trans (ih _)

/-- What stops a basin, its jets having left the queues. -/
theorem stopBasin_stops {s : State} {b : Nat} {B : Basin} (hB : s.basins.get? b = some B) :
    BasinsStopped s (s.stopBasin b) [b] := by
  have hleave := leaveQueues_stop b B.jets s
  unfold State.stopBasin State.basin?
  rw [hB]
  dsimp only
  generalize B.jets.foldl (fun (s : State) e => s.leaveQueues b e.1) s = u at hleave ⊢
  refine hleave.trans ?_
  have hbasins : ∀ x, (u.basins.modify b Basin.stopped).get? x
      = if x ∈ [b] then (u.basins.get? x).map Basin.stopped else u.basins.get? x := fun x => by
    by_cases hx : x = b
    · rw [hx, get?_modify_self, if_pos (List.mem_singleton_self b)]
    · rw [get?_modify_ne _ _ hx, if_neg (by simpa using hx)]
  cases hr : u.token.holder with
  | none => exact ⟨hbasins, by rw [hr]; exact hr, fun _ => rfl, rfl, rfl, rfl, rfl, rfl⟩
  | some r =>
    dsimp only
    by_cases hrb : r.basin = b
    · rw [if_pos hrb]
      exact ⟨hbasins, by simp [hr, hrb, Option.filter, State.publish, State.freeArea, State.withBasin],
        fun h => absurd rfl h, rfl, rfl, rfl, rfl, rfl⟩
    · rw [if_neg hrb]
      exact ⟨hbasins, by simp [hr, hrb, Option.filter, State.freeArea, State.withBasin], fun _ => rfl, rfl, rfl, rfl, rfl, rfl⟩

theorem stopBasins_stop (l : Cells Basin) (s : State) (h : ∀ e ∈ l, (s.basins.get? e.1).isSome = true) :
    BasinsStopped s (l.foldl (fun s e => s.stopBasin e.1) s) (l.map (·.1)) := by
  induction l generalizing s with
  | nil => exact .refl s
  | cons e l ih =>
    obtain ⟨B, hB⟩ := Option.isSome_iff_exists.1 (h e List.mem_cons_self)
    have hhead := stopBasin_stops hB
    refine hhead.trans (ih (s.stopBasin e.1) fun x hx => ?_)
    rw [hhead.basins]
    split
    · rw [Option.isSome_map]
      exact h x (List.mem_cons_of_mem _ hx)
    · exact h x (List.mem_cons_of_mem _ hx)

/-! ### A launch that is stopped -/

/-- The token is held outside the basins of a launch. -/
def State.heldElsewhere (s : State) (n : Nat) : Prop :=
  ∀ r B, s.token.holder = some r → s.basins.get? r.basin = some B → B.launch ≠ n

/-- What stopping a launch does to what the statements read. -/
structure LaunchStopped (s t : State) (n : Nat) (L : Launch) : Prop where
  basins : ∀ b, t.basins.get? b = (s.basins.get? b).map fun B => if B.launch = n then B.stopped else B
  lineHeld : ∀ pa, t.lineHeld pa = true ↔ s.lineHeld pa = true ∧ s.heldElsewhere n
  launches : t.launches = s.launches.modify n fun L => { L with ended := true, saved := [] }
  rays : t.rays = s.rays.filter fun r => !decide (r.ctx = L.ctx ∧ r.launch = n)
  control : t.ctl = s.ctl
  sideband : t.wh.sideband = s.wh.sideband
  queues : t.wh.queues = s.wh.queues

/-- Areas that are freed change nothing else. -/
theorem freeAreas_frame (ctx : Nat) (saved : List SavedBasin) (s : State) :
    let t := saved.foldl (fun (s : State) r => s.freeArea ctx r.bsave) s
    t = { s with wh := { s.wh with areas := t.wh.areas } } := by
  induction saved generalizing s with
  | nil => rfl
  | cons r saved ih => exact ih (s.freeArea ctx r.bsave)

/-- The keys of the basins of a launch. -/
theorem mem_basinsOf {s : State} (hs : Cells.sortedFrom none s.basins = true) (n b : Nat) :
    b ∈ (s.basins.filter fun e => decide (e.2.launch = n)).map (·.1)
      ↔ ∃ B, s.basins.get? b = some B ∧ B.launch = n := by
  simp only [List.mem_map, List.mem_filter, decide_eq_true_eq]
  constructor
  · rintro ⟨⟨b, B⟩, ⟨hmem, hn⟩, rfl⟩
    exact ⟨B, mem_get? hs hmem, hn⟩
  · rintro ⟨B, hB, hn⟩
    exact ⟨(b, B), ⟨get?_mem hB, hn⟩, rfl⟩

/-- After the basins of a launch have been stopped, a line is held where it was held, and the token is elsewhere. -/
theorem lineHeld_stopped {s t : State} (hs : Cells.sortedFrom none s.basins = true) {n : Nat}
    (h : BasinsStopped s t ((s.basins.filter fun e => decide (e.2.launch = n)).map (·.1))) (pa : Nat) :
    t.lineHeld pa = true ↔ s.lineHeld pa = true ∧ s.heldElsewhere n := by
  have hholder := h.holder
  have hlines := h.lines
  have hkeys := mem_basinsOf hs n
  generalize (s.basins.filter fun e => decide (e.2.launch = n)).map (·.1) = bs at hholder hkeys
  cases hr : s.token.holder with
  | none =>
    rw [hr] at hholder
    simp [State.lineHeld, hr, show t.token.holder = none from hholder]
  | some r =>
    rw [hr] at hholder
    by_cases hb : r.basin ∈ bs
    · obtain ⟨B, hB, hn⟩ := (hkeys r.basin).1 hb
      have hnone : t.token.holder = none := by simpa [hb, Option.filter] using hholder
      have hhere : ¬ s.heldElsewhere n := fun helse => helse r B hr hB hn
      simp [State.lineHeld, hnone, hhere]
    · have hsome : t.token.holder = some r := by simpa [hb, Option.filter] using hholder
      have helse : s.heldElsewhere n := fun r' B hr' hB hn => by
        obtain rfl : r = r' := Option.some.inj (hr.symm.trans hr')
        exact hb ((hkeys r.basin).2 ⟨B, hB, hn⟩)
      simp [State.lineHeld, hr, hsome, hlines (by simp [hsome]), helse]

theorem stopLaunch_stops {s : State} (hs : Cells.sortedFrom none s.basins = true) (n : Nat) (L : Launch) :
    LaunchStopped s (s.stopLaunch n L) n L := by
  have hstop := stopBasins_stop (s.basins.filter fun e => decide (e.2.launch = n)) s fun e he => by
    rw [mem_get? hs (List.mem_filter.1 he).1]
    rfl
  unfold State.stopLaunch
  dsimp only
  rw [freeAreas_frame]
  generalize (s.basins.filter fun e => decide (e.2.launch = n)).foldl (fun s e => s.stopBasin e.1) s = u at hstop ⊢
  refine ⟨fun b => ?_, lineHeld_stopped (t := u) hs hstop, hstop.launches ▸ rfl, hstop.rays ▸ rfl,
    hstop.control, hstop.sideband, hstop.queues⟩
  show u.basins.get? b = _
  rw [hstop.basins]
  cases hB : s.basins.get? b with
  | none => simp
  | some B =>
    have hkey : b ∈ (s.basins.filter fun e => decide (e.2.launch = n)).map (·.1) ↔ B.launch = n := by
      rw [mem_basinsOf hs]
      simp [hB]
    by_cases hn : B.launch = n
    · rw [if_pos (hkey.2 hn), Option.map_some, Option.map_some, if_pos hn]
    · rw [if_neg (mt hkey.1 hn), Option.map_some, if_neg hn]

/-- No thread of a launch is left, and no ray. -/
def LaunchGone (t : State) (n ctx : Nat) : Prop :=
  (∀ b B j J, t.basins.get? b = some B → B.launch = n → B.jets.get? j = some J → J.threads = [])
    ∧ ∀ r ∈ t.rays, ¬ (r.ctx = ctx ∧ r.launch = n)

theorem LaunchStopped.gone {s t : State} {n : Nat} {L : Launch} (h : LaunchStopped s t n L) (hs : Regular s) :
    LaunchGone t n L.ctx := by
  constructor
  · intro b B j J hB hn hJ
    rw [h.basins] at hB
    obtain ⟨A, hA, rfl⟩ := Option.map_eq_some_iff.1 hB
    have hlaunch : A.launch = n := Decidable.byContradiction fun hne => hne (by rwa [if_neg hne] at hn)
    rw [if_pos hlaunch, Basin.stopped, get?_mapKeys] at hJ
    obtain ⟨K, hK, rfl⟩ := Option.map_eq_some_iff.1 hJ
    exact stop_threads (hs.exited b A j K (get?_mem hA) (get?_mem hK))
  · intro r hr
    rw [h.rays] at hr
    simpa only [Bool.not_eq_true', decide_eq_false_iff_not] using (List.mem_filter.1 hr).2

theorem LaunchGone.written {t u : State} {n ctx : Nat} (h : LaunchGone t n ctx) (hb : u.basins = t.basins)
    (hr : u.rays = t.rays) : LaunchGone u n ctx := by
  unfold LaunchGone
  rw [hb, hr]
  exact h

/-! ### The status, and the queue's head (R268) -/

/-- The irrevocable lane of another launch holds a line that the controller has still to write for a launch. -/
def State.endHeld (s : State) (n : Nat) (L : Launch) : Prop :=
  (s.statusHeld L.packet = true
      ∨ ((s.queue L.ctx L.queue).launch = some n ∧ s.queueHeld L.ctx L.queue = true))
    ∧ s.heldElsewhere n

/-- The packet and the head word of a queue lie where they lay. -/
theorem queueAddresses_congr {s t : State} (hc : t.ctl = s.ctl) (hq : t.wh.queues = s.wh.queues) (c q : Nat) :
    t.headPacket c q = s.headPacket c q ∧ t.headAddr c q = s.headAddr c q := by
  have hbytes : t.ctl8 = s.ctl8 := funext fun o => congrArg (Cells.get 0 · o) hc
  simp only [State.headPacket, State.queueBase, State.queueLog, State.headAddr, State.queue, ctlNat_eq_bytesNat, hbytes, hq,
    and_self]

theorem LaunchStopped.endHeld_iff {s t : State} {n : Nat} {L : Launch} (h : LaunchStopped s t n L) :
    (t.statusHeld L.packet || (t.atHead n L && t.queueHeld L.ctx L.queue)) = true ↔ s.endHeld n L := by
  obtain ⟨hpacket, hhead⟩ := queueAddresses_congr h.control h.queues L.ctx L.queue
  have hqueue : t.queue L.ctx L.queue = s.queue L.ctx L.queue := by rw [State.queue, State.queue, h.queues]
  simp only [State.endHeld, State.statusHeld, State.atHead, State.queueHeld, hpacket, hhead, hqueue, Bool.or_eq_true,
    Bool.and_eq_true, decide_eq_true_eq, h.lineHeld, ← or_and_right, ← and_assoc]

theorem sortedFrom_modify {β : Type} {c : Cells β} (h : Cells.sortedFrom none c = true) (k : Nat) (f : β → β) :
    Cells.sortedFrom none (c.modify k f) = true := by
  unfold Cells.modify
  split
  · exact h
  · exact sortedFrom_put h k _ (fun _ hb => nomatch hb)

/-- A launch that takes its final status leaves the table; of the rest only what a write at a home place changes. -/
theorem endLaunch_ends {s : State} {n : Nat} {L : Launch} (hL : s.launches.get? n = some L)
    (hs : Cells.sortedFrom none s.launches = true) (st : Nat) :
    (s.endLaunch n st).launches.get? n = none ∧ (s.endLaunch n st).basins = s.basins ∧ (s.endLaunch n st).rays = s.rays
      ∧ (MailboxesOk s → MailboxesOk (s.endLaunch n st)) := by
  have hput : HomeWritten s (s.putStatus L.ctx L.packet st) := .controllerPut ..
  unfold State.endLaunch
  rw [hL]
  refine ⟨?_, hput.basins, hput.rays, fun h => ⟨(hput.mailboxes h).control, (hput.mailboxes h).sideband⟩⟩
  show ((s.putStatus L.ctx L.packet st).launches.del n).get? n = none
  rw [hput.launches]
  exact get?_del_self hs n

theorem endStatus_ends {s : State} {n : Nat} {L K : Launch} (hK : s.launches.get? n = some K)
    (hs : Cells.sortedFrom none s.launches = true) :
    (s.endStatus n L).launches.get? n = none ∧ (s.endStatus n L).basins = s.basins ∧ (s.endStatus n L).rays = s.rays
      ∧ (MailboxesOk s → MailboxesOk (s.endStatus n L)) := by
  have hend := endLaunch_ends hK hs 0x15
  unfold State.endStatus
  dsimp only
  split
  · have hleave := HomeWritten.leaveHead (s.endLaunch n 0x15) L.ctx L.queue
    obtain ⟨hnone, hbasins, hrays, hok⟩ := hend
    exact ⟨by rw [hleave.launches, hnone], hleave.basins.trans hbasins, hleave.rays.trans hrays, hleave.mailboxes ∘ hok⟩
  · exact hend

/-! ### ENDLAUNCH -/

section
variable {s : State} {mb : Nat} (hw : s.commandWaits mb 4 = true)
include hw

theorem endlaunch_unknown (hs : MailboxesOk s) (hL : s.launches.get? (s.arg mb 0 4) = none) :
    EndsWith s mb (.endlaunch mb) 0x104 fun t => t.mem = s.mem :=
  endsWith_error (e := 3) hw (show execEndlaunch mb s = _ by simp only [execEndlaunch, hL]) (by decide) hs (mbStatus_mem ..)

variable {L : Launch} (hr : Regular s) (hL : s.launches.get? (s.arg mb 0 4) = some L)
include hr hL

/-- The launch is stopped and takes its final status. -/
theorem endlaunch_ends (hs : MailboxesOk s) (hfree : ¬ s.endHeld (s.arg mb 0 4) L) :
    EndsWith s mb (.endlaunch mb) 2 fun t =>
      t.launches.get? (s.arg mb 0 4) = none ∧ LaunchGone t (s.arg mb 0 4) L.ctx := by
  have hstop := stopLaunch_stops hr.basins (s.arg mb 0 4) L
  have hmid : (s.stopLaunch (s.arg mb 0 4) L).launches.get? (s.arg mb 0 4) = some { L with ended := true, saved := [] } := by
    rw [hstop.launches, get?_modify_self, hL]
    rfl
  obtain ⟨hnone, hbasins, hrays, hok⟩ := endStatus_ends (L := L) hmid
    (by rw [hstop.launches]; exact sortedFrom_modify hr.launches _ _)
  have hexec : exec (.endlaunch mb) s
      = s.command mb 4 (some ((s.stopLaunch (s.arg mb 0 4) L).endStatus (s.arg mb 0 4) L, 0)) := by
    change execEndlaunch mb s = _
    simp only [execEndlaunch, hL]
    rw [if_neg fun h => hfree (hstop.endHeld_iff.1 h.2)]
  refine endsWith_done hw hexec (hok ⟨hstop.control ▸ hs.control, hstop.sideband ▸ hs.sideband⟩) ⟨?_, ?_⟩
  · rw [mbStatus_launches, hnone]
  · exact (hstop.gone hr).written ((mbStatus_basins ..).trans hbasins) ((mbStatus_rays ..).trans hrays)

/-- The launch is stopped, and its status waits for the line. -/
theorem endlaunch_waits (hheld : s.endHeld (s.arg mb 0 4) L) :
    EndsWith s mb (.endlaunch mb) 1 fun t => LaunchGone t (s.arg mb 0 4) L.ctx
      ∧ t.launches.get? (s.arg mb 0 4) = some { L with ended := true, saved := [] } := by
  have hstop := stopLaunch_stops hr.basins (s.arg mb 0 4) L
  refine ⟨s.stopLaunch (s.arg mb 0 4) L, ?_, ?_, hstop.gone hr, ?_⟩
  · change execEndlaunch mb s = _
    simp only [execEndlaunch, hL]
    rw [if_pos ⟨hw, hstop.endHeld_iff.2 hheld⟩]
  · rw [← status_of_commandWaits hw]
    exact bytesNat_congr 4 4 fun i _ => by simp only [State.mbByte, State.ctl8, hstop.control, hstop.sideband]
  · rw [hstop.launches, get?_modify_self, hL]
    rfl

end

end Sys2Proof.Machine
end

section
open Sys2Proof Sys2Proof.Machine

/-- Settles O50, command by command, from what each leaves of the state it runs in; a mailbox reads back what was written to it, since
its bytes are in canonical form. -/
theorem mailboxCommands : Obligations.MailboxCommands := by
  unfold Obligations.MailboxCommands
  intro s mb sound regular Ends Result faults
  have hs := mailboxesOk sound regular
  refine ⟨fun hw => ?getconfig, fun hw => ?setpower, fun hw => ?invalidate, fun hw => ?endlaunch, fun hw => ?resolve,
    fun hw => ?refuse, fun hw => ?report, fun hw => ?update, fun hw => ?setparam, fun hw => ?clearjournal,
    fun hw => ?readlog, fun c q u hu _ _ hc hq => ?swap⟩
  case getconfig =>
    exact ⟨getconfig_block hs hw, getconfig_blockImage hs hw, getconfig_paramImage hs hw, getconfig_unknown hs hw⟩
  case setpower => exact ⟨setpower_inRange hs hw, setpower_outOfRange hs hw⟩
  case invalidate => exact invalidate_drops hs hw
  case endlaunch =>
    refine ⟨endlaunch_unknown hw hs, fun L hL => ⟨fun hfree => ?_, fun hheld => ?_⟩⟩
    · exact endlaunch_ends hw regular hL hs hfree
    · exact endlaunch_waits hw regular hL hheld
  case resolve => exact ⟨resolve_unknown hs hw, resolve_retries hs hw⟩
  case refuse => exact ⟨refuse_unknown hs hw, refuse_answers hs hw rfl⟩
  case report => exact ⟨report_unsigned hs hw, report_signed hs hw⟩
  case update =>
    refine ⟨update_inProgress hs hw, fun hu hplace hwin hreach hheld => ⟨fun hgood => ?_, fun hbad => ?_⟩⟩
    · exact update_good hs hw hu hplace hwin hreach hheld rfl hgood
    · exact update_bad hs hw hu hplace hwin hreach hheld rfl hbad
  case setparam => exact setparam_stores hs hw
  case clearjournal => exact clearjournal_clears hs hw
  case readlog => exact readlog_results hs hw
  case swap => exact queueFirmwareSwap_spec hs hu hc hq
end

section
/-! The bit fields of R127 and the word operations of Table 7.5, as operations on bit vectors. -/

namespace Sys2Proof.Machine

/-! ### `BFE` and `BFI` -/

theorem fieldWidth_eq (y : Word) : fieldWidth y = min ((y.toNat >>> 8) % 256) 32 := by
  rw [fieldWidth, Nat.shiftRight_eq_div_pow]

theorem getLsbD_bfe_n32 (x y : Word) {i : Nat} (hi : i < 32) :
    (bfe .n32 x y).getLsbD i = (decide (i < fieldWidth y) && x.getLsbD (fieldPos y + i)) := by
  rw [bfe, BitVec.getLsbD_ofNat, Nat.testBit_mod_two_pow, Nat.testBit_div_two_pow, BitVec.testBit_toNat, Nat.add_comm i]
  simp [hi]

/-- `SignExtend` of R116 reads the low `w` bits of an integer as a two's complement number. -/
theorem toInt_ofInt_two_pow (z : Int) {w : Nat} (hw : w ≠ 0) :
    (BitVec.ofInt w z).toInt
      = if z % (2 ^ w : Nat) < (2 ^ (w - 1) : Nat) then z % (2 ^ w : Nat) else z % (2 ^ w : Nat) - (2 ^ w : Nat) := by
  obtain ⟨n, rfl⟩ := Nat.exists_eq_succ_of_ne_zero hw
  have half : (((2 ^ (n + 1) : Nat) : Int) + 1) / 2 = (2 ^ n : Nat) := by rw [Nat.pow_succ]; omega
  rw [BitVec.toInt_ofInt, Int.bmod, half]
  rfl

/-- The signed form shifts arithmetically, cuts to the width and extends the sign of what is left. -/
theorem bfe_s32_eq_signExtend (x : Word) {y : Word} (hw : fieldWidth y ≠ 0) :
    bfe .s32 x y = ((x.sshiftRight (fieldPos y)).signExtend (fieldWidth y)).signExtend 32 := by
  rw [BitVec.signExtend, BitVec.signExtend, toInt_ofInt_two_pow _ hw, BitVec.toInt_sshiftRight, Int.shiftRight_eq_div_pow]
  exact if_neg hw

/-- A field of an arithmetically shifted word: past bit 31 every bit is a copy of bit 31. -/
theorem getLsbD_signExtend_sshiftRight (x : Word) (pos : Nat) {w k : Nat} (hw : w ≤ 32) (hk : k < w) :
    ((x.sshiftRight pos).signExtend w).getLsbD k = x.getLsbD (min (pos + k) 31) := by
  rw [BitVec.getLsbD_signExtend, BitVec.getLsbD_sshiftRight, BitVec.msb_eq_getLsbD_last]
  by_cases hin : pos + k < 32
  · rw [Nat.min_eq_left (by omega)]
    simp [hin, hk, show k < 32 by omega]
  · rw [Nat.min_eq_right (by omega)]
    simp [hin, hk, show k < 32 by omega]

theorem getLsbD_bfe_s32 (x y : Word) {i : Nat} (hi : i < 32) :
    (bfe .s32 x y).getLsbD i
      = (decide (0 < fieldWidth y) && x.getLsbD (min (fieldPos y + min i (fieldWidth y - 1)) 31)) := by
  have hw : fieldWidth y ≤ 32 := Nat.min_le_right ..
  by_cases h0 : fieldWidth y = 0
  · simp [bfe, h0]
  rw [bfe_s32_eq_signExtend x h0, BitVec.getLsbD_signExtend, BitVec.msb_eq_getLsbD_last]
  by_cases hin : i < fieldWidth y
  · rw [if_pos hin, getLsbD_signExtend_sshiftRight x _ hw hin, Nat.min_eq_left (a := i) (by omega)]
    simp [hi, Nat.pos_of_ne_zero h0]
  · rw [if_neg hin, getLsbD_signExtend_sshiftRight x _ hw (by omega), Nat.min_eq_right (a := i) (by omega)]
    simp [hi, Nat.pos_of_ne_zero h0]

theorem getLsbD_fieldMask (pos w : Nat) {i : Nat} (hi : i < 32) :
    (BitVec.ofNat 32 ((2 ^ w - 1) * 2 ^ pos)).getLsbD i = decide (pos ≤ i ∧ i < pos + w) := by
  rw [BitVec.getLsbD_ofNat, Nat.testBit_mul_two_pow, Nat.testBit_two_pow_sub_one]
  by_cases h : pos ≤ i <;> simp [h, hi]
  omega

theorem getLsbD_bfi (x y z : Word) {i : Nat} (hi : i < 32) :
    (bfi z x y).getLsbD i
      = if fieldPos y ≤ i ∧ i < fieldPos y + fieldWidth y then x.getLsbD (i - fieldPos y) else z.getLsbD i := by
  rw [bfi, BitVec.getLsbD_or, BitVec.getLsbD_and, BitVec.getLsbD_and, BitVec.getLsbD_not, getLsbD_fieldMask _ _ hi,
    BitVec.getLsbD_ofNat, Nat.testBit_mul_two_pow, BitVec.testBit_toNat]
  by_cases h : fieldPos y ≤ i ∧ i < fieldPos y + fieldWidth y
  · simp [h, hi]
  · simp [h, hi]

/-! ### Saturation, high products, shifts and `MOVHI` -/

theorem ssat32_eq (z : Int) : ssat32 z = BitVec.ofInt 32 (max (-2147483648) (min 2147483647 z)) := by
  rw [ssat32, clampInt, Int.min_comm]

theorem nsat32_add (x y : Word) : nsat32 (x.toNat + y.toNat) = BitVec.ofNat 32 (min (x.toNat + y.toNat) 4294967295) := by
  have clamped : clampInt ((x.toNat : Int) + y.toNat) 0 4294967295 = (min (x.toNat + y.toNat) 4294967295 : Nat) := by
    rw [clampInt]; omega
  rw [nsat32, clamped, BitVec.ofInt_natCast]

theorem mulHigh_n32 (x y : Word) : mulHigh .n32 x y = (x.zeroExtend 64 * y.zeroExtend 64).extractLsb' 32 32 := by
  have bound : x.toNat * y.toNat < 2 ^ 32 * 2 ^ 32 := Nat.mul_lt_mul'' x.isLt y.isLt
  have product : (x.zeroExtend 64 * y.zeroExtend 64).toNat = x.toNat * y.toNat := by
    rw [BitVec.toNat_mul, BitVec.toNat_setWidth_of_le (by decide), BitVec.toNat_setWidth_of_le (by decide)]
    exact Nat.mod_eq_of_lt bound
  rw [mulHigh, BitVec.extractLsb', product, Nat.shiftRight_eq_div_pow]

/-- The high word of a signed double word is its quotient by 2^32, rounded down. -/
theorem extractLsb'_high (v : Dword) : v.extractLsb' 32 32 = BitVec.ofInt 32 (v.toInt / 4294967296) := by
  have shifted : BitVec.ofInt 32 (v.toInt / 4294967296) = (v.sshiftRight 32).signExtend 32 := by
    rw [BitVec.signExtend, BitVec.toInt_sshiftRight, Int.shiftRight_eq_div_pow]; rfl
  rw [shifted]
  apply BitVec.eq_of_getLsbD_eq
  intro i hi
  rw [BitVec.getLsbD_signExtend, BitVec.getLsbD_sshiftRight, BitVec.getLsbD_extractLsb']
  simp [hi, show i < 64 by omega, show 32 + i < 64 by omega]

theorem mulHigh_s32 (x y : Word) : mulHigh .s32 x y = (x.signExtend 64 * y.signExtend 64).extractLsb' 32 32 := by
  have upper : x.toInt * y.toInt ≤ 2 ^ 62 := BitVec.toInt_mul_toInt_le
  have lower : -2 ^ 62 ≤ x.toInt * y.toInt := BitVec.le_toInt_mul_toInt
  have product : (x.signExtend 64 * y.signExtend 64).toInt = x.toInt * y.toInt := by
    rw [BitVec.toInt_mul, BitVec.toInt_signExtend_of_le (by decide), BitVec.toInt_signExtend_of_le (by decide),
      Int.bmod_eq_of_le (by omega) (by omega)]
  rw [extractLsb'_high, product, mulHigh]

theorem shl32_eq (x : Word) (n : Nat) : shl32 x n = x <<< n := by
  apply BitVec.eq_of_toNat_eq
  rw [shl32, BitVec.toNat_shiftLeft, BitVec.toNat_ofNat, Nat.shiftLeft_eq]
  split
  · rfl
  · have : 2 ^ 32 ∣ x.toNat * 2 ^ n := Nat.dvd_mul_left_of_dvd (Nat.pow_dvd_pow 2 (by omega)) _
    rw [Nat.mod_eq_zero_of_dvd this]

theorem shr32_eq (x : Word) (n : Nat) : shr32 x n = x >>> n := by
  apply BitVec.eq_of_toNat_eq
  rw [shr32, BitVec.toNat_ushiftRight, BitVec.toNat_ofNat, Nat.shiftRight_eq_div_pow]
  split
  · exact Nat.mod_eq_of_lt (Nat.lt_of_le_of_lt (Nat.div_le_self ..) x.isLt)
  · have : x.toNat < 2 ^ n := Nat.lt_of_lt_of_le x.isLt (Nat.pow_le_pow_right (by decide) (by omega))
    rw [Nat.div_eq_of_lt this]

/-- An arithmetic shift by 32 or more gives copies of the sign, as one by 32 does. -/
theorem sshiftRight_min (x : Word) (n : Nat) : x.sshiftRight (min n 32) = x.sshiftRight n := by
  apply BitVec.eq_of_getLsbD_eq
  intro i _
  rw [BitVec.getLsbD_sshiftRight, BitVec.getLsbD_sshiftRight]
  by_cases h : n ≤ 32
  · rw [Nat.min_eq_left h]
  · rw [if_neg (by omega), if_neg (by omega)]

theorem sar32_eq (x : Word) (n : Nat) : sar32 x n = x.sshiftRight n := by
  rw [sar32, ← Int.shiftRight_eq_div_pow, ← BitVec.sshiftRight_eq, sshiftRight_min]

theorem movHigh_eq (x : Word) (imm : BitVec 18) : movHigh x imm = imm.extractLsb' 0 16 ++ x.extractLsb' 0 16 := by
  rw [← BitVec.setWidth_eq_extractLsb' (by decide), ← BitVec.setWidth_eq_extractLsb' (by decide)]
  rfl

end Sys2Proof.Machine
end

section
open Sys2Proof Sys2Proof.Machine

/-- Settles O3: the model's own `bfe` and `bfi` have these bits. -/
theorem bitFields : Obligations.BitFields := by
  unfold Obligations.BitFields
  refine ⟨bfe .n32, bfe .s32, fun x y z => bfi z x y, fun x y i hi => ?bfeN, fun x y i hi => ?bfeS, fun x y z i hi => ?ins,
    fun d a b => ⟨?execN, ?execS, ?execIns⟩⟩
  case bfeN => rw [getLsbD_bfe_n32 x y hi, fieldWidth_eq]; rfl
  case bfeS => rw [getLsbD_bfe_s32 x y hi, fieldWidth_eq]; rfl
  case ins => rw [getLsbD_bfi x y z hi, fieldWidth_eq]; rfl
  case execN | execS => exact alu2_shape (fun _ => rfl) fun _ _ => rfl
  case execIns => exact alu3_shape (fun _ => rfl) fun _ _ _ => rfl
end

section
/-! `PACK` reads its destination in the forms that replace one half of it, and in no others (R136). -/

namespace Sys2Proof.Machine

theorem readsD_iff (f : PackForm) : PackForm.readsD f = true ↔ f ≠ .f16x2 ∧ f ≠ .bf16x2 := by
  cases f <;> decide

theorem pack_twoSource {f : PackForm} (h : PackForm.readsD f = false) (d a b : Reg) :
    TwoSource (.pack d a b f) d a b fun x y => packWord f x y 0 :=
  alu2_shape (fun _ => congrArg Host.Outcome.next (if_neg (by simp [h]))) fun _ _ => rfl

theorem pack_threeSource {f : PackForm} (h : PackForm.readsD f = true) (d a b : Reg) :
    ThreeSource (.pack d a b f) d a b (packWord f) :=
  alu3_shape (fun _ => congrArg Host.Outcome.next (if_pos h)) fun _ _ _ => rfl

end Sys2Proof.Machine
end

section
open Sys2Proof Sys2Proof.Machine

/-- Settles O4: each instruction issues in the shape of its sources, and its function of them is the one stated, by the model's
definition of it. -/
theorem floatArithmetic : Obligations.FloatArithmetic := by
  unfold Obligations.FloatArithmetic
  refine ⟨fun d a b rm => ⟨fun ty => ?fadd, fun ty => ?fsub, fun ty => ?fmul, fun ty => ?ffma, fun ty => ?fmin, fun ty => ?fmax,
      fun ty => ?fdot2, ?fdiv, fun cc hd => ?fcmp⟩,
    fun d a b rm => ⟨?fclass, fun c sat => ?cvt, fun ty => ?frnd, ?rcp, ?rsq, ?sqrt, ?exp2, ?log2, ?sin, ?cos, ?tanh,
      ?packF16, ?packBf16, fun f hf16 hbf16 => ?packFp8, fun f => ?unpk⟩⟩
  case fadd | fsub | fmul | fmin | fmax | fdiv => exact alu2_shape (fun _ => rfl) fun _ _ => rfl
  case ffma | fdot2 => exact alu3_shape (fun _ => rfl) fun _ _ _ => rfl
  case fcmp => exact cmp2_shape hd (fun _ => rfl) fun _ _ => rfl
  case fclass | cvt | frnd | rcp | rsq | sqrt | exp2 | log2 | sin | cos | tanh | unpk =>
    exact alu1_shape (fun _ => rfl) fun _ => rfl
  case packF16 | packBf16 => exact pack_twoSource rfl d a b
  case packFp8 => exact pack_threeSource ((readsD_iff f).2 ⟨hf16, hbf16⟩) d a b
end

section
/-! Issues that write one uniform register or a pair of them, and the lanes of a ballot (R138, R168). -/

namespace Sys2Proof.Machine

variable {i : Instr} {s : State} {B : Basin} {J : Jet} {o : Operands}

theorem uniformOne_completes (h : Issues s o B J) {r : Nat} {f : Jet → Word} {v : Word}
    (he : exec i s = .next (s.uniformOp o [(r, f)])) (hv : f J = v) : UniformCompletes i s B J [(r, v)] := by
  refine ⟨_, he, uniformOp_result h _ _ fun k => ?_⟩
  simp only [List.foldl_cons, List.foldl_nil, setSreg_sreg, lookup_one, hv]
  by_cases hk : k = r
  · subst hk; by_cases h8 : 8 ≤ k <;> simp [h8]
  · simp [hk]

theorem uniformPair_completes (h : Issues s o B J) {r : Nat} (h8 : 8 ≤ r) {f : Jet → Dword}
    (he : exec i s = .next (s.uniformOp o [(r, fun J => lo32 (f J)), (r + 1, fun J => hi32 (f J))])) :
    UniformCompletes i s B J [(r, (f J).extractLsb' 0 32), (r + 1, (f J).extractLsb' 32 32)] := by
  refine ⟨_, he, uniformOp_result h _ _ fun k => ?_⟩
  simp only [List.foldl_cons, List.foldl_nil, setSreg_sreg, lookup_cons, List.lookup_nil, lo32_eq, hi32_eq]
  by_cases hlo : k = r
  · subst hlo; simp [h8]
  · by_cases hhi : k = r + 1
    · subst hhi; simp [show 8 ≤ r + 1 by omega]
    · simp [hlo, hhi]

theorem getLsbD_ballot (J : Jet) (m : Lanes) (p : Nat) (inv : Bool) {l : Nat} (hl : l < 32) :
    (J.ballot m p inv).getLsbD l = (m.getLsbD l && ((((J.threads.get? l).map fun T => T.pred p).getD false) != inv)) := by
  rw [Jet.ballot, getLsbD_maskOf _ _ hl, List.contains_eq_mem, Bool.eq_iff_iff, decide_eq_true_eq, lanesOf, List.mem_filter,
    List.mem_filter, List.mem_range, Bool.and_eq_true, and_iff_right hl]

end Sys2Proof.Machine
end

section
open Sys2Proof Sys2Proof.Machine

/-- Settles O5: each is one write of a uniform register or pair, of the value that the vector counterpart computes, of the ballot,
or of the fold over the executing lanes. -/
theorem uniformInstructions : Obligations.UniformInstructions := by
  unfold Obligations.UniformInstructions
  refine ⟨fun d a b => ⟨?sadd, ?saddSsat, ?saddNsat, fun s B J h h8 => ?saddB64, ?smul, ?smulHin, ?smulHis, ?and, ?or, ?xor,
      ?andn, ?shl, ?shr, ?sar, fun cc => ?scmp, fun imm s B J h => ?smovi, fun imm s B J h => ?smovhi⟩,
    fun d a s B J => ⟨fun inv h _ => ?ballot, fun f h => ?jred, fun h => ?mmovSm⟩⟩
  case sadd | smul | and | or | xor | andn | scmp => exact suni2_shape (fun _ => rfl) fun _ _ => rfl
  case saddSsat => exact suni2_shape (fun _ => rfl) fun x y => ssat32_eq (x.toInt + y.toInt)
  case saddNsat => exact suni2_shape (fun _ => rfl) nsat32_add
  case saddB64 => exact uniformPair_completes h h8 (f := fun J => J.spair a.toNat + J.spair b.toNat) rfl
  case smulHin => exact suni2_shape (fun _ => rfl) mulHigh_n32
  case smulHis => exact suni2_shape (fun _ => rfl) mulHigh_s32
  case shl => exact suni2_shape (fun _ => rfl) fun x y => shl32_eq x y.toNat
  case shr => exact suni2_shape (fun _ => rfl) fun x y => shr32_eq x y.toNat
  case sar => exact suni2_shape (fun _ => rfl) fun x y => sar32_eq x y.toNat
  case smovi | mmovSm | jred => exact uniformOne_completes h rfl rfl
  case smovhi => exact uniformOne_completes h rfl (movHigh_eq ..)
  case ballot =>
    obtain ⟨t, ht, hresult⟩ := uniformOne_completes h (i := .ballot d a inv) rfl rfl
    exact ⟨t, ht, _, hresult, fun l hl => getLsbD_ballot J s.cur.exec a.toNat inv hl⟩
end

section
/-! `BCAST` (R139): the values that the lanes receive, and the notes of them that the pending writes keep (R79). -/

namespace Sys2Proof.Machine

/-! ### The value that a lane receives -/

/-- `v` is the value that a pending operation of the jet is to give uniform register `r`. -/
def Jet.PendingValue (J : Jet) (r : Nat) (v : Word) : Prop :=
  ∃ o ∈ J.longs, ∃ ws e, o.lane = 32 ∧ o.val = some ws ∧ e ∈ o.dests ∧ e.2 = .ureg r ∧ v = (ws[e.1]?).getD 0

theorem uniform_of_mem_uregWrites {J : Jet} {i r : Nat} (h : i ∈ J.uregWrites r) :
    ∃ o, J.longs[i]? = some o ∧ o.lane = 32 := by
  have writes := (List.mem_filter.1 h).2
  split at writes
  · next o ho => exact ⟨o, ho, of_decide_eq_true (Bool.and_eq_true_iff.1 writes).1⟩
  · cases writes

theorem pendingValue_of_pendingUreg {J : Jet} {i r : Nat} {v : Word} (hi : i ∈ J.uregWrites r) (hv : J.pendingUreg i r = some v) :
    J.PendingValue r v := by
  obtain ⟨o, ho, hlane⟩ := uniform_of_mem_uregWrites hi
  simp only [Jet.pendingUreg, ho] at hv
  split at hv
  · next ws e hval hfind =>
    exact ⟨o, List.mem_of_getElem? ho, ws, e, hlane, hval, List.mem_of_find?_eq_some hfind,
      by simpa using List.find?_some hfind, (Option.some.inj hv).symm⟩
  · cases hv

/-- Each pending write that is known either replaces what the lane would receive or leaves it. -/
theorem bcastValue_cases (J : Jet) (tick r l : Nat) :
    J.bcastValue tick r l = J.sreg r ∨ J.PendingValue r (J.bcastValue tick r l) := by
  refine List.foldlRecOn (motive := fun v => v = J.sreg r ∨ J.PendingValue r v) (J.uregWrites r) _ (.inl rfl) fun v hv i hi => ?_
  split
  · next takes =>
    obtain ⟨w, hw⟩ := Option.isSome_iff_exists.1 (Bool.and_eq_true_iff.1 takes).1
    rw [hw]
    exact .inr (pendingValue_of_pendingUreg hi hw)
  · exact hv

/-! ### The notes of which lanes have received a value -/

/-- An operation without the notes of which lanes have received its values (R79). -/
def LongOp.unnoted (o : LongOp) : LongOp := { o with seen := [] }

/-- The operations `new` are the `old` ones, in order, but for those notes. -/
def Noted (old new : List LongOp) : Prop := new.map LongOp.unnoted = old.map LongOp.unnoted

theorem noted_noteSeen (J : Jet) (tick r : Nat) (m : Lanes) : Noted J.longs (J.noteSeen tick r m).longs := by
  refine List.ext_getElem (by simp only [Jet.noteSeen, List.length_map, List.length_mapIdx]) fun k _ _ => ?_
  simp only [Jet.noteSeen, List.getElem_map, List.getElem_mapIdx]
  split <;> rfl

/-- Neither the shadows nor the end of an operation depend on its notes. -/
theorem unnoted_retire (J : Jet) (m : Lanes) (issue : Bool) :
    (J.retire m issue).longs.map LongOp.unnoted
      = (passShadows (J.longs.map LongOp.unnoted) m issue).filter fun o => !o.finished := by
  have passed : passShadows (J.longs.map LongOp.unnoted) m issue = (passShadows J.longs m issue).map LongOp.unnoted := by
    simp only [passShadows, List.map_map]
    exact List.map_congr_left fun o _ => (apply_ite LongOp.unnoted _ { o with shadow := o.shadow - 1 } o).symm
  rw [passed, List.filter_map]
  rfl

theorem Noted.retire {J K : Jet} (h : Noted J.longs K.longs) (m : Lanes) (issue : Bool) :
    Noted (J.retire m issue).longs (K.retire m issue).longs := by
  rw [Noted, unnoted_retire, unnoted_retire, h]

theorem Noted.length_eq {old new : List LongOp} (h : Noted old new) : new.length = old.length := by
  simpa only [List.length_map] using congrArg List.length h

theorem eq_of_unnoted_eq {o o0 : LongOp} (h : o0.unnoted = o.unnoted) : o = { o0 with seen := o.seen } :=
  congrArg (fun x : LongOp => { x with seen := o.seen }) h.symm

theorem Noted.getElem? {old new : List LongOp} (h : Noted old new) (k : Nat) (o : LongOp) (ho : new[k]? = some o) :
    ∃ o0, old[k]? = some o0 ∧ o = { o0 with seen := o.seen } := by
  have same : (old.map LongOp.unnoted)[k]? = some o.unnoted := by rw [← h, List.getElem?_map, ho]; rfl
  rw [List.getElem?_map] at same
  obtain ⟨o0, ho0, e⟩ := Option.map_eq_some_iff.1 same
  exact ⟨o0, ho0, eq_of_unnoted_eq e⟩

/-! ### The issue -/

variable {s : State} {B : Basin} {J : Jet}

theorem withIssued_jet? (s : State) (B : Basin) (K : Jet) (q d : List MatOp) :
    (s.withIssued B K q d).jet? s.cur.basin s.cur.jet = some K := by
  simp [State.jet?, State.basin?, State.withIssued]

theorem withIssued_withJet (s : State) (B : Basin) (K : Jet) (q d : List MatOp) (f : Jet → Jet) :
    (s.withIssued B K q d).withJet s.cur.basin s.cur.jet f = s.withIssued B (f K) q d := by
  simp [State.withIssued, State.withJet, State.withBasin, Basin.withJet, Cells.modify, put_put]

theorem withIssued_retire (s : State) (B : Basin) (K : Jet) (q d : List MatOp) :
    (s.withIssued B K q d).retire = s.withIssued B (K.retire s.cur.group (!s.cur.resumed)) q d :=
  withIssued_withJet s B K q d fun K => K.retire s.cur.group (!s.cur.resumed)

/-- The jet after a write of the lanes `m`, before the issue retires. -/
def Jet.laneWritten (J : Jet) (m : Lanes) (ws ps : List Nat) (f : Nat → Thread → Thread) : Jet :=
  { J.withLanes m f with longs := discardAll J.longs (fun l => m.getLsbD l) (ws.map Dest.word ++ ps.map Dest.pred) }

theorem withBasin_laneWrite (hB : s.basins.get? s.cur.basin = some B) (hJ : B.jets.get? s.cur.jet = some J)
    (ws ps : List Nat) (f : Nat → Thread → Thread) :
    s.withBasin s.cur.basin (fun B => B.laneWrite s.cur.jet s.cur.exec ws ps f)
      = s.withIssued B (J.laneWritten s.cur.exec ws ps f) (touchRegs B.matQ s.cur.jet (fun l => s.cur.exec.getLsbD l) ws)
          (touchRegs B.matDone s.cur.jet (fun l => s.cur.exec.getLsbD l) ws) := by
  rw [withBasin_eq hB, Basin.laneWrite, modify_eq_put hJ]
  rfl

theorem setWord_result (hB : s.basins.get? s.cur.basin = some B) (hJ : B.jets.get? s.cur.jet = some J) (w : Nat)
    (v : Nat → Word) :
    LaneResult s
      (s.withBasin s.cur.basin fun B => B.laneWrite s.cur.jet s.cur.exec [w] [] fun l T => T.setWord w (v l)).retire B J
      (fun l _ => [(w, v l)]) fun _ _ => [] := by
  refine laneWrite_result hB hJ _ _ _ _ _ (fun _ _ => rfl) (fun l T x => ?_) fun _ _ _ _ => rfl
  rw [setWord_word, lookup_one]
  split <;> rfl

/-- The lanes' writes and then the notes of pending writes leave what the lanes' writes alone do, the notes set aside. -/
theorem laneWrite_noteSeen_result (hB : s.basins.get? s.cur.basin = some B) (hJ : B.jets.get? s.cur.jet = some J)
    (ws ps : List Nat) (f : Nat → Thread → Thread) (tick r : Nat) (m : Lanes) {words : Nat → Thread → List (Nat × Word)}
    {preds : Nat → Thread → List (Nat × Bool)}
    (hr : LaneResult s (s.withBasin s.cur.basin fun B => B.laneWrite s.cur.jet s.cur.exec ws ps f).retire B J words preds) :
    let t := ((s.withBasin s.cur.basin fun B => B.laneWrite s.cur.jet s.cur.exec ws ps f).withJet s.cur.basin s.cur.jet
      fun K => K.noteSeen tick r m).retire
    ∃ K longs, t.jet? s.cur.basin s.cur.jet = some K ∧ Noted longs K.longs
      ∧ LaneResult s (t.withJet s.cur.basin s.cur.jet fun K => { K with longs := longs }) B J words preds := by
  intro t
  rw [withBasin_laneWrite hB hJ, withIssued_retire] at hr
  have ht : t = s.withIssued B (((J.laneWritten s.cur.exec ws ps f).noteSeen tick r m).retire s.cur.group (!s.cur.resumed))
      (touchRegs B.matQ s.cur.jet (fun l => s.cur.exec.getLsbD l) ws)
      (touchRegs B.matDone s.cur.jet (fun l => s.cur.exec.getLsbD l) ws) := by
    simp only [t]
    rw [withBasin_laneWrite hB hJ, withIssued_withJet, withIssued_retire]
  refine ⟨_, _, ht ▸ withIssued_jet? .., (noted_noteSeen _ tick r m).retire _ _, ?_⟩
  rw [ht, withIssued_withJet]
  exact hr

end Sys2Proof.Machine
end

section
open Sys2Proof Sys2Proof.Machine

/-- Settles O24: what is left of the pending operations without the notes is what a lane write leaves, and every value that a lane
receives is the register's or a pending write's. -/
theorem broadcasts : Obligations.Broadcasts := by
  unfold Obligations.Broadcasts
  intro s B J d a h
  have hexec : exec (.bcast d a) s = .next (State.issue s _ _) := rfl
  rw [issue_body h] at hexec
  obtain ⟨K, longs, hjet, notes, hlane⟩ := laneWrite_noteSeen_result h.basin h.jet _ _ _ s.tick a.toNat s.cur.exec
    (setWord_result h.basin h.jet (mapReg J.wb d.toNat) (J.bcastValue s.tick a.toNat))
  exact ⟨_, K, longs, J.bcastValue s.tick a.toNat, hexec, hjet, notes.length_eq, notes.getElem?, hlane,
    bcastValue_cases J s.tick a.toNat⟩
end
